-- ==== Sys2Proof/Word.lean ====
section
/-! DEFINITION. The word types of the model and the widths the manual names (00 Table 0-2, R3). -/
namespace Sys2Proof

/-- One byte of memory. -/
abbrev Byte := BitVec 8

/-- A 32-bit value: an FP32 code, a counter, a flag value, a card instruction. -/
abbrev Word := BitVec 32

/-- A 64-byte tile descriptor (R202, Table 7-4); bit 0 is bit 0 of word 0. -/
abbrev Desc := BitVec 512

/-- A one-bit field read as a truth value. -/
abbrev isOne (b : BitVec 1) : Bool := b == 1#1

end Sys2Proof
end

