-- ==== Sys2Proof/Syntax.lean ====
section
/-! DEFINITION. The commands of the block: one constructor of `Instr` per row of spec/opcode_table.json,
and the operand types they carry. The 31 stream commands carry the raw bit fields of Tables 7-1, 7-5
and 7-6; the other rows carry what the spec says comes with the event. -/
namespace Sys2Proof

/-- The four command streams of a cell (07, Table 4-1). -/
inductive Strm | F | B | U | C
  deriving DecidableEq, Repr

/-- The three looms of a cell (R69). -/
inductive Loom | F | B0 | B1
  deriving DecidableEq, Repr

/-- A logical cell (R1). -/
abbrev CellIx := Fin 64

/-- The command header of Table 7-1 without its opcode. -/
structure Hdr where
  ec   : BitVec 2
  crit : BitVec 1
  gate : BitVec 3
  deriving DecidableEq, Repr

/-- The matrix command's fields, Table 7-5. -/
structure MmaOp where
  dwmask : BitVec 2
  loom   : BitVec 2
  bank   : BitVec 1
  init   : BitVec 2
  drain  : BitVec 1
  passes : BitVec 2
  emit   : BitVec 1
  foreR  : BitVec 1
  sparse : BitVec 3
  zpMode : BitVec 2
  prod   : BitVec 1
  ha     : BitVec 5
  popa   : BitVec 1
  hb     : BitVec 5
  popb   : BitVec 1
  ho     : BitVec 5
  hr     : BitVec 5
  he     : BitVec 5
  hm     : BitVec 5
  mlen   : BitVec 8
  nlen   : BitVec 8
  klen   : BitVec 16
  key    : BitVec 32
  deriving DecidableEq, Repr

/-- LOOP, Table 7-6. -/
structure LoopOp where
  csrc  : BitVec 1
  cctr  : BitVec 3
  ictr  : BitVec 3
  ien   : BitVec 1
  body  : BitVec 8
  count : BitVec 32
  deriving DecidableEq, Repr

/-- CNT, Table 7-6. -/
structure CntOp where
  dst  : BitVec 3
  op   : BitVec 3
  src  : BitVec 3
  imm  : BitVec 32
  addr : BitVec 48
  deriving DecidableEq, Repr

/-- CMP, Table 7-6. -/
structure CmpOp where
  j    : BitVec 2
  arm  : BitVec 1
  ca   : BitVec 3
  rel  : BitVec 2
  bsrc : BitVec 1
  cb   : BitVec 3
  act  : BitVec 1
  imm  : BitVec 32
  flag : BitVec 8
  deriving DecidableEq, Repr

/-- HPUSH, Table 7-6. -/
structure HpushOp where
  tidx   : BitVec 10
  h      : BitVec 5
  ctr    : BitVec 3
  cen    : BitVec 1
  modlog : BitVec 5
  stride : BitVec 16
  deriving DecidableEq, Repr

/-- FLAG and WAIT, Table 7-6 (WAIT holds zero in `op`). -/
structure FlagOp where
  scope : BitVec 1
  op    : BitVec 1
  flag  : BitVec 8
  ctr   : BitVec 3
  cen   : BitVec 1
  value : BitVec 32
  deriving DecidableEq, Repr

/-- UCOMMIT, Table 7-6. `dims` holds bits [79:64]: ROWS-1 and COLS-1 for MASTER, SIZE-1 (12 bits) for STATE. -/
structure UcommitOp where
  kind  : BitVec 1
  par   : BitVec 1
  rm    : BitVec 2
  een   : BitVec 1
  entry : BitVec 6
  hba   : BitVec 5
  hbb   : BitVec 5
  hw    : BitVec 5
  hwt   : BitVec 5
  dims  : BitVec 16
  key   : BitVec 32
  deriving DecidableEq, Repr

/-- VPUB and VREL, Table 7-6. -/
structure VerOp where
  par   : BitVec 1
  entry : BitVec 6
  deriving DecidableEq, Repr

/-- LDT, Table 7-6. -/
structure LdtOp where
  dst    : BitVec 4
  rowoff : BitVec 8
  cbdec  : BitVec 1
  ls     : BitVec 2
  pop    : BitVec 1
  h      : BitVec 5
  deriving DecidableEq, Repr

/-- STT, Table 7-6. -/
structure SttOp where
  src    : BitVec 4
  rowoff : BitVec 8
  rm     : BitVec 2
  grad   : BitVec 1
  pop    : BitVec 1
  h      : BitVec 5
  ha     : BitVec 5
  mx     : BitVec 2
  ls     : BitVec 2
  i16    : BitVec 1
  upd    : BitVec 1
  hr     : BitVec 5
  push   : BitVec 1
  key    : BitVec 32
  deriving DecidableEq, Repr

/-- One bound source of a CARD (12 bits). -/
structure CardSrc where
  mode : BitVec 2
  reg  : BitVec 4
  y    : BitVec 6
  deriving DecidableEq, Repr

/-- One bound destination of a CARD (5 bits). -/
structure CardDst where
  bound : BitVec 1
  reg   : BitVec 4
  deriving DecidableEq, Repr

/-- CARD, Table 7-6. -/
structure CardOp where
  slot   : BitVec 4
  prec   : BitVec 1
  rowoff : BitVec 8
  s0     : CardSrc
  s1     : CardSrc
  s2     : CardSrc
  s3     : CardSrc
  d0     : CardDst
  d1     : CardDst
  key    : BitVec 32
  deriving DecidableEq, Repr

/-- RED, Table 7-6. -/
structure RedOp where
  src    : BitVec 4
  src2   : BitVec 4
  op     : BitVec 3
  axis   : BitVec 1
  seg    : BitVec 1
  acc    : BitVec 1
  dst    : BitVec 4
  drow   : BitVec 6
  dcol   : BitVec 8
  rowoff : BitVec 8
  idxb   : BitVec 24
  key    : BitVec 32
  deriving DecidableEq, Repr

/-- ZMAP, Table 7-6. -/
structure ZmapOp where
  src    : BitVec 4
  axis   : BitVec 1
  andb   : BitVec 1
  panel  : BitVec 8
  rowoff : BitVec 8
  deriving DecidableEq, Repr

/-- TBL, Table 7-6. -/
structure TblOp where
  kind  : BitVec 2
  dir   : BitVec 1
  index : BitVec 4
  len   : BitVec 5
  fmt   : BitVec 5
  h     : BitVec 5
  pop   : BitVec 1
  deriving DecidableEq, Repr

/-- MOVE, Table 7-6. -/
structure MoveOp where
  hs   : BitVec 5
  hd   : BitVec 5
  hr   : BitVec 5
  push : BitVec 1
  prio : BitVec 2
  rows : BitVec 20
  rb   : BitVec 18
  deriving DecidableEq, Repr

/-- RSIG, Table 7-6. -/
structure RsigOp where
  scope  : BitVec 1
  op     : BitVec 1
  flag   : BitVec 8
  cell   : BitVec 6
  device : BitVec 16
  value  : BitVec 32
  deriving DecidableEq, Repr

/-- RATOM, Table 7-6; `opnds` are bits [127:64], laid out by Table 8-6. -/
structure RatomOp where
  aop   : BitVec 4
  ht    : BitVec 5
  hr    : BitVec 5
  push  : BitVec 1
  opnds : BitVec 64
  deriving DecidableEq, Repr

/-- DRV_SUBMIT, Table 7-6; `desc` and `region` are address bits [47:5]. -/
structure DrvSubmitOp where
  mb     : BitVec 6
  sub    : BitVec 6
  hsc    : BitVec 5
  pop    : BitVec 1
  desc   : BitVec 43
  region : BitVec 43
  deriving DecidableEq, Repr

/-- DRV_SEND, Table 7-6. -/
structure DrvSendOp where
  mb   : BitVec 6
  dir  : BitVec 1
  hsrc : BitVec 5
  hdst : BitVec 5
  rb   : BitVec 13
  desc : BitVec 43
  deriving DecidableEq, Repr

/-- DRV_CLOSE, Table 7-6. -/
structure DrvCloseOp where
  mb   : BitVec 6
  desc : BitVec 43
  deriving DecidableEq, Repr

/-- A Mill command's fields, Table 10-4 (opcodes 0x70-0x73). -/
structure MillOp where
  arith : BitVec 2
  group : BitVec 6
  ifmt  : BitVec 5
  ofmt  : BitVec 5
  hs    : BitVec 5
  hd    : BitVec 5
  hr    : BitVec 5
  push  : BitVec 1
  rm    : BitVec 2
  root  : BitVec 12
  seg   : BitVec 26
  cseq  : BitVec 16
  keyb  : BitVec 16
  deriving DecidableEq, Repr

/-- The stream commands of Table 7-2 with their raw fields. -/
inductive Op
  | nop
  | stepmark (step : BitVec 32)
  | loop (f : LoopOp)
  | cnt (f : CntOp)
  | cmp (f : CmpOp)
  | hpush (f : HpushOp)
  | flag (f : FlagOp)
  | wait (f : FlagOp)
  | mma (f : MmaOp)
  | ucommit (f : UcommitOp)
  | vpub (f : VerOp)
  | udone (par : BitVec 1)
  | vote
  | vrel (f : VerOp)
  | setlen (vl : BitVec 8) (rl : BitVec 6)
  | ldt (f : LdtOp)
  | stt (f : SttOp)
  | card (f : CardOp)
  | red (f : RedOp)
  | zmap (f : ZmapOp)
  | tbl (f : TblOp)
  | move (f : MoveOp)
  | rsig (f : RsigOp)
  | ratom (f : RatomOp)
  | drvSubmit (f : DrvSubmitOp)
  | drvSend (f : DrvSendOp)
  | drvClose (f : DrvCloseOp)
  | millRs (f : MillOp)
  | millAg (f : MillOp)
  | millAr (f : MillOp)
  | millBc (f : MillOp)
  deriving DecidableEq, Repr

/-- A dictionary request without its opcode (Table 15-3): tag, index, sub-index, flags, offset, length field and data. -/
structure DReq where
  tag   : Nat
  idx   : Nat
  sub   : Nat
  flags : Nat := 0
  off   : Nat := 0
  len   : Nat := 0
  data  : List Byte := []
  deriving DecidableEq, Repr

/-- A Sweul, Mill, Ledger or recovery message as it comes: its header word and its data words, 32 bytes each with the
poison mark. -/
structure MsgIn where
  hdr  : List Byte
  data : List (List Byte × Bool)
  deriving DecidableEq, Repr

/-- What the Almanac reads at an update (Table 13-1, R383, R392): power estimates in mW of the 66 physical cells and of
the uncore, temperatures in 0.1 C of the 66 physical cells, the four I/O dies and the twelve stacks, and the two figures
P_u and L16 in mW (L16 = 0: no loom work in the last 100 us). -/
structure AlmIn where
  cells  : List Nat
  uncore : Nat
  junc   : List Int
  io     : List Int
  hbms   : List Int
  pu     : Nat
  l16    : Nat
  deriving DecidableEq, Repr


/-- How a request of the host arrived (Table 16-6): well, after the link had to retry it, with EP set, malformed, or failing the
integrity check of an IDE stream. -/
inductive Tlp | good | retried | poisoned | malformed | ideFail (stream : Nat)
  deriving DecidableEq, Repr

/-- Who makes an access to a register: the host, in a Secure IDE stream or not, or a carter of the device. -/
inductive Src
  | host (secure : Bool) (tlp : Tlp)
  | carter
  deriving DecidableEq, Repr

/-- A write to configuration space: the Resizable BAR size of BAR2 as a power of two, the MSI-X control's enable and function
mask, the power state, the maximum payload in bytes, a class of AER status to clear (0 correctable, 1 non-fatal, 2 fatal), or another
register. -/
inductive CfgW
  | rebar (log : Nat)
  | maxPayload (bytes : Nat)
  | aerClear (cls : Nat)
  | msix (enable mask : Bool)
  | power (d3 : Bool)
  | other (reg v : Nat)
  deriving DecidableEq, Repr

/-- The PLLs of Table 18-7. -/
inductive Pll | root | hbm (stack : Nat) | pcie | sweul (quadrant : Nat) | eth (port : Nat)
  deriving DecidableEq, Repr

/-- A request on the debug port (R431). -/
inductive DbgReq
  | ident
  | trace
  /-- a cell's register, or its pause, by the management ring -/
  | ringRead (cell : CellIx) (off : Nat)
  | ringPause (cell : CellIx) (on : Bool)
  | read (addr n : Nat)
  | write (addr : Nat) (bytes : List Byte)
  deriving DecidableEq, Repr

/-- How a boot stage ended: the failing unit with its index, the physical cells that failed their test, whether the persistent store
could be read, the spare lanes that training uses by 32 stack + channel, and the milliseconds since the release. -/
structure StageEnd where
  fail  : Option (Nat × Nat) := none
  cells : List Nat := []
  store : Bool := true
  lanes : List (Nat × Nat) := []
  ms    : Nat := 0
  deriving DecidableEq, Repr

/-- An IDE_KM request (R477): a key with its initial vector for a stream, key set, direction and sub-stream, the start and
the end of the use of one, or a query. -/
inductive IdeKm
  | query
  | keyProg (stream set dir sub : Nat) (key : List Byte)
  | setGo (stream set dir sub : Nat)
  | setStop (stream set dir sub : Nat)
  deriving DecidableEq, Repr

/-- The algorithms that an SPDM requester offers, of those in Table 14-2. -/
structure SpdmAlgs where
  ecdsa  : Bool
  sha256 : Bool
  dhe    : Bool
  aead   : Bool
  deriving DecidableEq, Repr

/-- What the scrubber finds in a word: a code word, one wrong symbol that it corrects, or an uncorrectable word. -/
inductive Found | clean | corrected (sym : Fin 36) | bad
  deriving DecidableEq, Repr

/-- A Sweul port, an Ethernet port, a dictionary endpoint (Table 15-5 counted from 0), and an entry of the bulk endpoint table. -/
abbrev PortIx := Fin 32
abbrev EthIx := Fin 2
abbrev EpIx := Fin 4
abbrev PeerIx := Fin 68

/-- A hopper and a version-table entry of a cell. -/
abbrev HopIx := Fin 32
abbrev VtIx := Fin 64
/-- The commands of the block: one constructor per row of spec/opcode_table.json. -/
inductive Instr
  -- stream commands (07, Table 7-2): the command stands at HEAD of the stream's ring
  | nop (c : CellIx) (st : Strm) (h : Hdr)
  | stepmark (c : CellIx) (st : Strm) (h : Hdr) (step : BitVec 32)
  | loop (c : CellIx) (st : Strm) (h : Hdr) (f : LoopOp)
  | cnt (c : CellIx) (st : Strm) (h : Hdr) (f : CntOp)
  | cmp (c : CellIx) (st : Strm) (h : Hdr) (f : CmpOp)
  | hpush (c : CellIx) (st : Strm) (h : Hdr) (f : HpushOp)
  | flag (c : CellIx) (st : Strm) (h : Hdr) (f : FlagOp)
  | wait (c : CellIx) (st : Strm) (h : Hdr) (f : FlagOp)
  | mma (c : CellIx) (st : Strm) (h : Hdr) (f : MmaOp)
  | ucommit (c : CellIx) (st : Strm) (h : Hdr) (f : UcommitOp)
  | vpub (c : CellIx) (st : Strm) (h : Hdr) (f : VerOp)
  | udone (c : CellIx) (st : Strm) (h : Hdr) (par : BitVec 1)
  | vote (c : CellIx) (st : Strm) (h : Hdr)
  | vrel (c : CellIx) (st : Strm) (h : Hdr) (f : VerOp)
  | setlen (c : CellIx) (st : Strm) (h : Hdr) (vl : BitVec 8) (rl : BitVec 6)
  | ldt (c : CellIx) (st : Strm) (h : Hdr) (f : LdtOp)
  | stt (c : CellIx) (st : Strm) (h : Hdr) (f : SttOp)
  | card (c : CellIx) (st : Strm) (h : Hdr) (f : CardOp)
  | red (c : CellIx) (st : Strm) (h : Hdr) (f : RedOp)
  | zmap (c : CellIx) (st : Strm) (h : Hdr) (f : ZmapOp)
  | tbl (c : CellIx) (st : Strm) (h : Hdr) (f : TblOp)
  | move (c : CellIx) (st : Strm) (h : Hdr) (f : MoveOp)
  | rsig (c : CellIx) (st : Strm) (h : Hdr) (f : RsigOp)
  | ratom (c : CellIx) (st : Strm) (h : Hdr) (f : RatomOp)
  | drvSubmit (c : CellIx) (st : Strm) (h : Hdr) (f : DrvSubmitOp)
  | drvSend (c : CellIx) (st : Strm) (h : Hdr) (f : DrvSendOp)
  | drvClose (c : CellIx) (st : Strm) (h : Hdr) (f : DrvCloseOp)
  | millRs (c : CellIx) (st : Strm) (h : Hdr) (f : MillOp)
  | millAg (c : CellIx) (st : Strm) (h : Hdr) (f : MillOp)
  | millAr (c : CellIx) (st : Strm) (h : Hdr) (f : MillOp)
  | millBc (c : CellIx) (st : Strm) (h : Hdr) (f : MillOp)
  -- stream and engine events (07, 03, 05, 12)
  | streamFetch (c : CellIx) (st : Strm)
  | commandCommit (c : CellIx) (st : Strm)
  | commandComplete (c : CellIx) (st : Strm) (i : Nat)
  | counterLoad (c : CellIx) (st : Strm)
  | loomChunk (c : CellIx) (l : Loom)
  | loomDrain (c : CellIx) (l : Loom)
  | droverSelection (i : Nat)
  | drvSendDone (i : Nat)
  | waitTimeout (c : CellIx) (st : Strm)
  | deadlockDetector
  | canaryRun (c : CellIx) (l : Loom)
  | canaryCheck (c : CellIx) (l : Loom) (differ : Nat)
  | scrub (addr : Nat) (found : Found)
  | ringPause (c : CellIx)
  | ringResume (c : CellIx)
  -- run-time registers (17, 16); `v` is the value written
  | abort (src : Src) (c : CellIx) (st : Strm)
  | resume (src : Src) (c : CellIx) (st : Strm)
  | clrSticky (src : Src) (c : CellIx) (st : Strm)
  | doorbell (src : Src) (c : CellIx) (st : Strm) (v : BitVec 32)
  | ringConfigWrite (src : Src) (c : CellIx) (st : Strm) (cfg : Bool) (v : BitVec 64)
  | headWrite (src : Src) (c : CellIx) (st : Strm) (v : BitVec 64)
  | exlogRdWrite (src : Src) (c : CellIx) (st : Strm) (v : BitVec 64)
  | hopCfgWrite (src : Src) (c : CellIx) (h : HopIx) (v : BitVec 64)
  | vtCtlWrite (src : Src) (c : CellIx) (e : VtIx) (reg : Fin 6) (v : BitVec 64)
  | winCtlWrite (src : Src) (v : BitVec 64)
  | hostSig (src : Src) (v : BitVec 64)
  | hwmClr (src : Src)
  | tallyClrIssued (src : Src) (c : CellIx) (st : Strm)
  | tallyClrWaitcyc (src : Src) (c : CellIx) (st : Strm)
  | tallyClrLost (src : Src) (c : CellIx) (st : Strm)
  | cellDtabWrite (src : Src) (c : CellIx) (v : BitVec 64)
  | dictGo (src : Src)
  | post (src : Src) (v : BitVec 64)
  | registerWrite (src : Src) (off size : Nat) (v : BitVec 64)
  | unmappedAccess (src : Src) (bar off size : Nat) (read : Bool)
  | bar2Read (src : Src) (off len : Nat)
  | bar2Write (src : Src) (off : Nat) (bytes : List Byte)
  -- the Ledger and the seal (11)
  | hashingDone (p : Fin 2)
  | stepOpen
  | stepComputed
  | voteTimeout
  | sealTimeout
  | rollbackDone
  | millTimeout (group : Nat)
  -- trackers and links (09)
  | remoteTimeout (trk : Nat)
  | remoteResend (trk : Nat)
  | windowTimeout (src trk : Nat)
  | frameTx (p : PortIx)
  | frameRx (p : PortIx) (lanes : List (List Byte))
  | retryTimer (p : PortIx)
  | portLos (p : PortIx)
  | portTrained (p : PortIx) (gen rtt tx : Nat) (ok : Bool)
  | hello (p : PortIx) (bytes : List Byte)
  | helloResend (p : PortIx)
  | helloTimeout (p : PortIx)
  -- messages, by the link they come on: 0-31 a port, 0x10000 (port + 1) + device a bulk peer
  | sweulWrite (key : Nat) (m : MsgIn)
  | sweulRead (key : Nat) (m : MsgIn)
  | sweulAtomic (key : Nat) (m : MsgIn)
  | signal (key : Nat) (m : MsgIn)
  | ack (key : Nat) (m : MsgIn)
  | readData (key : Nat) (m : MsgIn)
  | refuse (key : Nat) (m : MsgIn)
  | retry (key : Nat) (m : MsgIn)
  | drvCount (key : Nat) (m : MsgIn)
  | millPart (key : Nat) (m : MsgIn)
  | millRes (key : Nat) (m : MsgIn)
  | millVote (key : Nat) (m : MsgIn)
  | millVerdict (key : Nat) (m : MsgIn)
  | millSealUp (key : Nat) (m : MsgIn)
  | millSealDown (key : Nat) (m : MsgIn)
  | millNak (key : Nat) (m : MsgIn)
  | ledgerFold (key : Nat) (m : MsgIn)
  | rcvReady (key : Nat) (m : MsgIn)
  | recoveryReady
  | rcvResume (key : Nat) (m : MsgIn)
  | rcvRestoreUp (key : Nat) (m : MsgIn)
  | rcvRestoreDown (key : Nat) (m : MsgIn)
  | shadowRsp (key : Nat) (m : MsgIn)
  | shadowFold (key : Nat) (m : MsgIn)
  | mirrorState (key : Nat) (m : MsgIn)
  | xferDone (key : Nat) (m : MsgIn)
  | copyFrontUnit (kind : Fin 3)
  | cowReadDone
  -- whole values by dictionary endpoint and the tag of the last segment (09, 12, 14, 16, 18)
  | plan (ep : EpIx) (tag : Byte) (bytes : List Byte)
  | orderResume (ep : EpIx) (tag : Byte) (bytes : List Byte)
  | orderTakeover (ep : EpIx) (tag : Byte) (bytes : List Byte)
  | orderDonor (ep : EpIx) (tag : Byte) (bytes : List Byte)
  | orderPattern (ep : EpIx) (tag : Byte) (bytes : List Byte)
  | orderShadow (ep : EpIx) (tag : Byte) (bytes : List Byte)
  | orderCheckpoint (ep : EpIx) (tag : Byte) (bytes : List Byte)
  | orderRestore (ep : EpIx) (tag : Byte) (bytes : List Byte)
  | jobStartWrite (ep : EpIx) (tag : Byte) (idx : BitVec 16) (sub : Byte) (bytes : List Byte)
  | jobRegistration (ep : EpIx) (tag : Byte) (bytes : List Byte)
  | jobRelease (ep : EpIx) (tag : Byte) (bytes : List Byte)
  | patchImage (ep : EpIx) (tag : Byte) (bytes : List Byte)
  | activationRequest (ep : EpIx) (tag : Byte) (bytes : List Byte)
  | patchSelfCheck (ok : Bool)
  | debugToken (ep : EpIx) (tag : Byte) (bytes : List Byte)
  | roleRetire (ep : EpIx) (tag : Byte) (bytes : List Byte)
  | endpointTableWrite (ep : EpIx) (tag : Byte) (bytes : List Byte)
  -- dictionary requests (15)
  | read (ep : EpIx) (d : DReq)
  | write (ep : EpIx) (d : DReq) (ok : Bool)
  | describe (ep : EpIx) (d : DReq)
  | next (ep : EpIx) (d : DReq)
  | xwStart (ep : EpIx) (d : DReq)
  | xwSeg (ep : EpIx) (d : DReq)
  | xrStart (ep : EpIx) (d : DReq)
  | xrSeg (ep : EpIx) (d : DReq)
  | xabort (ep : EpIx) (d : DReq)
  | subscribe (ep : EpIx) (d : DReq)
  | evread (ep : EpIx) (d : DReq)
  | evack (ep : EpIx) (d : DReq)
  | transferTimeout (ep : EpIx) (write : Bool)
  | stewardWatchdog (cut : Bool)
  -- SPDM (14, 16)
  | getVersion (ep : EpIx)
  | getCapabilities (ep : EpIx) (flags : Nat)
  | negotiateAlgorithms (ep : EpIx) (a : SpdmAlgs)
  | getDigests (ep : EpIx)
  | getCertificate (ep : EpIx) (slot off len : Nat)
  | challenge (ep : EpIx) (slot : Nat) (nonce : List Byte)
  | getMeasurements (ep : EpIx) (i : Nat) (sign : Bool) (nonce : List Byte)
  | keyExchange (ep : EpIx) (reqId : Nat) (pub : List Byte)
  | finish (ep : EpIx) (id : Nat) (mac : List Byte)
  | heartbeat (ep : EpIx) (id : Nat)
  | keyUpdate (ep : EpIx) (id op tag : Nat)
  | endSession (ep : EpIx) (id : Nat)
  | vendorDefinedRequest (ep : EpIx) (id : Nat) (q : IdeKm)
  | unsupportedRequest (ep : EpIx) (code : Nat)
  -- bulk transport, storage, Ethernet, PCIe (16)
  | bulkOpen (ep : PeerIx) (pkt : List Byte)
  | bulkAccept (ep : PeerIx) (pkt : List Byte)
  | bulkData (ep : PeerIx) (ce : Bool) (pkt : List Byte)
  | bulkAck (ep : PeerIx) (pkt : List Byte)
  | bulkClose (ep : PeerIx) (pkt : List Byte)
  | bulkAckTimer (ep : PeerIx)
  | bulkResendTimer (ep : PeerIx) (psn : Nat)
  | peerTimeout (ep : PeerIx)
  | committed (ep : PeerIx) (payload : List Byte)
  | data (ep : PeerIx) (payload : List Byte)
  | endShard (ep : PeerIx) (payload : List Byte)
  | iwrite (ep : PeerIx) (payload : List Byte)
  | ipost (ep : PeerIx) (payload : List Byte)
  | ethFrameRx (p : EthIx) (frame : List Byte) (fcsOk : Bool)
  | ethLinkDown (p : EthIx)
  | ethLinkUp (p : EthIx)
  | pcieLinkDown
  | pcieLinkUp (rate lanes : Nat)
  | perstN (low : Bool)
  -- power, boot, weather, the person at the tray (13, 18)
  | powerOn
  | sysRstNAssert
  | sysRstNRelease
  | bootStageEnd (stage : Fin 8) (r : StageEnd)
  | supplyLow (i : Fin 10)
  | supplyRestored
  | refclkLoss
  | refclkRestored
  | pllLoss (p : Pll)
  | pwrcapAssert
  | pwrcapLate
  | pwrcapRelease
  | almanacUpdate (x : AlmIn)
  | avsRead (ok : Bool) (mv ma : Nat) (warn : Bool)
  | dutyRamp
  | galeHoldRelief (c : CellIx) (st : Strm)
  | svcBtnRelease (ms : Nat)
  | svcButtonStuck
  | trayLatch (opens : Bool)
  | portPresHigh (p : PortIx)
  | portPresLow (p : PortIx)
  | portSignalDetect (p : PortIx)
  | laneSignalLoss (p : PortIx) (lane : Fin 5)
  | meteredChunkStart (c : CellIx) (l : Loom)
  | teeCreditTimeout
  | svcBtnPress
  | svcBtnHeld (long : Bool)
  | identifyEnd
  | pllRelock (p : Pll)
  | sidebandBusReset
  | mctpEndpointIdAssigned (bus eid mode : Nat)
  | msixVectorUnmask (src : Src) (v : Fin 2048)
  | configSpaceWrite (w : CfgW)
  | debugPortAccess (q : DbgReq)
  deriving DecidableEq, Repr

end Sys2Proof
end

