-- ==== Sys2Proof/Decode.lean ====
section
/-! DEFINITION. Words of the opcode table. spec/opcode_table.json gives no row of this block bits: its rows are stream commands, whose
16-byte words Machine/CmdWord.lean reads and writes (Table 7-1), register accesses, messages and events. -/
namespace Sys2Proof

/-- The command that a word of the opcode table spells: no row has bits, so none. -/
def decodeTableWord (_nbits _w : Nat) : Option Instr := none

end Sys2Proof
end

