-- ==== Sys2Proof/Config.lean ====
section
/-! DEFINITION. What an implementation fixes and the spec leaves open: constants without a body. A value
here is free: no proof can see it, and a claim holds whatever it is. -/
namespace Sys2Proof

/-- The n-th free value of a run (`State.free` counts them): whatever the spec leaves open where the device
goes on. UNVERIFIED as to its value by construction; assumption log 1. -/
opaque Config.freeNat : Nat → Nat

/-- Nanoseconds between the n-th timestamp taken and the one before it (R2); assumption log 2. -/
opaque Config.elapsed : Nat → Nat

/-- The scale code and the element codes of an MX block whose computed scale lies above 254 (R40; assumption log 13): by format,
rounding mode and SAT, the block's quotients with their random bits, and the place (0 the scale, i + 1 element i). A function
of the block alone, so a replay forms the same codes (R31). -/
opaque Config.mxOver : Nat → Nat → Bool → List (Bool × Nat × Nat × Int × Nat) → Nat → Nat

/-- The repair held in fuses (R13): a defective cell and the spare, 64 or 65, that runs its logical cell; at most one, since every
shipped device has a spare free. -/
opaque Config.factoryRepair : Option (Fin 64 × Fin 2)

/-- The factory cell map (R13): the physical cell of a logical cell. -/
def Config.factoryMap (c : Nat) : Nat :=
  match Config.factoryRepair with
  | some r => if c = r.1.val then 64 + r.2.val else c
  | none => c

/-- Physical cells found defective at manufacture (R13). -/
def Config.factoryBad (p : Nat) : Bool :=
  match Config.factoryRepair with
  | some r => p == r.1.val
  | none => false

/-- What only other members' lists give a Drover send (R160, assumption log 21), as functions of the session, so that every send on the
same lists, and a replay, finds the same: by the session's name and own list, a member and local slot: the rows of lower-ranked
sources there; by a source, local slot and row: where the row's slot number lies. -/
opaque Config.drvBelow : List Nat → Nat → Nat → Nat

opaque Config.drvIndex : List Nat → Nat → Nat → Nat → Nat

/-- FCLK cycles that a stream has spent in state WAIT when a row finds it there, since it was last found so: (free count, cell, stream)
(R504). -/
opaque Config.waitCycles : Nat → Nat → Nat → Nat

/-- Lines of an access that miss in a stack's larder cache: (free count, stack) (Table 8-9, R232). -/
opaque Config.cacheMisses : Nat → Nat → Nat

/-- STK_QUEUE (R506): the requests that wait at a stack's controller when it is read: (free count, stack). -/
opaque Config.stackQueue : Nat → Nat → BitVec 64

/-- The elements of a canary's product: (free count, pattern, 256 m + n) (R69, R377). -/
opaque Config.canaryOut : Nat → Nat → Nat → BitVec 32

/-- The device root secret DRS (R409), as the PUF and the helper data in fuses give it back at every reset. -/
opaque Config.drs : BitVec 256

/-- Measurement 1: the ROM's SHA-256 (R416), of the shipped mask ROM. -/
opaque Config.romDigest : List Byte

/-- The firmware key slots in fuses: the SHA-256 of each slot's public key, and whether it is revoked (Table 14-5). -/
opaque Config.fwKey : Nat → List Byte

opaque Config.fwRevoked : Nat → Bool

/-- The SVN floor fused when the device shipped, 0 to 64 (R421). -/
opaque Config.fusedSvn : Fin 65

/-- Fused full-rate class-8 loom power in mW, for a device that has run no loom work (R392). -/
opaque Config.fusedL16 : Nat

/-- Fused core voltage target in mV (R403, R514). -/
opaque Config.fusedMv : Nat

/-- The MAC address of an Ethernet port, in fuses (R491). -/
opaque Config.ethMac : Nat → List Byte

/-- Bits of a packet that the spec leaves open: the IPv4 identification and the IPv6 flow label, by the packet's free value. -/
opaque Config.packetBits : Nat → Nat

/-- A commit to the persistent store fails: by the free count (R462). -/
opaque Config.commitFails : Nat → Bool

/-- The 64-byte entries of a cell's commit list as a spare reads them (R114 gives them no layout): codes of command and
descriptors. -/
opaque Config.commitList : List Byte → List Nat

/-- The 64 bytes, as a number, that a commit-list entry takes in the journal (R114): of a UCOMMIT's fields and its descriptors. -/
opaque Config.commitBytes : List Nat → Nat

/-- Identity in fuses and ROM, in the forms of R557: the two characters of the silicon revision, the numbers a and b of the ROM
release, the PCI vendor ID, the revision number and the 16-byte serial number. -/
opaque Config.siliconRev : Byte × Byte

opaque Config.romRelease : BitVec 32 × BitVec 32

opaque Config.vendorId : BitVec 16

opaque Config.revision : BitVec 32

opaque Config.serial : BitVec 128

/-- The private keys of the Tsuzal root (0) and of the RLM4 product CA (1), which the device does not hold (R413). -/
opaque Config.issuerKey : Nat → Nat

/-- What surrounds the subject public key in the root, product CA and device certificates (0, 1, 2), and the secret number of each
one's signature (R413). -/
opaque Config.certParts : Nat → List Byte × List Byte

opaque Config.certNonce : Nat → Nat

/-- SHA-256 of the debug public key in fuses (R432). -/
opaque Config.debugKey : List Byte

/-- Debug unlocks fused before the run (R433). -/
opaque Config.fusedUnlocks : Nat

/-- The secret number of the signature with which IDK endorses DEK (R413). -/
opaque Config.dekNonce : Nat

end Sys2Proof
end

