-- ==== Sys2Proof/Machine/Objects.lean ====
section
/-! DEFINITION. The objects of the dictionary: type, access, kind, range and default of every object table of the manual
(R440-R445, R465, R466, and the tables of the owning chapters). -/
namespace Sys2Proof.Machine

/-- The key of an object in `State.objs`. -/
def okey (idx sub : Nat) : Nat := 256 * idx + sub

/-- Object types (Table 15-1). -/
inductive OTy | bool | u8 | u16 | u32 | u64 | i32 | f32 | str | dom
  deriving DecidableEq, Repr

/-- Access codes (Table 15-2). -/
inductive Acc | const | ro | rw | wo | rwp | g
  deriving DecidableEq, Repr

/-- What DESCRIBE tells of an object (Table 15-5): kind 0 plain, 1 performance and event tally, 2 error tally; a range
of lo to hi when `ranged`; the default's bit pattern. -/
structure ODesc where
  ty     : OTy
  acc    : Acc
  kind   : Nat := 0
  ranged : Bool := false
  lo     : Int := 0
  hi     : Int := 0
  dflt   : Nat := 0
  deriving DecidableEq, Repr

def OTy.code (t : OTy) : Nat :=
  match t with
  | .bool => 1
  | .u8 => 2
  | .u16 => 3
  | .u32 => 4
  | .u64 => 5
  | .i32 => 6
  | .f32 => 7
  | .str => 8
  | .dom => 9

/-- Bytes of a fixed-size type. -/
def OTy.size (t : OTy) : Nat :=
  match t with
  | .bool | .u8 => 1
  | .u16 => 2
  | .u32 | .i32 | .f32 => 4
  | .u64 => 8
  | .str | .dom => 0

def Acc.code (a : Acc) : Nat :=
  match a with
  | .const => 0
  | .ro => 1
  | .rw => 2
  | .wo => 3
  | .rwp => 4
  | .g => 5

/-- The highest sub-index (sub-index 00 of a REC index). -/
def oTop (n : Nat) : Option ODesc := some { ty := .u8, acc := .const, dflt := n }

def oRo (t : OTy) (d : Nat := 0) : Option ODesc := some { ty := t, acc := .ro, dflt := d }

def oRw (t : OTy) (d : Nat := 0) : Option ODesc := some { ty := t, acc := .rw, dflt := d }

def oAcc (t : OTy) (a : Acc) (d : Nat := 0) : Option ODesc := some { ty := t, acc := a, dflt := d }

/-- A value with a stated range. -/
def oRng (t : OTy) (a : Acc) (lo hi : Int) (d : Nat) : Option ODesc :=
  some { ty := t, acc := a, ranged := true, lo := lo, hi := hi, dflt := d }

/-- A performance and event tally, an error tally (R8). -/
def oPerf : Option ODesc := some { ty := .u64, acc := .rw, kind := 1 }

def oErr : Option ODesc := some { ty := .u32, acc := .rw, kind := 2 }

/-- Identity, communication and events (Table 15-13). -/
def objIdent (idx sub : Nat) : Option ODesc :=
  match idx, sub with
  | 0x1000, 0 => oAcc .u32 .const 0x00040001
  | 0x1008, 0 => oAcc .str .const
  | 0x1009, 0 => oAcc .str .const
  | 0x100A, 0 => oRo .str
  | 0x1011, 0 => oTop 1
  | 0x1011, 1 => oAcc .u32 .wo
  | 0x1018, 0 => oTop 4
  | 0x1018, 1 => oAcc .u16 .const
  | 0x1018, 2 => oAcc .u32 .const 0x00041536
  | 0x1018, 3 => oAcc .u32 .const
  | 0x1018, 4 => oAcc .dom .const
  | 0x1020, 0 => oTop 6
  | 0x1020, 1 => oRo .u8
  | 0x1020, 2 => oRo .u8
  | 0x1020, 3 => oRo .u8
  | 0x1020, 4 => oRo .u8
  | 0x1020, 5 => oRng .u32 .rw 10 60000 1000
  | 0x1020, 6 => oRng .u8 .rwp 0x08 0x77 0x4A
  | 0x1F10, 0 => oTop 2
  | 0x1F10, 1 => oRo .dom
  | 0x1F10, 2 => oPerf
  | 0x1F20, 0 => oTop 4
  | 0x1F20, 1 => oPerf
  | 0x1F20, 2 => oErr
  | 0x1F20, 3 => oErr
  | 0x1F20, 4 => oRo .u64
  | _, _ => none

/-- The event objects of an endpoint. -/
def objEp (sub : Nat) : Option ODesc :=
  match sub with
  | 0 => oTop 5
  | 1 => oRw .u16 0x07FF
  | 2 => oRo .u64
  | 3 => oRng .u16 .ro 0 1024 0
  | 4 => oErr
  | 5 => oRw .dom
  | _ => none

/-- Cell map, memory, fabric (Tables 1-3, 8-8, 9-17). -/
def objFabric (idx sub : Nat) : Option ODesc :=
  match idx, sub with
  | 0x2011, 0 => oTop 3
  | 0x2011, 1 => oRo .u8
  | 0x2011, 2 => oRo .u64
  | 0x2011, 3 => oRo .u8 0xFF
  | 0x2020, 0 => oTop 6
  | 0x2020, 1 => oRng .u8 .rwp 0 3 0
  | 0x2020, 2 => oRo .u8
  | 0x2020, 3 => oRw .bool
  | 0x2020, 4 => oRng .u32 .rw 1 10000 100
  | 0x2020, 5 => oRng .u32 .rw 1 168 24
  | 0x2020, 6 => oRng .u16 .rw 4 32 16
  | 0x2030, 0 => oTop 13
  | 0x2030, 1 => oRo .u8
  | 0x2030, 2 => oRo .u64
  | 0x2030, 3 => oRo .u16
  | 0x2030, 4 => oRo .u16
  | 0x2030, 5 => oRo .u32
  | 0x2030, 6 => oRo .u32
  | 0x2030, 7 => oRo .u32
  | 0x2030, 8 => oRo .u32
  | 0x2030, 9 => oRo .u32
  | 0x2030, 0x0A => oRng .u32 .rw 1 10000 10
  | 0x2030, 0x0B => oPerf
  | 0x2030, 0x0C => oPerf
  | 0x2030, 0x0D => oRo .u8
  | 0x2031, 0 => oTop 1
  | 0x2031, 1 => oAcc .dom .g
  | _, _ => none

/-- Host and network (Table 16-11). -/
def objHost (idx sub : Nat) : Option ODesc :=
  match idx, sub with
  | 0x2040, 0 => oTop 9
  | 0x2040, 1 => oRo .u8
  | 0x2040, 2 => oRo .u8
  | 0x2040, 3 => oRo .bool
  | 0x2040, 4 => oRng .u8 .rwp 5 7 7
  | 0x2040, 5 => oErr
  | 0x2040, 6 => oErr
  | 0x2040, 7 => oErr
  | 0x2040, 8 => oRo .u8
  | 0x2040, 9 => oErr
  | 0x2041, 0 => oTop 1
  | 0x2041, 1 => oAcc .bool .rwp
  | 0x2050, 0 => oTop 5
  | 0x2050, 1 => oRng .u16 .rw 64 4096 2048
  | 0x2050, 2 => oRng .u32 .rw 1 10000 100
  | 0x2050, 3 => oRng .u16 .rw 1 800 400
  | 0x2050, 4 => oRng .u16 .rw 1 800 100
  | 0x2050, 5 => oRng .u16 .rw 1 800 10
  | 0x2051, 0 => oTop 2
  | 0x2051, 1 => oAcc .dom .g
  | 0x2051, 2 => oAcc .dom .rwp
  | 0x2052, 0 => oTop 6
  | 0x2052, 1 => oPerf
  | 0x2052, 2 => oPerf
  | 0x2052, 3 => oPerf
  | 0x2052, 4 => oErr
  | 0x2052, 5 => oErr
  | 0x2052, 6 => oErr
  | _, _ => none

/-- The objects of an Ethernet port. -/
def objEth (sub : Nat) : Option ODesc :=
  match sub with
  | 0 => oTop 9
  | 1 => oAcc .dom .const
  | 2 => oRng .u8 .rwp 0 1 0
  | 3 => oRo .u8
  | 4 => oRng .u16 .rwp 1280 9216 9216
  | 5 => oRng .u16 .rwp 0 4094 0
  | 6 => oAcc .dom .rwp
  | 7 => oAcc .dom .rwp
  | 8 => oRng .u16 .rwp 1024 65535 47260
  | 9 => oRng .u8 .rwp 0 63 26
  | _ => none

/-- Power-up and service (Table 18-12). -/
def objBoard (idx sub : Nat) : Option ODesc :=
  match idx, sub with
  | 0x2060, 0 => oTop 6
  | 0x2060, 1 => oRo .u8
  | 0x2060, 2 => oRo .bool
  | 0x2060, 3 => oRo .u8
  | 0x2060, 4 => oRo .u8 0xFF
  | 0x2060, 5 => oRo .u8
  | 0x2060, 6 => oRo .u32
  | 0x2061, 0 => oTop 1
  | 0x2061, 1 => oRo .u16
  | 0x2062, 0 => oTop 7
  | 0x2062, 1 => oRo .u8
  | 0x2062, 2 => oRo .bool
  | 0x2062, 3 => oRo .u8 7
  | 0x2062, 4 => oAcc .bool .wo
  | 0x2062, 5 => oRo .bool
  | 0x2062, 6 => oRo .u32
  | 0x2062, 7 => oAcc .u8 .g
  | _, _ => none

/-- Tallies of the Drover and the Mill (Tables 5-6, 10-11). -/
def objEngines (idx sub : Nat) : Option ODesc :=
  match idx, sub with
  | 0x2400, 0 => oTop 6
  | 0x2400, n => if n ≤ 6 then oPerf else none
  | 0x2410, 0 => oTop 8
  | 0x2410, 1 => oRng .u32 .rw 100 600000 10000
  | 0x2410, 6 => oErr
  | 0x2410, 7 => oErr
  | 0x2410, 8 => oRo .u8
  | 0x2410, n => if n ≤ 5 then oPerf else none
  | _, _ => none

/-- The objects of a cell: block 0x20 to 0x24 (Tables 2-6, 3-11, 5-2, 6-8, 13-10). -/
def objCell (blk sub : Nat) : Option ODesc :=
  match blk, sub with
  | 0x20, 0 => oTop 5
  | 0x20, n => if n ≤ 5 then oPerf else none
  | 0x21, 0 => oTop 8
  | 0x21, n => if n ≤ 8 then oPerf else none
  | 0x22, 0 => oTop 5
  | 0x22, n => if n ≤ 5 then oPerf else none
  | 0x23, 0 => oTop 6
  | 0x23, n => if n ≤ 6 then oPerf else none
  | 0x24, 0 => oTop 5
  | 0x24, 1 => oRo .u8 16
  | 0x24, 2 => oRo .u8
  | 0x24, 3 => oRo .i32
  | 0x24, 4 => oRo .u32
  | 0x24, 5 => oRo .u8
  | _, _ => none

/-- The objects of a Sweul port (Table 9-18). -/
def objPort (p sub : Nat) : Option ODesc :=
  match sub with
  | 0 => oTop 20
  | 1 => oAcc .u8 .rwp (if p ≥ 28 then 7 else 6)
  | 2 => oRo .u8
  | 3 => oRo .u8
  | 4 => oRo .u8
  | 5 => oRo .u8 0xFF
  | 6 => oRo .u16
  | 7 => oRo .u8 0xFF
  | 8 => oRo .u64
  | 9 => oRo .dom
  | n => if n ≤ 0x10 then oErr else if n ≤ 0x14 then oPerf else none

/-- The objects of a stack (Table 8-9). -/
def objStack (sub : Nat) : Option ODesc :=
  match sub with
  | 0 => oTop 11
  | 1 => oRng .u16 .rw 0 256 0
  | 2 => oRo .u16
  | 3 => oRo .u8
  | 4 => oRo .u8
  | 5 => oRo .u16 0xFFFF
  | n => if n ≤ 9 then oErr else if n ≤ 0x0B then oPerf else none

/-- The Almanac (Tables 13-8, 13-9). -/
def objAlm (idx sub : Nat) : Option ODesc :=
  match idx, sub with
  | 0x5000, 0 => oTop 7
  | 0x5000, 1 => oRng .u16 .rwp 900 1800 1500
  | 0x5000, 2 => oRng .u16 .rwp 600 1800 900
  | 0x5000, 3 => oRw .bool 1
  | 0x5000, 4 => oRng .u8 .rw 1 16 1
  | 0x5000, 5 => oRng .u32 .rw 0 100000 1000
  | 0x5000, 6 => oRng .u16 .rw 10 10000 50
  | 0x5000, 7 => oRng .i32 .rwp (-25) 25 0
  | 0x5001, 0 => oTop 14
  | 0x5001, 1 => oRo .u8
  | 0x5001, 2 => oRo .u8
  | 0x5001, 3 => oRo .u16
  | 0x5001, 4 => oRo .u8
  | 0x5001, 5 => oRo .u8 16
  | 0x5001, 6 => oRo .u8 16
  | 0x5001, 7 => oRo .u8 16
  | 0x5001, 8 => oRo .u16
  | 0x5001, 9 => oRo .i32
  | 0x5001, 0x0A => oRo .i32
  | 0x5001, 0x0B => oRo .u16
  | 0x5001, 0x0C => oRo .u16
  | 0x5001, 0x0D => oRo .bool
  | 0x5001, 0x0E => oRo .u8
  | 0x5002, 0 => oTop 8
  | 0x5002, 6 => oErr
  | 0x5002, 8 => oErr
  | 0x5002, n => if n ≤ 7 then oPerf else none
  | 0x5004, 0 => oTop 12
  | 0x5004, n => if n ≤ 12 then oRo .i32 else none
  | _, _ => none

/-- Steps, journal, bank regions, the vote (Tables 11-1, 11-9, 4-6). -/
def objSteps (idx sub : Nat) : Option ODesc :=
  match idx, sub with
  | 0x5400, 0 => oTop 15
  | 0x5400, 1 => oRo .u64
  | 0x5400, 2 => oRo .u64
  | 0x5400, 3 => oRo .u64
  | 0x5400, 4 => oRo .u8
  | 0x5400, 5 => oRo .u32
  | 0x5400, 6 => oPerf
  | 0x5400, 7 => oPerf
  | 0x5400, 8 => oErr
  | 0x5400, 9 => oRo .u8
  | 0x5400, 0x0A => oRng .u8 .rw 1 8 2
  | 0x5400, 0x0B => oRng .u32 .rw 100 600000 60000
  | 0x5400, 0x0C => oRo .u64
  | 0x5400, 0x0D => oRo .u16 0xFFFF
  | 0x5400, 0x0E => oRo .u8
  | 0x5400, 0x0F => oErr
  | 0x5401, 0 => oTop 4
  | 0x5401, 1 => oRng .u64 .g 1 0xFFFFFFFFFFFFFFFE 0
  | 0x5401, 2 => oAcc .u64 .g
  | 0x5401, 3 => oAcc .u32 .g
  | 0x5401, 4 => oAcc .u16 .g
  | 0x5402, 0 => oTop 3
  | 0x5402, 1 => oRw .u64
  | 0x5402, 2 => oRw .u32 2
  | 0x5402, 3 => oRo .u64
  | 0x5410, 0 => oTop 0xC0
  | 0x5410, n => if n ≤ 0xC0 then oRw .u64 else none
  | 0x5480, 0 => oTop 10
  | 0x5480, 1 => oRo .u8
  | 0x5480, 2 => oRo .u64
  | 0x5480, 3 => oRo .u16
  | 0x5480, 4 => oRo .u32
  | 0x5480, 5 => oRo .u8
  | 0x5480, 6 => oPerf
  | 0x5480, 7 => oPerf
  | 0x5480, 8 => oRng .u32 .rw 100 600000 30000
  | 0x5480, 9 => oRng .u32 .rw 1 1000 8
  | 0x5480, 0x0A => oRo .u32
  | _, _ => none

/-- Recovery, Barometer, canaries (Tables 12-10, 12-11), word-code tallies (Table 8-10). -/
def objRecovery (idx sub : Nat) : Option ODesc :=
  match idx, sub with
  | 0x5800, 0 => oTop 15
  | 0x5800, 1 => oRo .u8
  | 0x5800, 2 => oRo .u8
  | 0x5800, 3 => oRo .u8
  | 0x5800, 4 => oRo .u32 0xFFFFFFFF
  | 0x5800, 5 => oPerf
  | 0x5800, 6 => oPerf
  | 0x5800, 7 => oRo .u32
  | 0x5800, 8 => oPerf
  | 0x5800, 9 => oPerf
  | 0x5800, 0x0A => oPerf
  | 0x5800, 0x0B => oRng .u32 .rw 1 1000 32
  | 0x5800, 0x0C => oRo .u32
  | 0x5800, 0x0D => oRng .u16 .rw 1 400 25
  | 0x5800, 0x0E => oRo .u32
  | 0x5800, 0x0F => oRo .u8
  | 0x5801, 0 => oTop 5
  | 0x5801, 1 => oAcc .u64 .g
  | 0x5801, 2 => oRw .u64
  | 0x5801, 3 => oRw .u64
  | 0x5801, 4 => oRw .u64
  | 0x5801, 5 => oRw .u16 0xFFFF
  | 0x5802, 0 => oTop 0x40
  | 0x5802, n => if n ≤ 0x40 then oRw .u8 else none
  | 0x5803, 0 => oTop 0x60
  | 0x5803, n => if n ≤ 0x60 then oRw .u64 else none
  | 0x5820, 0 => oTop 1
  | 0x5820, 1 => oAcc .dom .g
  | 0x7010, 0 => oTop 4
  | 0x7010, n => if n ≤ 4 then oErr else none
  | 0x7020, 0 => oTop 9
  | 0x7020, 1 => oRng .u32 .rw 1 1000000 10000
  | 0x7020, 2 => oRng .u32 .rw 1 1000000 1
  | 0x7020, 3 => oRng .u32 .rw 1 1000000 8
  | 0x7020, 4 => oRng .u32 .rw 1 1000000 4
  | 0x7020, 5 => oRng .u32 .rw 1 1000000 2
  | 0x7020, 6 => oRng .u32 .rw 1 1000000 2
  | 0x7020, 7 => oRng .u32 .rw 1 1000000 60
  | 0x7020, 8 => oRng .u32 .rw 1 1000000 60
  | 0x7020, 9 => oRng .u32 .rw 1 10080 60
  | 0x7021, 0 => oTop 8
  | 0x7021, n => if n ≤ 8 then oRo .u32 else none
  | 0x7030, 0 => oTop 2
  | 0x7030, 1 => oRo .dom
  | 0x7030, 2 => oErr
  | 0x7031, 0 => oTop 3
  | 0x7031, 1 => oRng .u8 .rw 2 16 3
  | 0x7031, 2 => oRng .u8 .rw 1 15 8
  | 0x7031, 3 => oRo .dom
  | _, _ => none

/-- The Locksmith (Table 14-13). -/
def objLock (idx sub : Nat) : Option ODesc :=
  match idx, sub with
  | 0x6000, 0 => oTop 9
  | 0x6000, 6 => oRo .u8 1
  | 0x6000, 7 => oRo .u8
  | 0x6000, 8 => oRo .u8
  | 0x6000, 9 => oRo .u8
  | 0x6000, n => if n ≤ 5 then oRo .dom else none
  | 0x6010, 0 => oTop 4
  | 0x6010, 1 => oAcc .dom .wo
  | 0x6010, 2 => oAcc .dom .g
  | 0x6010, 3 => oRo .dom
  | 0x6010, 4 => oRo .u64
  | 0x6020, 0 => oTop 2
  | 0x6020, 1 => oRo .dom
  | 0x6020, 2 => oErr
  | 0x6030, 0 => oTop 7
  | 0x6030, 1 => oAcc .dom .wo
  | 0x6030, 2 => oRo .u8 0xFF
  | 0x6030, 3 => oRo .u8
  | 0x6030, 4 => oRo .u8
  | 0x6030, 5 => oRo .u32
  | 0x6030, 6 => oRo .u32
  | 0x6030, 7 => oRo .u8
  | 0x6031, 0 => oTop 2
  | 0x6031, 1 => oAcc .u8 .g
  | 0x6031, 2 => oRo .u8 0xFF
  | 0x6040, 0 => oTop 2
  | 0x6040, 1 => oRo .dom
  | 0x6040, 2 => oAcc .dom .wo
  | _, _ => none

/-- The descriptor of an object, none where no object is (R465). -/
def objDesc (idx sub : Nat) : Option ODesc :=
  if 0x1F00 ≤ idx && idx < 0x1F04 then objEp sub
  else if idx < 0x2000 then objIdent idx sub
  else if idx == 0x2010 then (if sub == 0 then oTop 64 else if sub ≤ 64 then oRo .u8 else none)
  else if idx < 0x2040 then objFabric idx sub
  else if idx == 0x2048 || idx == 0x2049 then objEth sub
  else if idx < 0x2060 then objHost idx sub
  else if idx < 0x2070 then objBoard idx sub
  else if idx < 0x3000 then objEngines idx sub
  else if idx < 0x4000 then objCell (idx % 0x40) sub
  else if idx < 0x4400 then (if idx % 0x20 == 0 then objPort ((idx - 0x4000) / 0x20) sub else none)
  else if 0x4800 ≤ idx && idx < 0x4B00 then (if idx % 0x40 == 0 then objStack sub else none)
  else if 0x5000 ≤ idx && idx < 0x5400 then objAlm idx sub
  else if 0x5400 ≤ idx && idx < 0x5800 then objSteps idx sub
  else if 0x6000 ≤ idx && idx < 0x7000 then objLock idx sub
  else objRecovery idx sub

/-- Every index that holds objects, ascending. -/
def objIndices : List Nat :=
  [0x1000, 0x1008, 0x1009, 0x100A, 0x1011, 0x1018, 0x1020, 0x1F00, 0x1F01, 0x1F02, 0x1F03, 0x1F10, 0x1F20, 0x2010, 0x2011, 0x2020,
   0x2030, 0x2031, 0x2040, 0x2041, 0x2048, 0x2049, 0x2050, 0x2051, 0x2052, 0x2060, 0x2061, 0x2062, 0x2400, 0x2410] ++
  (List.range 64).flatMap (fun c => (List.range 5).map (fun b => 0x3020 + 0x40 * c + b)) ++
  (List.range 32).map (fun p => 0x4000 + 0x20 * p) ++ (List.range 12).map (fun k => 0x4800 + 0x40 * k) ++
  [0x5000, 0x5001, 0x5002, 0x5004, 0x5400, 0x5401, 0x5402, 0x5410, 0x5480, 0x5800, 0x5801, 0x5802, 0x5803, 0x5820, 0x6000, 0x6010,
   0x6020, 0x6030, 0x6031, 0x6040, 0x7010, 0x7020, 0x7021, 0x7030, 0x7031]

/-- The sub-indices of an index, ascending. -/
def objSubs (idx : Nat) : List Nat := (List.range 256).filter (fun sub => (objDesc idx sub).isSome)

/-- The next existing object after the one named; 0xFFFF:FF after the last (Table 15-4). -/
def objNext (idx sub : Nat) : Nat × Nat :=
  match (objSubs idx).find? (fun x => x > sub) with
  | some x => (idx, x)
  | none =>
    match objIndices.find? (fun i => i > idx) with
    | some i => (i, ((objSubs i).head?).getD 0)
    | none => (0xFFFF, 0xFF)

/-- The default of an object (Table 15-5). -/
def objDefault (idx sub : Nat) : Nat :=
  match objDesc idx sub with
  | some d => d.dflt
  | none => 0

/-- The event of an error tally that saturates (R8). -/
def satEvent (idx : Nat) : Nat :=
  if idx < 0x2000 then 0x0714
  else if idx < 0x2040 then 0x0D1A
  else if idx < 0x2400 then 0x1019
  else if idx < 0x3000 then 0x0E13
  else if idx < 0x4800 then 0x0D1A
  else if idx < 0x5000 then 0x0B15
  else if idx < 0x5400 then 0x0916
  else if idx < 0x5800 then 0x0C1C
  else if idx < 0x6000 then 0x0F23
  else if idx < 0x7000 then 0x081B
  else if idx < 0x7020 then 0x0B15
  else 0x0F23

end Sys2Proof.Machine
end

