-- ==== Sys2Proof/Machine/State.lean ====
section
/-! DEFINITION. The state of the block: plain data, every piece of state the spec gives the device, the
queue of waiting commands, and the model's own fields (`free`, `now`, `outbox`). Every field's
default is its value at reset; `State.reset` is the device right after power-up (R515, R519). -/
namespace Sys2Proof.Machine

/-- A table: key and value pairs, each key at most once; an unlisted key reads as the default its reader names. -/
abbrev Tab (α : Type) := List (Nat × α)

/-- A data word in flight: its 32 bytes, whether it travels poisoned (R267), and its four check symbols as they came where they
are not those of its bytes or the word is poisoned (R248); empty: the symbols of its bytes, or not known of a poisoned one. -/
structure DWord where
  bytes  : List Byte
  poison : Bool := false
  chk    : List Byte := []
  deriving DecidableEq, Repr

/-- Sweul message header and data words (Tables 9-8, 10-7): the fields every type has, and the type-specific
bits [255:144] as named parts. -/
structure Msg where
  mtype : Nat := 0
  vc    : Nat := 0
  prio  : Nat := 0
  par   : Nat := 0
  hops  : Nat := 0
  part  : Nat := 0
  src   : Nat := 0
  dst   : Nat := 0
  trk   : Nat := 0
  tgen  : Nat := 0
  addr  : Nat := 0
  /-- bits [255:144] as one number (bit 0 is header bit 144); Mill messages also use ADDR's bits (Table 10-7). -/
  spec  : Nat := 0
  data  : List DWord := []
  /-- the message broke a rule of form at the receiver (R274): reserved field, channel or length. -/
  bad   : Bool := false
  deriving DecidableEq, Repr

/-- What the device sends to the world; the model keeps it, oldest first, in `State.outbox`. -/
inductive Out
  /-- a frame on a Sweul port: the codewords of its four lanes -/
  | frame (port : Nat) (lanes : List (List Byte))
  /-- a dictionary message to an endpoint (response or NOTIFY) -/
  | dict (ep : Nat) (bytes : List Byte)
  /-- an MSI-X message of a vector -/
  | msix (vec : Nat)
  /-- a PCIe completion: status 0 successful, 1 unsupported request, 2 successful with EP set; with the data read -/
  | cpl (status : Nat) (bytes : List Byte)
  /-- an SPDM message in clear -/
  | spdm (code : Nat) (bytes : List Byte)
  /-- an SPDM message of a secured session: the session's ID, the message's number, ciphertext and tag -/
  | sealed (id seq : Nat) (ct tag : List Byte)
  /-- an Ethernet frame without its FCS -/
  | eth (port : Nat) (bytes : List Byte)
  /-- in-band interrupt on the sideband -/
  | ibi
  /-- an AVSBus command -/
  | avs (mv : Nat)
  /-- an answer on the debug port: 0 identification, 1 trace, 2 memory, 3 a cell's register by the management ring -/
  | debug (kind : Nat) (bytes : List Byte)
  deriving DecidableEq, Repr

/-- An event record (Table 15-9); the payload is its 32 bytes without the trailing zeros. -/
structure EvRec where
  code    : Nat
  epoch   : Nat
  seq     : Nat
  time    : Nat
  step    : Nat
  payload : List Nat
  deriving DecidableEq, Repr

/-- An exception record (Table 7-9). -/
structure ExRec where
  cause   : Nat
  unit    : Nat
  faulted : Bool := false
  row     : Nat := 0
  col     : Nat := 0
  chunk   : Nat := 0
  tile    : Nat := 0
  count   : Nat := 1
  satur   : Bool := false
  pos     : Nat := 0
  step    : Nat := 0
  time    : Nat := 0
  /-- the command in flight it is of, when more events of its cause can still come (R227) -/
  own     : Option Nat := none
  deriving DecidableEq, Repr

/-- A comparator (R210, Table 17-15). -/
structure Cmpr where
  armed : Bool := false
  ca    : Nat := 0
  rel   : Nat := 0
  bsrc  : Bool := false
  cb    : Nat := 0
  act   : Bool := false
  flag  : Nat := 0
  imm   : Word := 0#32
  /-- the condition's last value, for the false-to-true test of ACT = FLAG -/
  last  : Bool := false
  deriving DecidableEq, Repr

/-- A command in a stream's queue: its ring index, header, and its operation (none: the word decodes to no
listed operation). `body` is BODY of a LOOP word; `poison` the address of a poisoned ring word (R191). -/
structure QCmd where
  pos    : Nat
  hdr    : Hdr
  op     : Option Op
  body   : Nat := 0
  poison : Option Nat := none
  /-- an event of a comparator that stands behind commands of the window (R210) -/
  pseudo : Bool := false
  /-- its place in the order of decoding, 0 for a command that is not in the window (R107) -/
  dec    : Nat := 0
  /-- GROUP and CSEQ of a word with a Mill command's opcode (R319) -/
  mill   : Option (Nat × Nat) := none
  deriving DecidableEq, Repr

/-- An active loop: where its body starts in the queue, how long it is, iterations still to run after
this one, and the index counter with its value (R207). -/
structure LoopFr where
  start : Nat
  len   : Nat
  left  : Nat
  ictr  : Option Nat
  deriving DecidableEq, Repr

/-- What a hopper operand is for, in the order of R199 and R204. -/
inductive Role | ho | hm | ha | hb | he | hr | hs | hd | ht | hw | hwt | hba | hbb | hin
  deriving DecidableEq, Repr

/-- A reservation of a command on a hopper: a pop, a peek or a push, with its number (R199, R200). -/
inductive HKind | pop | peek | push
  deriving DecidableEq, Repr

structure HAcc where
  role : Role
  h    : Nat
  num  : Nat
  kind : HKind
  done : Bool := false
  /-- what an earlier peek reads of a place that a later pop has taken (R200) -/
  seen : Option Desc := none
  deriving DecidableEq, Repr

/-- A matrix command on its loom: the loom that runs it (not its LOOM field when lent, R109), the chunk
that runs next, and whether only the drain is left. -/
structure MmaRun where
  loom  : Nat
  bank  : Nat
  chunk : Nat := 0
  lent  : Bool := false
  /-- the DWMASK bytes, read at the commit point (32 for ROW, 8 for BLOCK) -/
  mask  : List Byte := []
  ho    : Option Desc := none
  /-- the panels' descriptors that the chunk reads, with their bases (R119, R203) -/
  da    : Desc := 0#512
  db    : Desc := 0#512
  baseA : Nat := 0
  baseB : Nat := 0
  /-- the slots that the tags of staged operands named at the commit point (R120) -/
  slotA : Nat := 0
  slotB : Nat := 0
  /-- the chunk has been charged to the meter but has not completed (R390) -/
  charged : Bool := false
  deriving DecidableEq, Repr

/-- A message that waits for a tracker entry: its port, a READ's destination, and what it is for (`Trk.kind`). -/
structure Stall where
  port : Nat
  ord  : Nat := 0
  dest : Nat
  kind : Nat
  msg  : Msg
  deriving DecidableEq, Repr

/-- A command that has issued and not completed (R192). -/
structure Fly where
  id        : Nat
  /-- its place in ring order within the stream (R223), and in issue order within the cell (R170) -/
  dec       : Nat := 0
  seq       : Nat := 0
  pos       : Nat
  hdr       : Hdr
  op        : Op
  acc       : List HAcc := []
  committed : Bool := false
  /-- every effect has been performed; COMMAND_COMPLETE may complete it -/
  done      : Bool := false
  vl        : Nat := 256
  rl        : Nat := 64
  sat       : Bool := false
  step      : Nat := 0
  /-- push places that become ready when it completes -/
  outs      : List (Nat × Nat × Desc) := []
  /-- exception records it will write when it completes or faults (R227) -/
  recs      : List ExRec := []
  mma       : Option MmaRun := none
  /-- link-tracker entries still outstanding (R195, R280) -/
  remote    : Nat := 0
  /-- messages waiting for a tracker entry (R280) -/
  stalled   : List Stall := []
  /-- ordinal of its next message (Table 12-5) -/
  ord       : Nat := 0
  /-- every message of the command has been acknowledged (RSIG's condition, R195) -/
  acked     : Bool := false
  /-- an event of the loop-carried comparators, not a ring command (R210) -/
  pseudo    : Bool := false
  /-- a claim, a session or a device-wide slot it waits for (R122, R154) -/
  waiting   : Bool := false
  /-- the step a gated command or UDONE names by its parity (R129) -/
  gstep     : Nat := 0
  /-- the cell's VOTE of the step had been issued when this command issued (R128) -/
  late      : Bool := false
  /-- it carried a gradient conversion out (R60) -/
  grad      : Bool := false
  /-- tags this command releases when it completes: version-table entry and micro-batch (R120) -/
  rels      : List (Nat × Nat) := []
  deriving DecidableEq, Repr

/-- A stream's restart record (R211). -/
structure Restart where
  step : Nat
  pos  : Nat
  ctr  : Tab Word
  cmp  : Tab Cmpr
  deriving DecidableEq, Repr

/-- Whether the stream runs, drains after a fault, stands HALTED, drains under an abort, or stands ABORTED. -/
inductive SMode | live | faulting | halted | aborting | aborted
  deriving DecidableEq, Repr

/-- One command stream (07, Tables 7-7, 7-8, 17-9). -/
structure Stream where
  base     : Nat := 0
  log2     : Nat := 8
  bad      : Bool := false
  head     : Nat := 0
  tail     : Nat := 0
  queue    : List QCmd := []
  nxt      : Nat := 0
  loops    : List LoopFr := []
  skip     : Nat := 0
  win      : List QCmd := []
  fly      : List Fly := []
  nextId   : Nat := 0
  /-- place in ring order of the next command that is decoded into the window or taken -/
  decN     : Nat := 1
  ctr      : Tab Word := []
  loads    : List (Nat × Word) := []
  cmp      : Tab Cmpr := []
  step     : Nat := 0
  entered  : Bool := false
  restarts : List Restart := []
  mode     : SMode := .live
  cause    : Nat := 0
  haltPos  : Nat := 0
  /-- place in ring order of the oldest command that ended without completing: later FLAGs never apply (R215) -/
  broken   : Option Nat := none
  /-- its ring index; and the place in ring order of the command at ABPOS as the abort began (R223) -/
  brokenPos : Nat := 0
  abid     : Nat := 0
  invalid  : Bool := false
  overflow : Bool := false
  logFull  : Bool := false
  vl       : Nat := 256
  rl       : Nat := 64
  sat      : Bool := false
  wdog     : Nat := 100000
  exlog    : Tab ExRec := []
  exWr     : Nat := 0
  exRd     : Nat := 0
  exLost   : Nat := 0
  abpos    : Nat := 0
  abmap    : Nat := 0
  /-- commands completed ahead of the oldest incomplete one: place in ring order and ring index (R223) -/
  ahead    : List (Nat × Nat) := []
  /-- positions of MMAs passed out of order by the alternation (R107) are in `win` -/
  issued   : Nat := 0
  waitcyc  : Nat := 0
  /-- the command presented to the arbiter is held in Gale (R394) -/
  held     : Bool := false
  /-- a relief has let the held command issue (R395) -/
  relieved : Bool := false
  /-- the arbitration of the cell at which the command was first presented and not issued (R394) -/
  shown    : Option Nat := none
  deriving DecidableEq, Repr

/-- A hopper place that has been reserved and not popped: not ready, void, or ready with its descriptor. -/
inductive Place
  | reserved
  | void
  | ready (d : Desc)
  deriving DecidableEq, Repr

/-- One hopper (R198, R199): configuration, the numbering, the places in use by push number, the pops that
have happened, and the pops whose descriptor is to be discarded (R222). -/
structure Hopper where
  prod   : Nat := 0
  cons   : Nat := 0
  en     : Bool := false
  pushN  : Nat := 0
  popN   : Nat := 0
  places : Tab Place := []
  low    : Nat := 0
  hi     : List Nat := []
  discard : List Nat := []
  deriving DecidableEq, Repr

/-- An accumulator bank (R69, R85): the step of its last user and its elements by 256 m + n; unlisted +0. -/
structure Bank where
  step : Option Nat := none
  vals : Tab Word := []
  deriving DecidableEq, Repr

/-- One loom: its two banks, the command it runs (stream, fly id), the drains that wait (stream, fly id, bank),
the open marks of loom F (R110), the canary that runs with its pattern and time count (R377), and the meter M (R390). -/
structure LoomSt where
  banks   : Tab Bank := []
  run     : Option (Nat × Nat) := none
  drains  : List (Nat × Nat × Nat) := []
  openB   : List Nat := []
  canary  : Option (Nat × Nat) := none
  /-- what the canary bank holds: the pattern whose product its elements are, and which free value they come from (R69, R377) -/
  canBank : Option (Nat × Nat) := none
  canPat  : Nat := 0
  canTime : Nat := 0
  meter   : Int := 8192
  deriving DecidableEq, Repr

/-- A lathe tile register: elements by 256 r + c, and the step of its last writer (R167). -/
structure TileReg where
  step : Option Nat := none
  vals : Tab Word := []
  deriving DecidableEq, Repr

/-- A card slot's contents (R180). -/
structure Card where
  step   : Nat
  instrs : List Word
  consts : List Word
  deriving DecidableEq, Repr

/-- A loaded table of the lathe: SCT values or CBT entries as FP32 codes. -/
structure LTable where
  step : Nat
  ents : List Word
  deriving DecidableEq, Repr

/-- One version-table entry (Tables 4-3 and 4-4). A tag is (micro-batch, slot, step that acquired). -/
structure VtEntry where
  en      : Bool := false
  cur     : Nat := 0
  ref0    : Nat := 0
  ref1    : Nat := 0
  held0   : List Nat := []
  held1   : List Nat := []
  valid0  : Bool := false
  valid1  : Bool := false
  claimed : Bool := false
  wait    : Bool := false
  ver0    : Nat := 0
  ver1    : Nat := 0
  w0      : Nat := 0
  w1      : Nat := 0
  t0      : Nat := 0
  t1      : Nat := 0
  tags    : List (Nat × Nat × Nat) := []
  deriving DecidableEq, Repr

/-- BWD_CTL (Table 4-2). -/
structure BwdCtl where
  pat0  : Nat := 2
  len0  : Nat := 1
  pat1  : Nat := 2
  len1  : Nat := 1
  loan  : Bool := false
  bank  : Nat := 1
  deriving DecidableEq, Repr

/-- One MASTER UCOMMIT kept with the step's journal entry (R114): the command and its resolved descriptors. -/
structure CommitEnt where
  step : Nat
  op   : UcommitOp
  hba  : Desc
  hbb  : Desc
  hw   : Desc
  hwt  : Desc
  /-- the U stream's SAT bit when the command issued -/
  sat  : Bool := false
  deriving DecidableEq, Repr

/-- One logical cell. -/
structure Cell where
  paused  : Bool := false
  streams : Tab Stream := []
  hoppers : Tab Hopper := []
  looms   : Tab LoomSt := []
  trs     : Tab TileReg := []
  cards   : Tab Card := []
  scts    : Tab LTable := []
  cbts    : Tab LTable := []
  zbuf    : Tab (Nat × Nat) := []
  flags   : Tab Word := []
  dtab    : Nat := 0
  bwdW    : BwdCtl := {}
  bwd     : BwdCtl := {}
  patPos0 : Nat := 0
  patPos1 : Nat := 0
  vt      : Tab VtEntry := []
  commits : List CommitEnt := []
  /-- commands that have entered the cell's pipelines, in issue order (R170) -/
  issueN  : Nat := 0
  /-- arbitrations in which a stream's command stayed presented (R394) -/
  arbN    : Nat := 0
  deriving DecidableEq, Repr

/-- A larder window (R242): contributors, current rank, completion flag, step of its opener, and the
(device, cell, stream) that first used the current rank. -/
structure Win where
  n    : Nat
  rank : Nat := 0
  flag : Nat
  step : Nat
  user : Option (Nat × Nat × Nat) := none
  /-- messages answered RETRY, in their order of arrival: rank, source, tracker entry (R242) -/
  held : List (Nat × Nat × Nat) := []
  deriving DecidableEq, Repr

/-- A link-tracker entry in use (R280): generation, the port (0xFF: a local target that answered retry), and who
waits: cell (64: the Scrivener), stream, fly id; the message. -/
structure Trk where
  gen   : Nat
  port  : Nat
  cell  : Nat
  strm  : Nat
  fly   : Nat
  msg   : Msg
  retry : Bool := false
  /-- what the message is for: 0 the command's own, 1 write-through, 2 a front, 3 a transfer, 4 a repair -/
  kind  : Nat := 0
  /-- global address that a READ's data goes to (R275) -/
  dest  : Nat := 0
  /-- ordinal of the message within its command (Table 12-5) -/
  ord   : Nat := 0
  deriving DecidableEq, Repr

/-- One slot of a session's selection (R157): the expert, KEPT, SPILLED and the gate. -/
structure DSlot where
  expert  : Nat
  kept    : Bool
  spilled : Bool := false
  gate    : Word := 0#32
  deriving DecidableEq, Repr

/-- The checked layer descriptor of a session (Table 5-3) with its tables. -/
structure DDesc where
  e     : Nat
  k     : Nat
  spill : Bool
  depth : Nat
  g     : Nat
  cap   : Nat
  t     : Nat
  flag  : Nat
  /-- (rank, local slot) of each expert, and the group's device IDs -/
  experts : List (Nat × Nat)
  group : List Nat
  crc   : Nat
  deriving DecidableEq, Repr

/-- A DRV_SEND in progress (R159-R162). -/
structure DSend where
  cell  : Nat
  fly   : Nat
  back  : Bool
  src   : Nat
  dst   : Nat
  rb    : Nat
  /-- ranks whose acknowledgement of this device's count message is still out -/
  unsent : List Nat
  payload : Bool := false
  /-- words that group members have written into the destination: the member's rank and the word's index, each once -/
  got   : List (Nat × Nat) := []
  deriving DecidableEq, Repr

/-- One DRV_SUBMIT that has arrived: its index, who issued it and where, and the scores, row by row. -/
structure DSub where
  idx    : Nat
  cell   : Nat
  pos    : Nat
  scores : List Word
  deriving DecidableEq, Repr

/-- A Drover session (R153-R163). -/
structure Sess where
  desc   : Nat
  mb     : Nat
  step   : Nat
  region : Nat
  d      : DDesc
  subs   : List DSub := []
  /-- cell, position and key of the last DRV_SUBMIT: its C stream records the session's faults (R163) -/
  cell   : Nat := 0
  pos    : Nat := 0
  selected : Bool := false
  /-- the selection, slot t K + r -/
  list   : List DSlot := []
  fwdDone : Bool := false
  faulted : Bool := false
  faultEv : Bool := false
  /-- counts received by source rank: 64 row counts -/
  counts : Tab (List Nat) := []
  send   : Option DSend := none
  /-- the DRV_CLOSE, by cell and number, that has committed and waits for the sends before it (R153) -/
  closing : Option (Nat × Nat) := none
  deriving DecidableEq, Repr

/-- A write into mirrored state: address, bytes, and the step of the writing command (0: no command). -/
structure WtRec where
  a    : Nat
  n    : Nat
  step : Nat
  deriving DecidableEq, Repr

/-- The pattern's side of a shadow run (R370): the shadow's ID on the tee, its TEE ports, the pass done, and the
first step that is teed. -/
structure Tee where
  dev   : Nat
  digest : List Byte
  ports : List Nat
  passed : Bool := false
  first : Option Nat := none
  deriving DecidableEq, Repr

/-- A write that no command made and that waits for old contents to be read first: bytes, or whole words; a remote WRITE's link and
message, which it answers (R359). -/
structure PendW where
  a     : Nat
  bytes : List Byte := []
  words : List DWord := []
  resp  : Option (Nat × Msg) := none
  deriving DecidableEq, Repr

/-- A copy front of the Scrivener (R358): kind 0 a mirror pass, 1 a shadow pass, 2 a checkpoint; the units not
yet passed, in its order; units passed; where it sends; the units placed in the send buffer by
copy-on-write, that have not left. -/
structure Front where
  kind  : Nat
  units : List Nat
  pos   : Nat := 0
  dest  : Nat
  cow   : List Nat := []
  /-- words by unit base: old contents read ahead of a write and not yet sent; a checkpoint's as gathered; its step and
  epoch -/
  data  : Tab (List DWord) := []
  step  : Nat := 0
  epoch : Nat := 0
  /-- a checkpoint's version tables, as the journal snapshot of the step after it holds them -/
  vtab  : Tab VtEntry := []
  deriving DecidableEq, Repr

/-- A change of a version-table entry that a command or a seal makes (R120-R123). -/
inductive VtAct
  | acquire (mb slot step : Nat)
  | release (mb : Nat)
  | claim
  | publish (step : Nat)
  | unhold (par : Nat)
  deriving DecidableEq, Repr

/-- One such change with its cell and entry. -/
structure VtRec where
  cell : Nat
  ent  : Nat
  act  : VtAct
  deriving DecidableEq, Repr

/-- One unsealed step (R331), with its vote (R126-R129), its fold (R336) and its seal reports (R338). -/
structure StepSt where
  num     : Nat
  isOpen  : Bool := true
  computed : Bool := false
  storm   : Bool := false
  /-- this device's first detection: cell and tile key (R127) -/
  det     : Option (Nat × Nat) := none
  votes   : List Nat := []
  cast    : Bool := false
  voteSent : Bool := false
  /-- children's votes: STORM and the record (device, cell, key) -/
  kidVotes : List (Nat × Bool × Nat × Nat × Nat) := []
  verdict : Option Bool := none
  vrec    : Nat × Nat × Nat := (0xFFFF, 0, 0)
  udones  : List Nat := []
  foldAcc : BitVec 64 := 0#64
  foldWords : Nat := 0
  foldVal : BitVec 64 := 0#64
  peerFold : Option (BitVec 64 × Nat) := none
  reportSent : Bool := false
  /-- its STEP_OPEN waits for the acknowledgement of what it wrote (R355) -/
  opening : Bool := false
  faultFwd : Nat := 0
  /-- children's reports: link, COMPUTED, FOLD_OK, record device, own fold, received fold -/
  kidReps : List (Nat × Bool × Bool × Nat × BitVec 64 × BitVec 64) := []
  decided : Option Nat := none
  notSafe : Bool := false
  /-- a committed MILL_RS or MILL_AR of the step ended without completing: the vote cannot go (R315) -/
  redLost : Bool := false
  mseq    : Tab Nat := []
  /-- its version-table changes since a later step's snapshot was taken (R125, R330) -/
  vtLog   : List VtRec := []
  /-- it was rolled back with a later step: vtLog holds all its changes, and the later snapshot is formed anew from it (R125, R330) -/
  vtWhole : Bool := false
  /-- cell, entry and slot that its commands claimed or published (R125) -/
  vtWrote : List (Nat × Nat × Nat) := []
  /-- the same of its runs that were rolled back, as far as no command has claimed or published the slot since (R125) -/
  vtStale : List (Nat × Nat × Nat) := []
  /-- a gated command waits for its verdict (R131) -/
  gatedW  : Bool := false
  /-- rank 0 holds the job's good report of the step (R340) -/
  repOk   : Bool := false
  /-- new frames received on each port when the step's other conditions first held (R273) -/
  rxNeed  : Option (Tab Nat) := none
  /-- a port has lost keys under which it had received frames whose groups it had not verified (R273) -/
  unver   : Bool := false
  deriving DecidableEq, Repr

/-- A journal entry (Table 11-3) as the Ledger keeps it. -/
structure JEntry where
  estate  : Nat := 0
  step    : Nat := 0
  epochOpen : Nat := 0
  replays : Nat := 0
  planId  : Nat := 0
  seed    : Nat := 0
  len     : Nat := 0
  digest  : List Byte := []
  openTime : Nat := 0
  fold    : BitVec 64 := 0#64
  foldWords : Nat := 0
  /-- the version-table snapshot, by 64 * cell + entry (R330) -/
  vtSnap  : Tab VtEntry := []
  opened  : Bool := false
  /-- its digest is formed; POSTED waits for the acknowledgement of its header (R355) -/
  posting : Bool := false
  deriving DecidableEq, Repr

/-- A port entry of the plan (Table 9-16). -/
structure PlanPort where
  used    : Bool := false
  gen     : Nat := 0
  nport   : Nat := 0
  nid     : Nat := 0
  ndigest : List Byte := []
  deriving DecidableEq, Repr

/-- A route entry (R289). -/
structure Route where
  lo   : Nat
  hi   : Nat
  port : Nat
  dateline : Bool
  deriving DecidableEq, Repr

/-- A link entry of the Mill section (R296): LINK (0-31, 0x40, 0x41, 0xFF) and the neighbour's device ID. -/
structure MLink where
  link : Nat := 0xFF
  nid  : Nat := 0
  deriving DecidableEq, Repr

/-- A group entry of the Mill section (Table 10-2). -/
structure MGroup where
  ring  : Bool
  rails : Nat
  fore  : Bool
  gid   : Nat
  size  : Nat
  rank  : Nat
  /-- RING: per rail, the link to rank+1 and the link from rank-1 -/
  links : List (MLink × MLink) := []
  /-- TREE: the parent link and the children in reduction order -/
  parent : MLink := {}
  kids  : List MLink := []
  deriving DecidableEq, Repr

/-- The fabric plan in force (Table 9-15). -/
structure Plan where
  degraded : Bool := false
  planId   : Nat := 0
  seq      : Nat := 0
  part     : Nat := 0
  dev      : Nat := 0
  shard    : Nat := 0
  buddy    : Nat := 0
  ranges   : List (Nat × Nat) := []
  ports    : List PlanPort := []
  routes   : List Route := []
  groups   : List MGroup := []
  jobTree  : Nat := 0
  deriving DecidableEq, Repr

/-- A dictionary endpoint (R447-R460): 0 host MCTP, 1 host window, 2 sideband, 3 network. -/
structure Endpoint where
  up      : Bool := false
  eid     : Nat := 0
  mask    : Nat := 0x07FF
  muted   : List Nat := []
  ptr     : Nat := 0
  lostRun : Bool := false
  lostNext : Bool := false
  /-- SEQs of the records sent as NOTIFY and not acknowledged (R460) -/
  unacked : List Nat := []
  awaiting : Nat := 0
  /-- the open write transfer: object key, total, bytes received -/
  xw      : Option (Nat × Nat × List Byte) := none
  /-- the open read transfer: object key and the snapshot -/
  xr      : Option (Nat × List Byte) := none
  deriving DecidableEq, Repr

/-- One received partial element: its format and code, and whether its word came poisoned. -/
structure MEl where
  fmt  : Nat
  code : Nat
  /-- the word that holds it, a W48 element's head, is poisoned; and its tail's word -/
  bad  : Bool := false
  badT : Bool := false
  /-- check symbols those poisoned words came with (R312) -/
  chk  : List Byte := []
  chkT : List Byte := []
  deriving DecidableEq, Repr

/-- A Mill command in progress (R303): who issued it, its opcode, its group entry, its addresses, the partial
elements received by 64 segment + lane and not yet used, how many each has used, and the elements still
to take in before it is done. -/
structure MillRun where
  cell   : Nat
  fly    : Nat
  op     : MillOp
  code   : Nat
  group  : Nat
  step   : Nat
  src    : Nat
  dst    : Nat
  hd     : Desc
  recv   : Tab (List MEl) := []
  prog   : Tab Nat := []
  /-- result elements received and written, by 64 segment + rail -/
  res    : Tab Nat := []
  todo   : Nat
  /-- the epoch in which the command began: every message of it carries that one (R320) -/
  epoch  : Nat := 0
  deriving DecidableEq, Repr

/-- A gang value: the step it is for, the own forecast, m and its origin (R401). -/
structure GangVal where
  step   : Nat
  frozen : Nat
  gang   : Nat
  dev    : Nat
  deriving DecidableEq, Repr

/-- The Almanac (13): the ratio k as a fraction, the last ten power values in mW, the duties, the states. -/
structure AlmSt where
  kNum   : Nat := 1
  kDen   : Nat := 1
  powers : List Nat := []
  dPwr   : Nat := 16
  dGang  : Nat := 16
  dCap   : Nat := 16
  dDev   : Nat := 16
  /-- d_pwr and d_dev as they would stand without PWRCAP_N, for the forecast (R400) -/
  pwrOpen : Nat := 16
  dOpen   : Nat := 16
  /-- device power state 0 Fair, 1 Overcast, 2 Squall, 3 Gale, and updates it has been improving -/
  pstate : Nat := 0
  pimp   : Nat := 0
  /-- thermal band of a physical cell, 0 Fair to 4, by its sensor and by its stacks, with improve counts -/
  bands  : Tab (Nat × Nat) := []
  sbands : Tab (Nat × Nat) := []
  /-- quarantine cap of a physical cell's duty (R379); unlisted 16 -/
  qcaps  : Tab Nat := []
  /-- forecast, gang value with its origin and the step they are for; and those frozen before them, until their seal (R400-R402) -/
  frozen : Nat := 16
  gang   : Nat := 16
  gangDev : Nat := 0xFFFF
  gangStep : Nat := 0
  before : Option GangVal := none
  /-- the first open after a takeover freezes (R402) -/
  freezeDue : Bool := false
  /-- origin of the gang duty in force (0x5001:08) -/
  dGangDev : Nat := 0
  tripped : Bool := false
  avsFail : Nat := 0
  avsLost : Bool := false
  late    : Bool := false
  capped  : Bool := false
  /-- sums since the last freeze (R400): P_u and L16 in mW, the lowest d_cell, and updates -/
  puSum   : Nat := 0
  l16Sum  : Nat := 0
  dSum    : Nat := 0
  cnt     : Nat := 0
  /-- power budget and fallback cap in mW as the last update took them (R385) -/
  budget   : Nat := 1500000
  fallback : Nat := 900000
  /-- time of the last valid reading of the regulator (R404) -/
  avsAt   : Nat := 0
  /-- last reading of each stack, and of each physical cell, in 0.1 C; the hottest junction, I/O dies included -/
  stackT  : Tab Int := []
  cellT   : Tab Int := []
  tjMax   : Int := 0
  /-- power estimate of each physical cell in mW, and the sums of the last ten updates (R384) -/
  cellP   : Tab Nat := []
  sums    : List Nat := []
  /-- latest P_u and L16 in mW (R392) -/
  pu      : Nat := 0
  l16     : Nat := 0
  /-- worst power state among the updates that have been improving (R388) -/
  pworst  : Nat := 0
  /-- the regulator's warning stands (R404); a core voltage offset waits for the next seal (R403) -/
  regWarn : Bool := false
  mvDue   : Bool := false
  /-- ten-update count of seconds above 100 C and 95 C (Table 12-8): updates counted toward the next second -/
  hotJ    : Nat := 0
  hotS    : Nat := 0
  deriving DecidableEq, Repr

/-- What a port's hello exchange keeps (R283-R285, R428): the ephemeral private key, the HELLO bytes sent and the
far end's, and the neighbour's identity digest (object sub-index 09). -/
structure HelloSt where
  eph   : Nat := 0
  mine  : List Byte := []
  far   : List Byte := []
  digest : List Byte := []
  deriving DecidableEq, Repr


/-- A slot of a frame: 32 data bytes and 4 check bytes, its HDR and POISON bits (R263, R264). -/
structure FSlot where
  bytes  : List Byte
  hdr    : Bool := false
  poison : Bool := false
  deriving DecidableEq, Repr

/-- A frame in the replay buffer: SEQ and the 916 body bytes. A resent frame repeats them (assumption log 40). -/
structure TxFrame where
  seq   : Nat
  body  : List Byte
  deriving DecidableEq, Repr

/-- One Sweul port (09). Its state, generation and tallies are objects (Table 9-18). -/
structure Port where
  /-- PORT_PRES_N is low; signal on all lanes -/
  pres   : Bool := false
  signal : Bool := false
  spareTx : Nat := 7
  rtt    : Nat := 0
  txSeq  : Nat := 0
  /-- SEQ of the next frame expected in order -/
  rxSeq  : Nat := 0
  unack  : List TxFrame := []
  /-- how many of the unacknowledged frames still have to be sent again, from the oldest resent on -/
  replay : Nat := 0
  /-- times the oldest frame has been resent without ACK passing it (R269) -/
  resent : Nat := 0
  nakDue : Bool := false
  nakSent : Bool := false
  /-- last ACK for which a NAK was obeyed -/
  nakFor : Option Nat := none
  /-- credits held for sending, and slots to be returned to the far end, by channel (R270) -/
  cred   : Tab Nat := []
  give   : Tab Nat := []
  /-- words still to send of the message whose header has left, and that message -/
  txWords : List FSlot := []
  txCur   : Option Msg := none
  /-- words received of a message that is not complete, and of a HELLO -/
  rxWords : List FSlot := []
  rxHello : List FSlot := []
  stateDue : Bool := false
  /-- link keys in force and the ephemeral key offered (R272, R426) -/
  keyTx  : List Byte := []
  keyRx  : List Byte := []
  /-- new frames counted under the current keys, each way -/
  txCount : Nat := 0
  rxCount : Nat := 0
  /-- body bytes 0-911 of the frames of the current group and of the one before it, each way -/
  txGrp  : List Byte := []
  txPrev : List Byte := []
  rxGrp  : List Byte := []
  rxPrev : List Byte := []
  /-- groups verified on receive -/
  verified : Nat := 0
  /-- the far end's HELLO words have come; this port's HELLO has been sent -/
  helloIn : Bool := false
  helloOut : Bool := false
  /-- 100 ms have passed since this port's HELLO: it is sent no more (R284) -/
  helloEnd : Bool := false
  /-- generations allowed, as the training under way or the last one took them (R294) -/
  gens    : Nat := 0
  /-- physical lanes that are suspect and wait for the next seal (R260) -/
  suspect : List Nat := []
  /-- the port retrains while its state stays QUARANTINE (R259, R287) -/
  quietTrain : Bool := false
  /-- it has been ACTIVE and carries on after a retrain: messages in frames that are sent again are taken (R260, R262) -/
  carries : Bool := false
  /-- consecutive frames in which only one lane failed, and that lane -/
  badLane : Nat := 0
  badRun  : Nat := 0
  /-- corrected symbols of the last millisecond: physical lane, time, count (R260) -/
  corr    : List (Nat × Nat × Nat) := []
  hello   : HelloSt := {}
  deriving DecidableEq, Repr
/-- A rollback in progress (R344, R345, R369): its oldest step, the steps rolled back, whether it stops after step 5
(HOLD, an order, a failed repair), units still to be repaired, the unit whose words are being read from the
buddy with the number of READs outstanding, and units repaired. -/
structure Roll where
  m      : Nat
  steps  : List Nat
  hold   : Bool
  units  : List Nat := []
  asked  : Option (Nat × Nat) := none
  fixed  : List Nat := []
  failed : Bool := false
  /-- steps 2 and 3 of R344 are done; steps 4 and 5 -/
  dropped  : Bool := false
  restored : Bool := false
  deriving DecidableEq, Repr

/-- The Ledger's registers and its quiet changes that wait for a seal (R343, R349). -/
structure LdgSt where
  postStep : Nat := 0
  postLen  : Nat := 0
  postErr  : Nat := 0
  /-- cell map and scratch changes that wait: logical cell to physical cell, stack to MiB -/
  qMap     : Tab Nat := []
  qScr     : Tab Nat := []
  /-- QUIET_SEAL has been raised for the step that is held back -/
  quietEv  : Bool := false
  /-- recorded causes 0x50: step and local address (R369) -/
  bad50    : List (Nat × Nat) := []
  /-- a DEVICE_FAULT of the seal in progress: HOLDING follows it (R351) -/
  devFault : Bool := false
  /-- rank 0 keeps a FAULT that named a decided step for the next one: device, reason, folds (R340) -/
  keptFault : Option (Nat × Nat × BitVec 64 × BitVec 64) := none
  /-- sealed steps whose FREE header is not acknowledged yet, oldest first, and the FAULTs of each that came (R339, R355) -/
  relWait  : List (Nat × Nat) := []
  /-- a repair of the rollback that led to HOLDING failed: the device does not resume (R369) -/
  unrepaired : Bool := false
  deriving DecidableEq, Repr

/-- A role's state on its way to a spare (R366): the spare's ID, the TRANSFER ports, writes outstanding, units sent. -/
structure XferSt where
  peer  : Nat
  ports : List Nat
  out   : Nat := 0
  sent  : Nat := 0
  deriving DecidableEq, Repr

/-- A RESTORE order in progress (R375): its epoch and endpoint, the candidates, the round, the shard's bytes received,
the own result with its failing check, the children's results, and whether the result has gone up. -/
structure RestoreSt where
  epoch  : Nat
  ep     : Nat
  cands  : List (Nat × List Byte)
  idx    : Nat := 0
  buf    : List (Nat × List Byte) := []
  shard  : List Byte := []
  result : Option Bool := none
  kids   : List (Nat × Bool × Nat) := []
  sentUp : Bool := false
  deriving DecidableEq, Repr

/-- A recovery order and what it set going (R361-R375). -/
structure RcvSt where
  /-- body of the last applied order (R362) -/
  last      : List Byte := []
  /-- the order under which the device is HOLDING: its kind (0 none), u, epoch -/
  kind      : Nat := 0
  u         : Nat := 0
  epoch     : Nat := 0
  readySent : Bool := false
  /-- device ID of the order's peer; amendments that wait for the rollback to finish (port, mode, entry) -/
  peer      : Nat := 0
  orderDue  : Bool := false
  amends    : List (Nat × Nat × PlanPort) := []
  /-- job-tree children that have sent RCV_READY, by their place -/
  kidsReady : List Nat := []
  /-- ports that are TRANSFER entries until the resume -/
  xferPorts : List Nat := []
  xfer      : Option XferSt := none
  /-- a spare still waits for XFER_DONE -/
  waitXfer  : Bool := false
  restore   : Option RestoreSt := none
  /-- endpoint of a checkpoint that waits for the next step open (R372) -/
  ckptDue   : Option Nat := none
  /-- a checkpoint sealed and sent, waiting for its endpoint's confirmation: endpoint and step -/
  ckptSent  : Option (Nat × Nat) := none
  /-- a mirror pass begins at the next step open (R356) -/
  mirrorDue : Bool := false
  /-- SHADOW: the pattern's folds by step: value and words, and decisions by step -/
  shFolds   : Tab (BitVec 64 × Nat) := []
  shDec     : Tab Nat := []
  /-- ports that link a shadow to its pattern; requests it has not sent (R371) -/
  teePorts  : List Nat := []
  shCount   : Nat := 0
  deriving DecidableEq, Repr

/-- The Barometer (R376): counts by reading with their times, the time of the last FALLING_GLASS, whether every reading has
fallen below half its threshold since, and the mismatch log and quarantine entries (R378, R379). -/
structure BaroSt where
  counts : Tab (List (Nat × Nat)) := []
  fired  : Option Nat := none
  log    : List (List Byte) := []
  quar   : List (List Byte) := []
  /-- corners that wait for the next seal: physical cell, loom, kind, key -/
  due    : List (Nat × Nat × Nat × Nat) := []
  /-- physical cells out of service since reset (R14, R379, R526) -/
  out    : List Nat := []
  /-- mismatches by corner: (cell, loom, kind, key) and its times -/
  marks  : List ((Nat × Nat × Nat × Nat) × List Nat) := []
  deriving DecidableEq, Repr

/-- A patch slot (R417-R421): state 0 EMPTY, 1 LOADING, 2 VALID, 3 REFUSED, 4 ACTIVE; version, SVN, COMMIT_SVN, digest. -/
structure PSlot where
  state  : Nat := 0
  ver    : Nat := 0
  svn    : Nat := 0
  commit : Bool := false
  digest : List Byte := []
  deriving DecidableEq, Repr

/-- The state of the Locksmith's CTR_DRBG (R412): key, counter block, and requests since it was last seeded. -/
structure Drbg where
  key : BitVec 256 := 0
  v   : BitVec 128 := 0
  cnt : Nat := 0
  deriving DecidableEq, Repr

/-- The Locksmith (14): job keys, the last applied request, patch slots, the image whose self-check is awaited,
management requests that wait for it (R420), the debug challenge, level and unlock count, the SVN floor blown
since shipping, and the refusal log. -/
structure LockSt where
  /-- DRS, once it has been rebuilt after a reset, and the private keys IDK and DEK derived from it (R409, R410); 0 until then -/
  drs     : Option (BitVec 256) := none
  idk     : Nat := 0
  dek     : Nat := 0
  drbg    : Drbg := {}
  jok     : Option (List Byte) := none
  jsk     : List Byte := []
  lastReq : List Byte := []
  slots   : Tab PSlot := []
  running : Option Nat := none
  /-- requests that wait for a self-check: endpoint, operation, fields, and how a commit ends where the command says (R462) -/
  waits   : List (Nat × Nat × DReq × Option Bool) := []
  challenge : List Byte := []
  debug   : Nat := 0
  unlocks : Nat := 0
  /-- PLAN_SEQ of the last plan accepted under the job key (Table 9-14, check 4) -/
  planSeq : Option Nat := none
  svn     : Nat := 0
  /-- the last blow of the SVN floor: the floor before it, and when it began (R421) -/
  blow    : Option (Nat × Nat) := none
  log     : List (List Byte) := []
  deriving DecidableEq, Repr

/-- HBM lanes and what the word code counts (R250-R252): corrections by (stack, channel, lane) with their times, suspect
lanes, and spare lanes used by 32 stack + channel. -/
structure HbmSt where
  corr : List ((Nat × Nat × Nat) × Nat) := []
  sus  : List (Nat × Nat × Nat) := []
  used : Tab Nat := []
  /-- `used` as the last training left it (R251, R445) -/
  first : Tab Nat := []
  /-- by stack: the time until which a channel is held for retraining (R252) -/
  held  : Tab Nat := []
  deriving DecidableEq, Repr

/-- The host's side of the block: the BAR2 window (R472), its size as a power of two, the dictionary buffers and status
(R464), and the MSI-X table's 64-bit words. -/
structure HostSt where
  winBase : Nat := 0
  winBad  : Bool := false
  winLog  : Nat := 34
  reqBuf  : Tab Nat := []
  rspBuf  : List Byte := []
  done    : Bool := false
  status  : Nat := 0
  msix    : Tab Nat := []
  /-- configuration space: MSI-X function mask, power state D3hot, and what else has been written, by register -/
  fmask   : Bool := false
  d3      : Bool := false
  /-- maximum payload size in bytes (Table 16-1) -/
  mps     : Nat := 128
  /-- AER classes of the errors reported and not cleared, ascending: 0 correctable, 1 non-fatal, 2 fatal (Table 16-6) -/
  aer     : List Nat := []
  cfg     : Tab Nat := []
  deriving DecidableEq, Repr


/-- An amber port pattern on the service LED (R539): its port, when it began, and, once another port is to be shown, the end of the
cycle in progress. -/
structure LedRun where
  port  : Nat
  since : Nat
  last  : Option Nat := none
  deriving DecidableEq, Repr

/-- Supplies, clock, reset and the boot, and the service pins (18). The always-on record and the persistent store stand
here: what a device reset keeps. -/
structure BoardSt where
  /-- SYS_RST_N is low; a supply or REFCLK is out of its limits, so that internal reset holds -/
  rstLow   : Bool := true
  supplies : Nat := 0x3FF
  refOk    : Bool := true
  /-- why the device last left reset (R520) -/
  cause    : Nat := 0
  /-- the boot runs; its stages 4 and 5 have ended -/
  boot     : Bool := false
  done4    : Bool := false
  done5    : Bool := false
  /-- PCIe: PERST_N low, link up, its PLL locked; PLLs of a quadrant's ports and of an Ethernet port that have no lock -/
  perst    : Bool := false
  pcieUp   : Bool := false
  pllLost  : List Nat := []
  /-- service button: 0 up, 1 pressed, 2 held 3 s, 3 held 8 s, 4 stuck; identify runs -/
  btn      : Nat := 0
  identify : Bool := false
  /-- why a drain was requested: 1 button, 2 latch -/
  reason   : Nat := 0
  /-- SVC_SAFE has been raised since the device last became unsafe -/
  safe     : Bool := false
  /-- the port whose pattern the LED shows (R539) -/
  led      : Option LedRun := none
  /-- the persistent store: fixed-size RWP values and RWP domains by object key; commits; defaults at the next reset -/
  rwp      : Tab Nat := []
  rwpDom   : Tab (List Byte) := []
  commits  : Nat := 0
  defaults : Bool := false
  deriving DecidableEq, Repr

/-- A secured SPDM session (R414): its ID and endpoint, whether FINISH has come, the transcript, the shared secret, and for each
direction its key generation, the secret of its AES-256-GCM key and the number of its next message. -/
structure SpdmSess where
  id     : Nat
  ep     : Nat
  up     : Bool := false
  th     : List Byte := []
  z      : List Byte := []
  reqGen : Nat := 0
  rspGen : Nat := 0
  reqSec : List Byte := []
  rspSec : List Byte := []
  reqSeq : Nat := 0
  rspSeq : Nat := 0
  deriving DecidableEq, Repr

/-- An SPDM connection of an endpoint: how far it is negotiated (1 version, 2 capabilities, 3 algorithms) and the
messages so far. -/
structure SpdmConn where
  stage : Nat := 0
  vca   : List Byte := []
  deriving DecidableEq, Repr

/-- An IDE stream (R477): keys by key set, direction and sub-stream, and whether it is Secure. -/
structure IdeSt where
  keys   : Tab (List Byte) := []
  /-- directions and sub-streams of the key set in use that have been started -/
  go     : List Nat := []
  secure : Bool := false
  deriving DecidableEq, Repr

/-- A bulk-transport session with an endpoint (R484-R488): phase 0 none, 1 OPEN sent, 2 up. -/
structure BSess where
  phase  : Nat := 0
  mine   : Nat := 0
  far    : Nat := 0
  eph    : Nat := 0
  /-- payload bytes 0-131 that this end sent -/
  clear  : List Byte := []
  opener : Bool := false
  keyTx  : List Byte := []
  keyRx  : List Byte := []
  saltTx : List Byte := []
  saltRx : List Byte := []
  /-- next PSN and next control number to send; last control number accepted; next PSN to deliver -/
  psn    : Nat := 0
  ctl    : Nat := 0
  ctlRx  : Option Nat := none
  rxNext : Nat := 0
  /-- packets held out of order: channel and payload by PSN -/
  held   : Tab (Nat × List Byte) := []
  /-- unacknowledged packets by PSN with the times each has been resent -/
  unack  : Tab (List Byte × Nat) := []
  /-- payloads that wait for the window: channel and bytes -/
  waitq  : List (Nat × List Byte) := []
  fails  : Nat := 0
  ce     : Bool := false
  /-- DATA packets received since the last ACK -/
  got    : Nat := 0
  /-- pace in Gb/s, and the time when it was last set (R487) -/
  pace   : Nat := 0
  paceAt : Nat := 0
  deriving DecidableEq, Repr

/-- An Ethernet port's values in effect since its last link training (R491): mode, MTU, VLAN, addresses, UDP port, DSCP. -/
structure EthSt where
  mode : Nat := 0
  mtu  : Nat := 9216
  vlan : Nat := 0
  v6   : List Byte := []
  v4   : List Byte := []
  udp  : Nat := 47260
  dscp : Nat := 26
  deriving DecidableEq, Repr


/-- The whole device. -/
structure State where
  cells    : Tab Cell := []
  /-- device flags by 2 * flag + parity (R213) -/
  dflags   : Tab Word := []
  /-- memory by local address: strictly rising, no entry zero; an unlisted byte is 0 -/
  mem      : List Host.Cell := []
  /-- indices (address div 32) of poisoned words, rising (R248) -/
  poison   : List Nat := []
  /-- check symbols of poisoned words as they were stored, by the same index (R248, R267) -/
  pchk     : Tab (List Byte) := []
  wins     : Tab Win := []
  /-- dictionary values and tallies by 256 * index + sub-index; unlisted at its default -/
  objs     : Tab Nat := []
  evLog    : List EvRec := []
  eps      : Tab Endpoint := []
  epoch    : Nat := 0
  holding  : Bool := false
  /-- the last two steps sealed or skipped, newest first, with whether the verdict was PASS (R124, R129) -/
  past     : List (Nat × Bool) := []
  steps    : List StepSt := []
  /-- highest step number released since the job start was written (R331) -/
  released : Nat := 0
  jr       : Tab JEntry := []
  /-- the last step posted since START_STEP was written (R327) -/
  lastPosted : Option Nat := none
  ldg      : LdgSt := {}
  roll     : Option Roll := none
  rcv      : RcvSt := {}
  baro     : BaroSt := {}
  lock     : LockSt := {}
  host     : HostSt := {}
  /-- the stacks are trained and serve (R251) -/
  up       : Bool := false
  hbm      : HbmSt := {}
  /-- DOM objects written or kept as bytes, by object key (R448-R451) -/
  doms     : Tab (List Byte) := []
  hasJournal : Bool := false
  plan     : Option Plan := none
  inPlan   : Bool := false
  /-- discovery under the plan has found an outcome for every used port (R286) -/
  found    : Bool := false
  ports    : Tab Port := []
  trk      : Tab Trk := []
  trkGen   : Tab Nat := []
  trkHwm   : Nat := 0
  sess     : List Sess := []
  mill     : List MillRun := []
  /-- next CSEQ of each group outside any step (R302) -/
  mseq0    : Tab Nat := []
  /-- MILL_NOT_REPLAY_SAFE has been raised for step 0 (R321) -/
  notSafe0 : Bool := false
  /-- rank that a TREE neighbour's messages name, by 2^18 GID + link key (R313) -/
  ranks    : Tab Nat := []
  /-- Mill and Ledger messages of a later epoch, by link key (R313) -/
  later    : List (Nat × Msg) := []
  /-- scratch share in effect of each stack in MiB (R233) -/
  scratch  : Tab Nat := []
  msadd    : Bool := false
  /-- physical cell that runs a logical cell, unlisted the factory map's (R13) -/
  cellMap  : Tab Nat := []
  alm      : AlmSt := {}
  /-- messages that wait for a link, oldest first: key 0-31 a Sweul port, 0x10000 (port + 1) + device a bulk peer -/
  txq      : Tab (List Msg) := []
  /-- messages received and not yet handled or taken, by the same keys (R274, R313) -/
  rxq      : Tab (List Msg) := []
  /-- signals of steps that have not opened, in order of arrival, with the link each came by (R276) -/
  heldSig  : List (Nat × Msg) := []
  /-- spans written into mirrored state whose write-through has not been sent (R355) -/
  wtq      : List WtRec := []
  fronts   : List Front := []
  /-- the donor whose transfer writes a spare accepts (R367) -/
  xferFrom : Option Nat := none
  tee      : Option Tee := none
  /-- units whose old contents are waited for, in the order in which the waits began (R360) -/
  cowQ     : List Nat := []
  /-- writes of other writers than commands that wait for those units, oldest first (R359, R360) -/
  pendW    : List PendW := []
  /-- Scrivener messages that wait for a tracker entry (R280) -/
  scrQ     : List Stall := []
  /-- ordered operations refused at their next resend: source device, tracker entry (R243) -/
  lateOps  : List (Nat × Nat) := []
  /-- rank 0's own seal reports and faults, and decisions, not yet acted on (R316, R340) -/
  selfUp   : List Msg := []
  selfDown : List Msg := []
  /-- events raised once and not yet reset: code and the rule's own key (R461) -/
  once     : List (Nat × Nat) := []
  /-- MSI-X: enabled, vectors whose mask bit is clear, pending bits (R476) -/
  msixEn   : Bool := false
  msixOpen : List Nat := []
  msixPend : List Nat := []
  board    : BoardSt := {}
  spdm     : Tab SpdmConn := []
  ssess    : List SpdmSess := []
  ide      : Tab IdeSt := []
  bulk     : Tab BSess := []
  /-- the MANAGER session that carries endpoint 3, and dictionary messages that wait to leave on it -/
  mgr      : Option Nat := none
  mgmtTx   : List (List Byte) := []
  eth      : Tab EthSt := []
  now      : Nat := 0
  free     : Nat := 0
  outbox   : List Out := []
  pending  : List Instr := []
  deriving DecidableEq, Repr

/-- Why the model stops at a command: never, so far as the spec gives every command an effect. -/
inductive Fault
  /-- no command raises it: every fault of the spec is a state the device goes on from (safe) -/
  | none
  deriving DecidableEq, Repr

/-- Why a command has no meaning. -/
inductive Refusal
  /-- raised by no arm once every row has its meaning: the named row has none yet (safe) -/
  | notModelled (mnemonic : String)
  deriving DecidableEq, Repr

/-- The device right after reset: every field at its default. -/
def State.reset : State := {}

end Sys2Proof.Machine
end

