-- ==== Sys2Proof/Machine/Ops.lean ====
section
/-! DEFINITION. The named operations over the state: tables, cells and streams, memory bytes and poison,
the address map, objects and tallies, timestamps and free values, events and the outbox. -/
namespace Sys2Proof.Machine

/-! Tables. -/

/-- The value at key k, d where the table lists none. -/
def tget {α : Type} (d : α) : Tab α → Nat → α
  | [], _ => d
  | (k, v) :: t, i => if k = i then v else tget d t i

def tfind {α : Type} : Tab α → Nat → Option α
  | [], _ => none
  | (k, v) :: t, i => if k = i then some v else tfind t i

/-- Removes a key. -/
def tdel {α : Type} (t : Tab α) (i : Nat) : Tab α := t.filter (fun p => p.1 ≠ i)

/-- Sets the value at a key. -/
def tset {α : Type} (t : Tab α) (i : Nat) (v : α) : Tab α :=
  match t with
  | [] => [(i, v)]
  | (k, w) :: r => if k = i then (i, v) :: r else (k, w) :: tset r i v

def tmod {α : Type} (d : α) (t : Tab α) (i : Nat) (f : α → α) : Tab α := tset t i (f (tget d t i))

/-- The first n elements of a list from an offset, as a total function. -/
def lslice {α : Type} (l : List α) (off n : Nat) : List α := (l.drop off).take n

def ixOf (st : Strm) : Nat :=
  match st with
  | .F => 0
  | .B => 1
  | .U => 2
  | .C => 3

def loomIx (l : Loom) : Nat :=
  match l with
  | .F => 0
  | .B0 => 1
  | .B1 => 2

/-! Cells, streams, hoppers, looms. -/

def getCell (s : State) (c : Nat) : Cell := tget {} s.cells c

def setCell (s : State) (c : Nat) (x : Cell) : State := { s with cells := tset s.cells c x }

def modCell (s : State) (c : Nat) (f : Cell → Cell) : State := setCell s c (f (getCell s c))

def getStrm (s : State) (c k : Nat) : Stream := tget {} (getCell s c).streams k

def setStrm (s : State) (c k : Nat) (x : Stream) : State :=
  modCell s c (fun q => { q with streams := tset q.streams k x })

def modStrm (s : State) (c k : Nat) (f : Stream → Stream) : State := setStrm s c k (f (getStrm s c k))

def getHop (s : State) (c h : Nat) : Hopper := tget {} (getCell s c).hoppers h

def setHop (s : State) (c h : Nat) (x : Hopper) : State :=
  modCell s c (fun q => { q with hoppers := tset q.hoppers h x })

def modHop (s : State) (c h : Nat) (f : Hopper → Hopper) : State := setHop s c h (f (getHop s c h))

def getLoom (s : State) (c l : Nat) : LoomSt := tget {} (getCell s c).looms l

def setLoom (s : State) (c l : Nat) (x : LoomSt) : State :=
  modCell s c (fun q => { q with looms := tset q.looms l x })

def modLoom (s : State) (c l : Nat) (f : LoomSt → LoomSt) : State := setLoom s c l (f (getLoom s c l))

def getVt (s : State) (c e : Nat) : VtEntry := tget {} (getCell s c).vt e

def setVt (s : State) (c e : Nat) (x : VtEntry) : State :=
  modCell s c (fun q => { q with vt := tset q.vt e x })

/-- The command in flight with an id. -/
def findFly (st : Stream) (id : Nat) : Option Fly := st.fly.find? (fun f => f.id == id)

/-- Replaces the command in flight that has the same id. -/
def putFly (s : State) (c k : Nat) (f : Fly) : State :=
  modStrm s c k (fun x => { x with fly := x.fly.map (fun g => if g.id == f.id then f else g) })

/-! Memory. -/

/-- The byte a cell list holds at an address; an unlisted byte is 0 (assumption log 3). -/
def cellsGet : List Host.Cell → Nat → Byte
  | [], _ => 0#8
  | (k, v) :: t, a => if k = a then v else if a < k then 0#8 else cellsGet t a

/-- Writes a byte into a cell list, keeping addresses strictly rising and listing no zero. -/
def cellsSet : List Host.Cell → Nat → Byte → List Host.Cell
  | [], a, b => if b = 0#8 then [] else [(a, b)]
  | (k, v) :: t, a, b =>
    if k < a then (k, v) :: cellsSet t a b
    else if k = a then (if b = 0#8 then t else (a, b) :: t)
    else (if b = 0#8 then (k, v) :: t else (a, b) :: (k, v) :: t)

/-- Canonical form of a cell list: addresses strictly rising, no entry 0. -/
def cellsWf : List Host.Cell → Bool
  | [] => true
  | [(_, v)] => v != 0#8
  | (k, v) :: (k', v') :: t => v != 0#8 && decide (k < k') && cellsWf ((k', v') :: t)

/-- The canonical form of memory. -/
def Memory.wf (m : List Host.Cell) : Bool := cellsWf m

def memGet (s : State) (a : Nat) : Byte := cellsGet s.mem a

def memSet (s : State) (a : Nat) (b : Byte) : State := { s with mem := cellsSet s.mem a b }

/-- The bytes at a, a+1, … -/
def memRead (s : State) (a : Nat) : Nat → List Byte
  | 0 => []
  | n + 1 => memGet s a :: memRead s (a + 1) n

def memWriteRaw (s : State) (a : Nat) : List Byte → State
  | [] => s
  | b :: t => memWriteRaw (memSet s a b) (a + 1) t

/-- Little-endian bytes to a number (R3). -/
def leNat : List Byte → Nat
  | [] => 0
  | b :: t => b.toNat + 256 * leNat t

/-- The low n bytes of a number, little-endian (R3). -/
def natLe : Nat → Nat → List Byte
  | _, 0 => []
  | v, n + 1 => BitVec.ofNat 8 v :: natLe (v / 256) n

def memLe (s : State) (a n : Nat) : Nat := leNat (memRead s a n)

/-- Is the 32-byte word that holds address a poisoned? -/
def isPoison (s : State) (a : Nat) : Bool := s.poison.contains (a / 32)

/-- The first poisoned address among the words that n bytes from a touch. -/
def firstPoison (s : State) (a n : Nat) : Option Nat :=
  ((s.poison.filter (fun w => a / 32 ≤ w && w * 32 < a + n)).head?).map (fun w => max (w * 32) a)

/-- First poisoned word of a list of spans. -/
def spansPoison (s : State) (l : List (Nat × Nat)) : Option Nat :=
  if s.poison.isEmpty then none else (l.filterMap (fun p => firstPoison s p.1 p.2)).head?

/-- A poisoned word that a write of n bytes at a only partly covers: the write reads it (R236, R249). -/
def edgePoison (s : State) (a n : Nat) : Option Nat :=
  if a % 32 != 0 && isPoison s a then some a
  else if (a + n) % 32 != 0 && isPoison s (a + n - 1) then some (a + n - 1) else none

def edgesPoison (s : State) (l : List (Nat × Nat)) : Option Nat :=
  if s.poison.isEmpty then none else (l.filterMap (fun p => edgePoison s p.1 p.2)).head?

/-- Insertion into a rising list without repeats. -/
def insertAsc (w : Nat) : List Nat → List Nat
  | [] => [w]
  | x :: t => if w < x then w :: x :: t else if w = x then x :: t else x :: insertAsc w t

/-- Poison stays on the words that f keeps, with the check symbols stored with it. -/
def keepPoison (s : State) (f : Nat → Bool) : State :=
  { s with poison := s.poison.filter f, pchk := s.pchk.filter (fun q => f q.1) }

def setPoison (s : State) (a : Nat) (p : Bool) : State :=
  if p then { s with poison := insertAsc (a / 32) s.poison, pchk := tdel s.pchk (a / 32) }
  else keepPoison s (fun w => w ≠ a / 32)

/-- Words wholly inside [a, a+n): their poison is cleared by a write of the whole word (R248). -/
def memWrite (s : State) (a : Nat) (bs : List Byte) : State :=
  keepPoison (memWriteRaw s a bs) (fun w => !(a ≤ w * 32 && w * 32 + 32 ≤ a + bs.length))

/-- The words wholly inside spans that a command has written piece by piece lose their poison (R248). -/
def unpoison (s : State) (l : List (Nat × Nat)) : State :=
  keepPoison s (fun w => !l.any (fun p => p.1 ≤ w * 32 && w * 32 + 32 ≤ p.1 + p.2))

/-- A word moved with its poison, a poisoned one with its stored check symbols (R248, R267). -/
def memWriteWord (s : State) (a : Nat) (w : DWord) : State :=
  let s1 := setPoison (memWriteRaw s a (w.bytes.take 32)) a w.poison
  if w.poison && !w.chk.isEmpty then { s1 with pchk := tset s1.pchk (a / 32) w.chk } else s1

/-! The local address map (Table 1-9). -/

def larderBase : Nat := 0x020000000000
def benchBase : Nat := 0x030000000000
def regBase : Nat := 0x040000000000
def hbmEnd : Nat := 0x018000000000

/-- The scratch share in effect of a stack, in bytes (R27, R233). -/
def scratchBytes (s : State) (k : Nat) : Nat := tget 0 s.scratch k * 1048576

/-- Regions of the local map that an address can lie in. -/
inductive Region
  | hbm
  | larder (stack off : Nat)
  | bench (cell off : Nat)
  | regs (off : Nat)
  | unmapped
  deriving DecidableEq, Repr

/-- R25, R27, R28: where a local address lies. -/
def regionOf (s : State) (a : Nat) : Region :=
  if a < hbmEnd then .hbm
  else if larderBase ≤ a && a < larderBase + 12 * 0x10000000 then
    let k := (a - larderBase) / 0x10000000
    let o := (a - larderBase) % 0x10000000
    if o < scratchBytes s k then .larder k o else .unmapped
  else if benchBase ≤ a && a < benchBase + 64 * 0x1000000 then
    let o := (a - benchBase) % 0x1000000
    if o < 0xC00000 then .bench ((a - benchBase) / 0x1000000) o else .unmapped
  else if regBase ≤ a && a < regBase + 0x8000000 then .regs (a - regBase)
  else .unmapped

/-- The address is data memory (not register space). -/
def isMem (s : State) (a : Nat) : Bool :=
  match regionOf s a with
  | .hbm => true
  | .larder .. => true
  | .bench .. => true
  | _ => false

/-- Bytes [a, a+n) all lie in data memory: every edge of a region lies on a 32-byte word, so the first byte,
the last one and one in each word between decide it. -/
def memOk (s : State) (a n : Nat) : Bool :=
  n == 0 || (isMem s a && isMem s (a + n - 1) &&
    (match regionOf s a, regionOf s (a + n - 1) with
     | .hbm, .hbm => true
     | .larder k _, .larder k' _ => k == k' || (List.range (k' - k)).all (fun i => scratchBytes s (k + i) == 0x10000000)
     | .bench c _, .bench c' _ => c == c'
     | _, _ => false))

/-- Bytes [off, off+n) of a cell's bench window. -/
def benchOk (off n : Nat) : Bool := off + n ≤ 0xC00000

def benchAddr (c off : Nat) : Nat := benchBase + c * 0x1000000 + off

/-- The stack that holds a local HBM address, under the interleave mode in effect (R26, R231). -/
def stackOfHbm (mode a : Nat) : Nat :=
  match mode with
  | 0 => a / 4096 % 12
  | 1 => a / 65536 % 12
  | 2 => 3 * (a / 0x6000000000) + (a % 0x6000000000) / 4096 % 3
  | _ => a / 2 ^ 37 % 16

/-- The stack offset of a local HBM address (R26, R231). -/
def stackOffHbm (mode a : Nat) : Nat :=
  match mode with
  | 0 => a / 4096 / 12 * 4096 + a % 4096
  | 1 => a / 65536 / 12 * 65536 + a % 65536
  | 2 => (a % 0x6000000000) / 4096 / 3 * 4096 + a % 4096
  | _ => a % 2 ^ 37

/-! Objects and tallies. -/

def oget (s : State) (idx sub : Nat) : Nat := tget (objDefault idx sub) s.objs (okey idx sub)

def oset (s : State) (idx sub v : Nat) : State := { s with objs := tset s.objs (okey idx sub) v }

/-- A performance and event tally: 48 bits, WRAPPED in bit 63 (R8). -/
def perfAdd (v n : Nat) : Nat :=
  let c := v % 2 ^ 48 + n
  let w := v / 2 ^ 63 == 1 || c ≥ 2 ^ 48
  c % 2 ^ 48 + (if w then 2 ^ 63 else 0)

/-- An error tally: sticks at 0xFFFF_FFFF (R8). -/
def errAdd (v n : Nat) : Nat := min (v + n) 0xFFFFFFFF

def bumpPerf (s : State) (idx sub n : Nat) : State :=
  if n = 0 then s else oset s idx sub (perfAdd (oget s idx sub) n)

/-! Free values, time, the outbox. -/

/-- Takes the next free value. -/
def draw (s : State) : Nat × State := (Config.freeNat s.free, { s with free := s.free + 1 })

/-- A free value below n. -/
def drawBelow (s : State) (n : Nat) : Nat × State := (Config.freeNat s.free % n, { s with free := s.free + 1 })

/-- Reads the local timestamp (R2): it has advanced by an open amount since it was last read. -/
def stamp (s : State) : State :=
  { s with now := (s.now + Config.elapsed s.free) % 2 ^ 64, free := s.free + 1 }

/-- Something is about to read or write memory that may lie in HBM, behind the cache of its stack (R232): each cache counts the lines that
miss. No rule says which lines a cache holds, and none of its contents is ever seen, so each count is free; a stack whose whole
larder is scratch has none (assumption log 144). -/
def hbmSeen (s : State) : State :=
  (List.range 12).foldl (fun t k =>
    if tget 0 s.scratch k ≥ 256 then t
    else oset t (0x4800 + 0x40 * k) 0x0A (perfAdd (oget t (0x4800 + 0x40 * k) 0x0A) (Config.cacheMisses s.free k)))
    { s with free := s.free + 1 }

def emit (s : State) (o : Out) : State := { s with outbox := s.outbox ++ [o] }

/-- A dictionary message to an endpoint; endpoint 3's leave on the MANAGER session (R446). -/
def emitDict (s : State) (e : Nat) (bs : List Byte) : State :=
  if e == 3 then { s with mgmtTx := s.mgmtTx ++ [bs] } else emit s (.dict e bs)

/-- MSI-X messages cannot leave: they are not enabled, masked as a whole, the link is down or the function is in D3hot, or
IDE is required and no stream is Secure (R476, R478). -/
def msixHold (s : State) : Bool :=
  !s.msixEn || s.host.fmask || s.host.d3 || !s.board.pcieUp ||
    (oget s 0x2041 1 == 1 && s.ide.all (fun p => !p.2.secure))

/-- Signals an MSI-X vector (R476): a message, or the pending bit when it is masked. -/
def signalVec (s : State) (v : Nat) : State :=
  if !msixHold s && s.msixOpen.contains v then emit s (.msix v)
  else { s with msixPend := insertAsc v s.msixPend }

/-- Pending messages of vectors that are not masked leave. -/
def flushVecs (s : State) : State :=
  if msixHold s then s
  else
    let go := s.msixPend.filter (fun v => s.msixOpen.contains v)
    go.foldl (fun s v => emit s (.msix v)) { s with msixPend := s.msixPend.filter (fun v => !s.msixOpen.contains v) }

/-! Events. -/

def getEp (s : State) (e : Nat) : Endpoint := tget {} s.eps e

def setEp (s : State) (e : Nat) (x : Endpoint) : State := { s with eps := tset s.eps e x }

/-- The mask bit of an event code's class (Table 15-8): codes 0x07.. to 0x11.. take bits 0 to 10. -/
def classBit (code : Nat) : Nat := code / 256 - 7

/-- R459: a record is due to an endpoint when its class bit is set and its code is not muted. -/
def dueTo (x : Endpoint) (r : EvRec) : Bool :=
  x.mask / 2 ^ classBit r.code % 2 == 1 && !x.muted.contains r.code

/-- Due records an endpoint has not acknowledged. -/
def dueRecs (s : State) (x : Endpoint) : List EvRec :=
  s.evLog.filter (fun r => x.ptr ≤ r.seq && dueTo x r)

/-- The newest open step, or the last step sealed; 0 before the first (Table 15-9). -/
def evStep (s : State) : Nat :=
  match (s.steps.filter (fun t => t.isOpen)).getLast? with
  | some t => t.num
  | none => oget s 0x5400 3

/-- A record's 64 bytes (Table 15-9). -/
def evBytes (r : EvRec) : List Byte :=
  natLe r.code 2 ++ natLe 0 2 ++ natLe r.epoch 4 ++ natLe r.seq 6 ++ natLe 0 2 ++ natLe r.time 8 ++ natLe r.step 8 ++
    ((r.payload.map (BitVec.ofNat 8)) ++ List.replicate 32 0#8).take 32

/-- A dictionary message's 16-byte header (Table 15-3). -/
def dictHdr (op tag status idx sub flags off len : Nat) : List Byte :=
  natLe 1 1 ++ natLe op 1 ++ natLe tag 1 ++ natLe status 1 ++ natLe idx 2 ++ natLe sub 1 ++ natLe flags 1 ++
    natLe off 4 ++ natLe len 4

/-- Pushes due records of an endpoint that takes NOTIFY messages, up to 16 unacknowledged (R460). -/
def pushNotify (s : State) (e : Nat) : List EvRec → State
  | [] => s
  | r :: rs =>
    let x := getEp s e
    if x.unacked.length ≥ 16 then s
    else
      let s1 := emitDict s e (dictHdr 0x30 0 0 0 0 (if x.lostNext then 2 else 0) 0 64 ++ evBytes r)
      pushNotify (setEp s1 e { x with unacked := x.unacked ++ [r.seq], lostNext := false }) e rs

/-- R460: what an endpoint gets when records are due: `had` says whether any were due before. -/
def notifyEp (s : State) (e : Nat) (had : Bool) : State :=
  let x := getEp s e
  if !x.up then s
  else if e == 0 || e == 3 then pushNotify s e ((dueRecs s x).filter (fun r => !x.unacked.contains r.seq))
  else if had || (dueRecs s x).isEmpty then s
  else if e == 1 then signalVec s 0
  else if oget s 0x1020 4 == 1 then emit s .ibi else s

/-- Writes an event record: the log is a ring of 1,024 (R457). -/
def logEvent (s : State) (code : Nat) (payload : List Nat) : State :=
  let s := stamp s
  let cnt := perfAdd (oget s 0x1F10 2) 1
  let r : EvRec := ⟨code, s.epoch, cnt % 2 ^ 48, s.now, evStep s, payload.take 32⟩
  oset { s with evLog := (s.evLog ++ [r]).drop (s.evLog.length + 1 - 1024) } 0x1F10 2 cnt

/-- A record that was due to an endpoint is lost (R459): the tally and the LOST mark, and the events that follow: the tally sticks (R8,
R466), and EVENTS_LOST once for the run. -/
def loseRec (s : State) (e : Nat) : State × List (Nat × List Nat) :=
  let x := getEp s e
  let v := oget s (0x1F00 + e) 4
  (setEp (oset s (0x1F00 + e) 4 (errAdd v 1)) e { x with lostRun := true, lostNext := true },
   (if errAdd v 1 == 0xFFFFFFFF && v != 0xFFFFFFFF then [(0x0714, [])] else []) ++
     (if x.lostRun then [] else [(0x0711, [e, 0, 0, 0, 1, 0, 0, 0])]))

/-- The oldest record of a full log is lost to each endpoint that it was due to: the state, and the events that follow. -/
def dropHead (s : State) (r : EvRec) : State × List (Nat × List Nat) :=
  (List.range 4).foldl (fun q e =>
    let x := getEp q.1 e
    if x.ptr ≤ r.seq && dueTo x r then ((loseRec q.1 e).1, q.2 ++ (loseRec q.1 e).2) else q)
    ({ s with evLog := s.evLog.drop 1 }, [])

/-- Makes room in the log for a record. An event that a loss raises is a record of its own and needs room too; the first argument
bounds that, which ends once each endpoint's run and tally have been told. -/
def makeRoom : Nat → State → State
  | 0, s => s
  | n + 1, s =>
    match (if s.evLog.length < 1024 then none else s.evLog.head?) with
    | none => s
    | some r =>
      let q := dropHead s r
      if q.2.isEmpty then q.1 else makeRoom n (q.2.foldl (fun s v => logEvent (makeRoom n s) v.1 v.2) q.1)

/-- Raises an event: the losses, the record, and the notification of each endpoint (R457-R460). -/
def raise (s : State) (code : Nat) (payload : List Nat) : State :=
  let had (e : Nat) : Bool := !(dueRecs s (getEp s e)).isEmpty
  let h0 := had 0; let h1 := had 1; let h2 := had 2; let h3 := had 3
  notifyEp (notifyEp (notifyEp (notifyEp (logEvent (makeRoom 10 s) code payload) 0 h0) 1 h1) 2 h2) 3 h3

/-- The pin ALERT_N is held low (R460): the sideband has due records that it has not acknowledged. -/
def alertLow (s : State) : Bool := (getEp s 2).up && !(dueRecs s (getEp s 2)).isEmpty

/-- Raises an event once, until its mark is cleared (R461). -/
def raiseOnce (s : State) (code k : Nat) (payload : List Nat) : State :=
  if s.once.contains (code, k) then s
  else raise { s with once := (code, k) :: s.once } code payload

/-- Once marks as a new start of the job leaves them: those of events that a step raises once go (R554). -/
def stepsAnew (s : State) : List (Nat × Nat) := s.once.filter (fun p => p.1 ≠ 0x0B13 && p.1 ≠ 0x0C1A)

/-- Resets a raise-once mark. -/
def clearOnce (s : State) (code k : Nat) : State := { s with once := s.once.filter (fun p => p ≠ (code, k)) }

/-- Counts an error tally and raises its saturation event once (R8). -/
def bumpErr (s : State) (idx sub n ev : Nat) : State :=
  if n = 0 then s
  else
    let v := oget s idx sub
    let v' := errAdd v n
    let s1 := oset s idx sub v'
    if v' == 0xFFFFFFFF && v != 0xFFFFFFFF then raise s1 ev [] else s1

/-- Bytes of a payload value of a given width, little-endian. -/
def pb (v n : Nat) : List Nat := (natLe v n).map BitVec.toNat

end Sys2Proof.Machine
end

