-- ==== Sys2Proof/Machine/Barometer.lean ====
section
/-! DEFINITION. The Barometer (R376): readings over sliding windows, and falling glass; the Locksmith's refusal log (R434). -/
namespace Sys2Proof.Machine

/-- Window of a reading in nanoseconds (Table 12-8). -/
def baroWindow (i : Nat) : Nat :=
  if i == 2 || i == 4 || i == 5 || i == 6 then 86400000000000 else 3600000000000

/-- A reading: what was counted within its window. -/
def baroRead (s : State) (i : Nat) : Nat :=
  ((tget [] s.baro.counts i).filter (fun p => s.now < p.1 + baroWindow i)).foldl (fun a p => a + p.2) 0

/-- Every reading stands below half its threshold. -/
def baroCalm (s : State) : Bool := (List.range 8).all (fun j => 2 * baroRead s (j + 1) < oget s 0x7020 (j + 1))

/-- FALLING_GLASS may be raised: not yet raised, or every reading has been below half since and the hold-off is over. -/
def baroFree (s : State) : Bool :=
  match s.baro.fired with
  | none => true
  | some t => s.now ≥ t + oget s 0x7020 9 * 60000000000 && !s.once.contains (0x0F20, 0)

/-- A checkpoint front runs, or one is already due (R372, R376). -/
def ckptBusy (s : State) : Bool := s.fronts.any (fun f => f.kind == 2) || s.rcv.ckptDue.isSome

/-- The test of a reading after it rose. -/
def baroTest (s : State) (i : Nat) : State :=
  if baroRead s i < oget s 0x7020 i || !baroFree s then s
  else
    let s1 := raise { s with baro := { s.baro with fired := some s.now }, once := (0x0F20, 0) :: s.once } 0x0F20 [i]
    if oget s1 0x5801 5 != 0xFFFF && !ckptBusy s1 then
      { s1 with rcv := { s1.rcv with ckptDue := some (oget s1 0x5801 5) } }
    else s1

/-- Counts n toward a reading. Readings fall only as time passes, so just before one rises is where all may stand below half. -/
def baroAdd (s0 : State) (i n : Nat) : State :=
  if n = 0 then s0
  else
    let s := if baroCalm s0 then clearOnce s0 0x0F20 0 else s0
    let old := (tget [] s.baro.counts i).filter (fun p => s.now < p.1 + baroWindow i)
    baroTest { s with baro := { s.baro with counts := tset s.baro.counts i (old ++ [(s.now, n)]) } } i

/-- A refusal's 16-byte record in the log, and its count (R434): the kind by the rows of Table 14-12, the reason, and the
object index or the port. -/
def logRefusal (s : State) (kind reason at_ : Nat) : State :=
  let s1 := stamp s
  let r := natLe s1.now 8 ++ natLe kind 1 ++ natLe reason 1 ++ natLe at_ 2 ++ List.replicate 4 0#8
  let l := s1.lock.log ++ [r]
  bumpErr { s1 with lock := { s1.lock with log := l.drop (l.length - 64) } } 0x6020 2 1 0x081B

end Sys2Proof.Machine
end

