-- ==== Sys2Proof/Machine/Num.lean ====
section
/-! DEFINITION. Exact arithmetic on the values that number codes stand for: rationals n/d times a power
of two, with the signed zeros, infinities and the one NaN of R36. Nothing here rounds but the square
root and the two transcendental functions, which keep a sticky bit (R181). -/
namespace Sys2Proof.Machine

/-- An exact rational n/d times 2^e; d is positive. -/
structure Q where
  n : Int
  d : Nat
  e : Int
  deriving DecidableEq, Repr

/-- A value as the device computes with it: NaN (R36), a signed infinity, or a finite value
(-1)^neg * n/d * 2^e whose sign is kept when it is zero (R37). -/
inductive XVal
  | nan
  | inf (neg : Bool)
  | fin (neg : Bool) (n d : Nat) (e : Int)
  deriving DecidableEq, Repr

/-- 2^k for a nonnegative Int, 1 below. -/
def pow2 (k : Int) : Nat := 2 ^ k.toNat

/-- Numerator and denominator of n/d * 2^e as naturals. -/
def natRatio (n d : Nat) (e : Int) : Nat × Nat := (n * pow2 e, d * pow2 (-e))

/-- floor(log2(n/d * 2^e)) for n, d > 0. -/
def floorLog2 (n d : Nat) (e : Int) : Int :=
  let l : Int := (Nat.log2 n : Int) - (Nat.log2 d : Int)
  let l' := if n * pow2 (-l) ≥ d * pow2 l then l else l - 1
  l' + e

def qNeg (a : Q) : Q := ⟨-a.n, a.d, a.e⟩

def qAdd (a b : Q) : Q :=
  let e := min a.e b.e
  ⟨a.n * (pow2 (a.e - e) : Int) * (b.d : Int) + b.n * (pow2 (b.e - e) : Int) * (a.d : Int), a.d * b.d, e⟩

def qSub (a b : Q) : Q := qAdd a (qNeg b)

def qMul (a b : Q) : Q := ⟨a.n * b.n, a.d * b.d, a.e + b.e⟩

/-- The sign of a - b decides every comparison. -/
def qLt (a b : Q) : Bool := (qSub a b).n < 0

def qLe (a b : Q) : Bool := (qSub a b).n ≤ 0

def qEq (a b : Q) : Bool := (qSub a b).n == 0

def qInt (i : Int) : Q := ⟨i, 1, 0⟩

/-- The finite value of a signed magnitude. -/
def qOf (neg : Bool) (n d : Nat) (e : Int) : Q := ⟨if neg then -(n : Int) else (n : Int), d, e⟩

/-- A rational as a value; `zneg` is the sign of a zero. -/
def xOfQ (zneg : Bool) (q : Q) : XVal :=
  .fin (if q.n == 0 then zneg else decide (q.n < 0)) q.n.natAbs q.d q.e

def xInt (i : Int) : XVal := xOfQ false (qInt i)

def xPosZero : XVal := .fin false 0 1 0

def xNegZero : XVal := .fin true 0 1 0

def xOne : XVal := .fin false 1 1 0

def xIsNan : XVal → Bool
  | .nan => true
  | _ => false

def xIsInf : XVal → Bool
  | .inf _ => true
  | _ => false

def xFinite : XVal → Bool
  | .fin .. => true
  | _ => false

def xIsZero : XVal → Bool
  | .fin _ n _ _ => n == 0
  | _ => false

def xSign : XVal → Bool
  | .nan => false
  | .inf s => s
  | .fin s _ _ _ => s

/-- The rational of a finite value; 0 for the others. -/
def xQ : XVal → Q
  | .fin s n d e => qOf s n d e
  | _ => qInt 0

def xNeg : XVal → XVal
  | .nan => .nan
  | .inf s => .inf (!s)
  | .fin s n d e => .fin (!s) n d e

def xAbs : XVal → XVal
  | .nan => .nan
  | .inf _ => .inf false
  | .fin _ n d e => .fin false n d e

/-- IEEE 754 addition in exact arithmetic: a zero sum is -0 only when both addends are -0 (R80, R97). -/
def xAdd : XVal → XVal → XVal
  | .nan, _ => .nan
  | _, .nan => .nan
  | .inf s, .inf t => if s == t then .inf s else .nan
  | .inf s, .fin .. => .inf s
  | .fin .., .inf t => .inf t
  | .fin s n d e, .fin t m f g =>
    if n == 0 && m == 0 then .fin (s && t) 0 1 0
    else xOfQ false (qAdd (qOf s n d e) (qOf t m f g))

def xSub (x y : XVal) : XVal := xAdd x (xNeg y)

/-- IEEE 754 multiplication in exact arithmetic (R96: 0 times infinity is NaN). -/
def xMul : XVal → XVal → XVal
  | .nan, _ => .nan
  | _, .nan => .nan
  | .inf s, .inf t => .inf (s != t)
  | .inf s, .fin t m _ _ => if m == 0 then .nan else .inf (s != t)
  | .fin s n _ _, .inf t => if n == 0 then .nan else .inf (s != t)
  | .fin s n d e, .fin t m f g => .fin (s != t) (n * m) (d * f) (e + g)

/-- IEEE 754 division in exact arithmetic, as R555 states for quotients. -/
def xDiv : XVal → XVal → XVal
  | .nan, _ => .nan
  | _, .nan => .nan
  | .inf _, .inf _ => .nan
  | .inf s, .fin t _ _ _ => .inf (s != t)
  | .fin s _ _ _, .inf t => .fin (s != t) 0 1 0
  | .fin s n d e, .fin t m f g =>
    if m == 0 then (if n == 0 then .nan else .inf (s != t))
    else .fin (s != t) (n * f) (d * m) (e - g)

/-- a < b for values that are not NaN, the two zeros equal. -/
def xLt : XVal → XVal → Bool
  | .nan, _ => false
  | _, .nan => false
  | .inf s, .inf t => s && !t
  | .inf s, .fin .. => s
  | .fin .., .inf t => !t
  | .fin s n d e, .fin t m f g => qLt (qOf s n d e) (qOf t m f g)

/-- Order with -0 below +0 (MIN, MAX, FMIN32, FMAX32). -/
def xLtZ (a b : XVal) : Bool :=
  xLt a b || (xIsZero a && xIsZero b && xSign a && !xSign b)

def xMin (a b : XVal) : XVal :=
  if xIsNan a || xIsNan b then .nan else if xLtZ b a then b else a

def xMax (a b : XVal) : XVal :=
  if xIsNan a || xIsNan b then .nan else if xLtZ a b then b else a

/-- The exact sum of a list of values under the loom's zero rule: -0 if every term is -0, else +0 (R80). -/
def xSum (l : List XVal) : XVal :=
  match l with
  | [] => xPosZero
  | x :: xs => xs.foldl xAdd x

/-- Largest integer at or below n/d * 2^e. -/
def qFloor (q : Q) : Int :=
  let (a, b) := natRatio 1 q.d q.e
  (q.n * (a : Int)).fdiv (b : Int)

/-- Integer square root by binary digits: the largest r with r*r at most n, searched below 2^k. -/
def isqrtBits (n : Nat) : Nat → Nat → Nat
  | 0, r => r
  | k + 1, r => if (r + 2 ^ k) * (r + 2 ^ k) ≤ n then isqrtBits n k (r + 2 ^ k) else isqrtBits n k r

def isqrt (n : Nat) : Nat := isqrtBits n (Nat.log2 n / 2 + 1) 0

/-- A nonnegative value known to lie strictly between s and s+1 units of 2^-k, or to equal s: the sticky
form keeps every later rounding to at most k-2 bits correct. -/
def sticky (s : Nat) (exact : Bool) (k : Int) : XVal :=
  .fin false (2 * s + (if exact then 0 else 1)) 1 (-k - 1)

/-- The square root of a positive rational, with 96 or more significant bits and a sticky bit. -/
def sqrtPos (n d : Nat) (e : Int) : XVal :=
  let l := floorLog2 n d e
  let k := 96 - l.fdiv 2
  let (a, b) := natRatio n d (e + 2 * k)
  let s := isqrt (a / b)
  sticky s (s * s == a / b && a % b == 0) k

/-- Fixed-point bits of the transcendental functions. -/
def fxBits : Nat := 512

/-- 2^f in fixed point for a fraction whose next bits are those of `f` below bit `k`; `root` is 2^(2^-j). -/
def exp2Loop (f : Nat) : Nat → Nat → Nat → Nat
  | 0, _, acc => acc
  | k + 1, root, acc =>
    let root' := isqrt (root * 2 ^ fxBits)
    exp2Loop f k root' (if f / 2 ^ k % 2 == 1 then acc * root' / 2 ^ fxBits else acc)

/-- 2^x for a finite x, with 256 fraction bits of x kept (R181: correctly rounded by what follows). -/
def exp2Fin (q : Q) : XVal :=
  let i := qFloor q
  let fr := qSub q (qInt i)
  if fr.n == 0 then .fin false 1 1 i
  else
    let f := (qFloor ⟨fr.n, fr.d, fr.e + 256⟩).toNat
    let m := exp2Loop f 256 (2 * 2 ^ fxBits) (2 ^ fxBits)
    .fin false (2 * m + 1) 1 (i - (fxBits : Int) - 1)

/-- Binary digits of log2(m), m in [1,2) with fxBits fraction bits, by repeated squaring. -/
def log2Loop : Nat → Nat → Nat → Nat
  | 0, _, acc => acc
  | k + 1, m, acc =>
    let m2 := m * m / 2 ^ fxBits
    if m2 ≥ 2 * 2 ^ fxBits then log2Loop k (m2 / 2) (2 * acc + 1) else log2Loop k m2 (2 * acc)

/-- log2 of a positive rational: the exponent, and 192 fraction bits with a sticky bit. -/
def log2Pos (n d : Nat) (e : Int) : XVal :=
  let l := floorLog2 n d e
  let (a, b) := natRatio n d (e - l)
  if a == b then xInt l
  else
    let f := log2Loop 192 (a * 2 ^ fxBits / b) 0
    xOfQ false (qAdd (qInt l) ⟨(2 * f + 1 : Nat), 1, -193⟩)

end Sys2Proof.Machine
end

