-- ==== Sys2Proof/Machine/Formats.lean ====
section
/-! DEFINITION. Number formats, rounding and conversion (02): codes to values, values to codes with every
flag and tally event of R67 and R68, W48, MX blocks, codebooks, packing and the keyed generator. -/
namespace Sys2Proof.Machine

/-- Rounding modes of Table 2-3; `tz` is truncation, used only inside R49. -/
inductive Rm | rne | rto | sr | tz
  deriving DecidableEq, Repr

/-- RM field to mode; 0b11 is reserved (R54). -/
def rmOf (b : BitVec 2) : Option Rm :=
  match b.toNat with
  | 0 => some .rne
  | 1 => some .rto
  | 2 => some .sr
  | _ => none

/-- A floating-point layout of Table 2-2 with its range limits of Table 2-5. The overflow threshold is
thrN * 2^thrE. -/
structure FFmt where
  eb    : Nat
  mb    : Nat
  bias  : Nat
  top   : Nat
  thrN  : Nat
  thrE  : Int
  infC  : Option Nat
  nanC  : Option Nat
  satOk : Bool
  deriving DecidableEq, Repr

def fp32 : FFmt := ⟨8, 23, 127, 0x7F7FFFFF, 2 ^ 25 - 1, 103, some 0x7F800000, some 0x7FC00000, false⟩
def bf16 : FFmt := ⟨8, 7, 127, 0x7F7F, 2 ^ 9 - 1, 119, some 0x7F80, some 0x7FC0, false⟩
def fp16 : FFmt := ⟨5, 10, 15, 0x7BFF, 4095, 4, some 0x7C00, some 0x7E00, false⟩
def e5m2 : FFmt := ⟨5, 2, 15, 0x7B, 15, 12, some 0x7C, some 0x7E, false⟩
def e4m3 : FFmt := ⟨4, 3, 7, 0x7E, 29, 4, none, some 0x7F, true⟩
def e3m2 : FFmt := ⟨3, 2, 3, 0x1F, 15, 1, none, none, true⟩
def e2m3 : FFmt := ⟨2, 3, 1, 0x1F, 31, -2, none, none, true⟩
def e2m1 : FFmt := ⟨2, 1, 1, 0x7, 7, 0, none, none, true⟩

/-- The formats of Table 2-1 by the kind of element they hold. -/
inductive FmtKind
  | flt (f : FFmt)
  | int (bits : Nat)
  | cb (bits : Nat)
  | w48
  | e8m0
  deriving DecidableEq, Repr

/-- Table 2-1: the format of a code; none for a reserved code (R33). -/
def fmtKind (code : Nat) : Option FmtKind :=
  match code with
  | 0x00 => some (.flt fp32)
  | 0x01 => some (.flt bf16)
  | 0x02 => some (.flt fp16)
  | 0x03 => some (.flt e4m3)
  | 0x04 => some (.flt e5m2)
  | 0x05 => some (.flt e3m2)
  | 0x06 => some (.flt e2m3)
  | 0x07 => some (.flt e2m1)
  | 0x08 => some (.int 8)
  | 0x09 => some (.int 4)
  | 0x0A => some (.cb 8)
  | 0x0B => some (.cb 4)
  | 0x0C => some .w48
  | 0x0D => some .e8m0
  | _ => none

/-- Bits per element, Table 2-1 (0 for a reserved code). -/
def fmtBits (code : Nat) : Nat :=
  match code with
  | 0x00 => 32
  | 0x01 | 0x02 => 16
  | 0x03 | 0x04 | 0x08 | 0x0A | 0x0D => 8
  | 0x05 | 0x06 => 6
  | 0x07 | 0x09 | 0x0B => 4
  | 0x0C => 48
  | _ => 0

/-- Formats that may carry E8M0 block scales (R73). -/
def fmtMxOk (code : Nat) : Bool := code == 3 || code == 4 || code == 5 || code == 6 || code == 7

/-- Formats that always carry them (Table 2-1). -/
def fmtMxAlways (code : Nat) : Bool := code == 5 || code == 6 || code == 7

def fmtIsInt (code : Nat) : Bool := code == 8 || code == 9

def fmtIsCb (code : Nat) : Bool := code == 10 || code == 11

/-- R34: the value of a floating-point code. -/
def decFlt (f : FFmt) (code : Nat) : XVal :=
  let s := code / 2 ^ (f.eb + f.mb) % 2 == 1
  let mag := code % 2 ^ (f.eb + f.mb)
  let e := mag / 2 ^ f.mb
  let m := mag % 2 ^ f.mb
  let special := e == 2 ^ f.eb - 1
  if special && f.infC.isSome then (if m == 0 then .inf s else .nan)
  else if f.nanC == some mag then .nan
  else if e == 0 then .fin s m 1 (1 - (f.bias : Int) - (f.mb : Int))
  else .fin s (2 ^ f.mb + m) 1 ((e : Int) - (f.bias : Int) - (f.mb : Int))

/-- FP32 code to value. -/
def dec32 (w : Word) : XVal := decFlt fp32 w.toNat

/-- Round the positive quotient a/b to an integer under a mode; r are the 16 random bits of R59. -/
def roundInt (rm : Rm) (r a b : Nat) : Nat :=
  let q := a / b
  let rem := a % b
  match rm with
  | .tz => q
  | .rne => if 2 * rem > b || (2 * rem == b && q % 2 == 1) then q + 1 else q
  | .rto => if rem == 0 then q else if q % 2 == 1 then q else q + 1
  | .sr => if r < rem * 65536 / b then q + 1 else q

/-- The magnitude code of a positive value below the overflow threshold, rounded onto the grid (R55, R56, R59). -/
def roundMag (f : FFmt) (rm : Rm) (r n d : Nat) (e : Int) : Nat :=
  if n == 0 then 0
  else
    let emin : Int := 1 - (f.bias : Int)
    let l := floorLog2 n d e
    let ex := max l emin
    let g := ex - (f.mb : Int)
    let (a, b) := if l < emin - (f.mb : Int) - 40 then (1, 2 ^ 40) else natRatio n d (e - g)
    let q := roundInt rm r a b
    ((ex + (f.bias : Int)).toNat) * 2 ^ f.mb + q - 2 ^ f.mb

/-- Sign bit placed above a magnitude code. -/
def withSign (f : FFmt) (s : Bool) (mag : Nat) : Nat := if s then mag + 2 ^ (f.eb + f.mb) else mag

/-- n/d * 2^e at or above the format's overflow threshold (step 3 of R61). -/
def overThr (f : FFmt) (n d : Nat) (e : Int) : Bool :=
  let l := floorLog2 n d e
  n != 0 && (l > f.thrE + 40 || (l > f.thrE && qLe (qOf false f.thrN 1 f.thrE) (qOf false n d e)))

/-- The outcome of one conversion: its code, and the events of R67 and Table 2-6. -/
structure Conv where
  code  : Nat
  satC  : Bool := false
  intC  : Bool := false
  cbC   : Bool := false
  ovf   : Bool := false
  inv   : Bool := false
  blkNan : Bool := false
  resNf : Bool := false
  deriving DecidableEq, Repr

/-- R61-R63: conversion to a floating-point target. -/
def toFlt (f : FFmt) (sat : Bool) (rm : Rm) (r : Nat) (x : XVal) : Conv :=
  let satd := sat && f.satOk
  match x with
  | .nan =>
    match f.nanC with
    | some c => { code := c, resNf := true }
    | none => { code := 0, inv := true, blkNan := true, resNf := true }
  | .inf s =>
    if satd then { code := withSign f s f.top, satC := true, inv := true }
    else match f.infC, f.nanC with
      | some c, _ => { code := withSign f s c, resNf := true }
      | none, some c => { code := c, inv := true, resNf := true }
      | none, none => { code := 0, inv := true, blkNan := true, resNf := true }
  | .fin s n d e =>
    if overThr f n d e then
      if satd then { code := withSign f s f.top, satC := true }
      else match f.infC, f.nanC with
        | some c, _ => { code := withSign f s c, ovf := true, resNf := true }
        | none, some c => { code := c, ovf := true, resNf := true }
        | none, none => { code := 0, ovf := true, blkNan := true, resNf := true }
    else if n != 0 && floorLog2 n d e > f.thrE && qLt (xQ (decFlt f f.top)) (qOf false n d e) then
      { code := withSign f s f.top }
    else { code := withSign f s (roundMag f rm r n d e) }

/-- One rounding to FP32 under round to nearest even (R79 and everywhere else FP32 is formed). -/
def enc32 (x : XVal) : Word := BitVec.ofNat 32 (toFlt fp32 false .rne 0 x).code

/-- The FP32 rounding of a finite value overflows (R97). -/
def over32 (x : XVal) : Bool := (toFlt fp32 false .rne 0 x).ovf

/-- One rounding to BF16 under RNE, as an exact value again. -/
def rndBf16 (x : XVal) : XVal := decFlt bf16 (toFlt bf16 false .rne 0 x).code

/-- R42: conversion to an integer format of `bits` bits with zero point z. -/
def toIntFmt (bits : Nat) (z : Int) (rm : Rm) (r : Nat) (x : XVal) : Conv :=
  let lo : Int := -(2 ^ (bits - 1) : Nat)
  let hi : Int := (2 ^ (bits - 1) : Nat) - 1
  let code (i : Int) : Nat := (i % (2 ^ bits : Nat)).toNat
  match x with
  | .nan => { code := code z, inv := true }
  | .inf s => { code := code (if s then lo else hi), inv := true }
  | .fin s n d e =>
    let big := floorLog2 n d e > 64
    let (a, b) := if n == 0 then (0, 1) else if big then (2 ^ 64, 1) else
      if floorLog2 n d e < -64 then (1, 2 ^ 64) else natRatio n d e
    let q := roundInt rm r a b
    let v := (if s then -(q : Int) else (q : Int)) + z
    if v < lo then { code := code lo, intC := true }
    else if v > hi then { code := code hi, intC := true }
    else { code := code v }

/-- Two's complement reading of a code of `bits` bits. -/
def sInt (bits code : Nat) : Int :=
  if code % 2 ^ bits ≥ 2 ^ (bits - 1) then (code % 2 ^ bits : Nat) - (2 ^ bits : Nat) else (code % 2 ^ bits : Nat)

/-- Index search of R47 over the table from entry `i` on: `lo` is entry i, below q. -/
def cbWalk (rm : Rm) (r : Nat) (q : XVal) : Nat → XVal → List XVal → Nat
  | i, _, [] => i
  | i, lo, hi :: rest =>
    if xLt q hi then
      match rm with
      | .sr =>
        if !(xLt lo q) then i
        else
          let num := qSub (xQ q) (xQ lo)
          let den := qSub (xQ hi) (xQ lo)
          let fr := (qFloor (xQ (xDiv (xOfQ false ⟨num.n, num.d, num.e + 16⟩) (xOfQ false den)))).toNat
          if r < fr then i + 1 else i
      | _ =>
        let mid2 := qAdd (xQ lo) (xQ hi)
        let q2 := qAdd (xQ q) (xQ q)
        if qLt q2 mid2 then i
        else if qEq q2 mid2 then (if i % 2 == 0 then i else i + 1)
        else i + 1
    else cbWalk rm r q (i + 1) hi rest

/-- R47: encoding a quotient into a codebook; the table is nonempty. -/
def cbEncode (tbl : List XVal) (rm : Rm) (r : Nat) (q : XVal) : Conv :=
  let last := tbl.length - 1
  let inRange (v : XVal) (m : Rm) : Nat × Bool :=
    match tbl with
    | [] => (0, false)
    | t0 :: ts =>
      if xLt v t0 then (0, true)
      else if xLt (tbl.getLastD t0) v then (last, true)
      else (cbWalk m r v 0 t0 ts, false)
  match q with
  | .nan => { code := (inRange xPosZero .rne).1, inv := true }
  | .inf s => { code := if s then 0 else last, inv := true }
  | v => let (i, c) := inRange v rm; { code := i, cbC := c }

/-- R45: entries finite and strictly ascending, the two zeros equal; the index of the first entry that fails. -/
def cbBadAt : Nat → List XVal → Option Nat
  | _, [] => none
  | i, [x] => if xFinite x then none else some i
  | i, x :: y :: rest =>
    if !xFinite x then some i
    else if !xFinite y then some (i + 1)
    else if xLt x y then cbBadAt (i + 1) (y :: rest) else some (i + 1)

/-- R38: the value of an E8M0 scale; 0xFF is NaN. -/
def decE8 (c : Nat) : XVal := if c == 0xFF then .nan else .fin false 1 1 ((c : Int) - 127)

/-- emax of R40 for the element formats of MX blocks. -/
def mxEmax (code : Nat) : Int :=
  match code with
  | 0x04 => 15
  | 0x03 => 8
  | 0x05 => 4
  | _ => 2

/-- R40: the computed block scale, none when an element is not finite. -/
def mxScale (code : Nat) (f : FFmt) (xs : List XVal) : Option Nat :=
  if xs.any (fun x => !xFinite x) then none
  else
    let amax := xs.foldl (fun m x => if xLt m (xAbs x) then xAbs x else m) xPosZero
    match amax with
    | .fin _ n d e =>
      if n == 0 then some 0x7F
      else
        let xe := floorLog2 n d e - mxEmax code
        let xe := if qLe (qOf false f.thrN 1 f.thrE) (qOf false n d (e - xe)) then xe + 1 else xe
        some (max xe (-127) + 127).toNat
    | _ => none

/-- x / 2^k, exact. -/
def xScale2 (x : XVal) (k : Int) : XVal :=
  match x with
  | .fin s n d e => .fin s n d (e - k)
  | y => y

/-- One W48 value: head code and tail (R48, R50). -/
def dec48 (h : Word) (t : Nat) : XVal :=
  match dec32 h with
  | .fin s n d e =>
    let ef := h.toNat / 2 ^ 23 % 256
    let tail : Q := ⟨(t : Int), 1, (max ef 1 : Nat) - 150 - 16⟩
    if t == 0 then .fin s n d e else xOfQ s (qAdd (qOf s n d e) tail)
  | x => x

/-- The next FP32 code toward +infinity of a finite code. -/
def next32 (h : Nat) : Nat := if h ≥ 2 ^ 31 then h - 1 else h + 1

/-- R49: the W48 result of an exact value; the third part is the OVERFLOW event. -/
def enc48 (x : XVal) : Word × Nat × Bool :=
  match x with
  | .nan => (0x7FC00000#32, 0, false)
  | .inf s => (if s then 0xFF800000#32 else 0x7F800000#32, 0, false)
  | .fin s n d e =>
    if n == 0 then (0#32, 0, false)
    else if overThr fp32 n d e then (if s then 0xFF800000#32 else 0x7F800000#32, 0, true)
    else
      let beyond := qLt (xQ (decFlt fp32 fp32.top)) (qOf false n d e)
      if s && beyond then (0xFF7FFFFF#32, 0, false)
      else
        let mag := if beyond then fp32.top else roundMag fp32 .tz 0 n d e
        let exact := qEq (xQ (decFlt fp32 mag)) (qOf false n d e)
        let h := if s then (if exact then mag else mag + 1) + 2 ^ 31 else mag
        let diff := qSub (qOf s n d e) (xQ (decFlt fp32 h))
        let ul : Int := (max (h / 2 ^ 23 % 256) 1 : Nat) - 150
        let (a, b) := natRatio diff.n.toNat diff.d (diff.e - ul + 16)
        let t := roundInt .rne 0 a b
        if t ≥ 65536 then (BitVec.ofNat 32 (next32 h), 0, false) else (BitVec.ofNat 32 h, t, false)

/-- fold of R65. -/
def kgFold (z : BitVec 64) : BitVec 64 :=
  let z := z ^^^ (z >>> 31)
  let z := z * 0xC4B27E593A1D86F7#64
  let z := z ^^^ (z >>> 27)
  let z := z * 0x8E3BD19A6C05F2A3#64
  z ^^^ (z >>> 33)

/-- draw of R65. -/
def kgDraw (seed step : BitVec 64) (shard key : BitVec 32) (group : Nat) : BitVec 64 :=
  let k := kgFold (seed + 0x6B29D0E417A35C81#64)
  let k := kgFold (k ^^^ (step + 0xE3D54A9F08C672B5#64))
  let k := kgFold (k ^^^ (shard ++ key) ^^^ 0x1F87B36CD42E9A07#64)
  kgFold (k ^^^ (BitVec.ofNat 64 group + 0x95C26E0BF71348DD#64))

/-- random_bits of R65: the 16 bits of element e. -/
def kgBits (seed step : BitVec 64) (shard key : BitVec 32) (e : Nat) : Nat :=
  (kgDraw seed step shard key (e / 4)).toNat / 2 ^ (16 * (e % 4)) % 65536

end Sys2Proof.Machine
end

