-- ==== Sys2Proof/Machine/Operands.lean ====
section
/-! DEFINITION. Operand forms: the tile descriptor's fields (Table 7-4), where an element lies and how it
is read (R53, R74-R77), global addresses (R23), side arrays and codebook tables. -/
namespace Sys2Proof.Machine

/-- The bits [off+w-1 : off] of a descriptor as a number. -/
def dbits (d : Desc) (off w : Nat) : Nat := d.toNat / 2 ^ off % 2 ^ w

def dAddr (d : Desc) : Nat := dbits d 0 64
def dPitch (d : Desc) : Nat := dbits d 64 20
def dFmt (d : Desc) : Nat := dbits d 84 5
def dLay (d : Desc) : Nat := dbits d 89 1
def dMx (d : Desc) : Bool := dbits d 90 1 == 1
def dLs (d : Desc) : Nat := dbits d 91 2
def dWhole (d : Desc) : Bool := dbits d 93 1 == 1
def dStaged (d : Desc) : Bool := dbits d 94 1 == 1
def dCopy (d : Desc) : Nat := dbits d 95 1
def dMb (d : Desc) : Nat := dbits d 96 6
def dEntry (d : Desc) : Nat := dbits d 102 6
def dVop (d : Desc) : Nat := dbits d 108 2
def dLag (d : Desc) : Nat := dbits d 110 2
def dMap (d : Desc) : Nat := dbits d 112 2
def dZparr (d : Desc) : Bool := dbits d 114 1 == 1
def dRes1 (d : Desc) : Nat := dbits d 115 5
def dZpv (d : Desc) : Int := sInt 8 (dbits d 120 8)
def dMxs (d : Desc) : Nat := dbits d 128 24
def dSpitch (d : Desc) : Nat := dbits d 152 16
def dLsa (d : Desc) : Nat := dbits d 168 24
def dMeta (d : Desc) : Nat := dbits d 192 24
def dMpitch (d : Desc) : Nat := dbits d 216 16
def dCbt (d : Desc) : Nat := dbits d 232 24
def dMapa (d : Desc) : Nat := dbits d 256 24
def dZpa (d : Desc) : Nat := dbits d 280 24
def dRes4 (d : Desc) : Nat := dbits d 304 16
def dZsum (d : Desc) : Nat := dbits d 320 24
def dZspitch (d : Desc) : Nat := dbits d 344 16
def dRes5 (d : Desc) : Nat := dbits d 360 24
def dTaddr (d : Desc) : Nat := dbits d 384 64
def dRes7 (d : Desc) : Nat := dbits d 448 64

/-- A descriptor with another ADDR; everything else stands. -/
def dSetAddr (d : Desc) (a : Nat) : Desc := BitVec.ofNat 512 (d.toNat - dAddr d + a % 2 ^ 64)

/-- The checks HPUSH makes (R202): reserved fields, FMT, VOP, LAG, MAP and TADDR. DESIGN CHOICE: an ADDR off a 32-byte boundary
and an odd TADDR (R52, R202) have no consequence in the spec; they pass, and the address is used as it stands (assumption log
103). -/
def descBad (d : Desc) : Bool :=
  dRes1 d != 0 || dRes4 d != 0 || dRes5 d != 0 || dRes7 d != 0 || (fmtKind (dFmt d)).isNone || dVop d == 3 ||
    (dVop d == 1 && (dLag d == 0 || dLag d == 3)) || dMap d == 3 || (dTaddr d != 0 && dFmt d != 0x0C)

/-- The device ID of a global address (R23). -/
def gDev (a : Nat) : Nat := a / 2 ^ 48 % 2 ^ 16

def gLocal (a : Nat) : Nat := a % 2 ^ 48

/-- The device's own ID: the plan's, 0 without one (R24). -/
def ownId (s : State) : Nat :=
  match s.plan with
  | some p => p.dev
  | none => 0

/-- Its partition; 0 without a plan. -/
def ownPart (s : State) : Nat :=
  match s.plan with
  | some p => p.part
  | none => 0

/-- The shard of the keyed generator (R64). -/
def ownShard (s : State) : BitVec 32 :=
  match s.plan with
  | some p => BitVec.ofNat 32 p.shard
  | none => 0#32

def isLocalAddr (s : State) (a : Nat) : Bool := gDev a == ownId s

/-- Bytes that n packed elements from index 0 take (R53). -/
def packedBytes (bits n : Nat) : Nat := (n * bits + 7) / 8

/-- The code of element i of an array at a base (R53): 8 bits and wider at i * bits / 8, 4-bit and 6-bit packed. -/
def elemCode (s : State) (base bits i : Nat) : Nat :=
  let bit := i * bits
  memLe s (base + bit / 8) ((bit % 8 + bits + 7) / 8) / 2 ^ (bit % 8) % 2 ^ bits

/-- Writes the code of element i of a packed array (R53): a read-modify-write of its bytes. -/
def elemSet (s : State) (base bits i code : Nat) : State :=
  let bit := i * bits
  let n := (bit % 8 + bits + 7) / 8
  let old := memLe s (base + bit / 8) n
  let keepLow := old % 2 ^ (bit % 8)
  let keepHigh := old / 2 ^ (bit % 8 + bits)
  memWriteRaw s (base + bit / 8)
    (natLe (keepLow + (code % 2 ^ bits) * 2 ^ (bit % 8) + keepHigh * 2 ^ (bit % 8 + bits)) n)

/-- FP32 at a bench offset of a cell. -/
def benchF32 (s : State) (c off : Nat) : XVal := dec32 (BitVec.ofNat 32 (memLe s (benchAddr c off) 4))

/-- The entries of a codebook table of a format (CB8: 256, CB4: 16) at a bench offset, as values (R44). -/
def cbTable (s : State) (c off n : Nat) : List XVal :=
  (List.range n).map (fun i => decFlt bf16 (memLe s (benchAddr c (off + 2 * i)) 2))

/-- Entries of a codebook table by format code. -/
def cbLen (fmt : Nat) : Nat := if fmt == 0x0B then 16 else 256

/-- The value of an element code of a format, before any scale: an integer's q - z is left to its user. -/
def codeVal (fmt code : Nat) : XVal :=
  match fmtKind fmt with
  | some (.flt f) => decFlt f code
  | some (.int b) => xInt (sInt b code)
  | some (.cb _) => xInt (code : Int)
  | some .e8m0 => decE8 code
  | _ => .nan

end Sys2Proof.Machine
end

