-- ==== Sys2Proof/Machine/CmdWord.lean ====
section
/-! DEFINITION. The 128-bit command word (R193, R195, R205, Tables 7-1, 7-5, 7-6, 10-4): its fields read in
ascending bit order, and the word of a command written in the same order. A nonzero bit that no field
covers, or an opcode Table 7-2 does not list, makes a word decode to nothing (R5). -/
namespace Sys2Proof.Machine

/-- Reads consecutive fields of the given widths, lowest bits first. -/
def unpack : List Nat → Nat → List Nat
  | [], _ => []
  | w :: ws, n => n % 2 ^ w :: unpack ws (n / 2 ^ w)

/-- Lays fields of (width, value) one above the other, lowest first. -/
def pack : List (Nat × Nat) → Nat
  | [] => 0
  | (w, v) :: fs => v + 2 ^ w * pack fs

def layStepmark : List Nat := [18, 32, 64]

/-- Reads the bits [127:14] of a STEPMARK word. -/
def decStepmark (n : Nat) : Option (BitVec 32) :=
  match unpack layStepmark n with
  | [r0, step, r1] =>
    if r0 == 0 && r1 == 0 then some (BitVec.ofNat 32 step) else none
  | _ => none

/-- The bits [127:14] of a STEPMARK word. -/
def encStepmark (f : (BitVec 32)) : Nat :=
  pack [(18, 0), (32, f.toNat), (64, 0)]

def layLoopOp : List Nat := [2, 1, 3, 3, 1, 8, 32, 64]

/-- Reads the bits [127:14] of a LOOP word. -/
def decLoopOp (n : Nat) : Option LoopOp :=
  match unpack layLoopOp n with
  | [r0, csrc, cctr, ictr, ien, body, count, r1] =>
    if r0 == 0 && r1 == 0 then some ⟨BitVec.ofNat 1 csrc, BitVec.ofNat 3 cctr, BitVec.ofNat 3 ictr, BitVec.ofNat 1 ien, BitVec.ofNat 8 body,
      BitVec.ofNat 32 count⟩ else none
  | _ => none

/-- The bits [127:14] of a LOOP word. -/
def encLoopOp (f : LoopOp) : Nat :=
  pack [(2, 0), (1, f.csrc.toNat), (3, f.cctr.toNat), (3, f.ictr.toNat), (1, f.ien.toNat), (8, f.body.toNat), (32,
    f.count.toNat), (64, 0)]

def layCntOp : List Nat := [2, 3, 3, 3, 7, 32, 48, 16]

/-- Reads the bits [127:14] of a CNT word. -/
def decCntOp (n : Nat) : Option CntOp :=
  match unpack layCntOp n with
  | [r0, dst, op, src, r1, imm, addr, r2] =>
    if r0 == 0 && r1 == 0 && r2 == 0 then some ⟨BitVec.ofNat 3 dst, BitVec.ofNat 3 op, BitVec.ofNat 3 src, BitVec.ofNat 32 imm, BitVec.ofNat 48 addr⟩ else none
  | _ => none

/-- The bits [127:14] of a CNT word. -/
def encCntOp (f : CntOp) : Nat :=
  pack [(2, 0), (3, f.dst.toNat), (3, f.op.toNat), (3, f.src.toNat), (7, 0), (32, f.imm.toNat), (48, f.addr.toNat), (16,
    0)]

def layCmpOp : List Nat := [2, 2, 1, 3, 2, 1, 3, 1, 3, 32, 8, 56]

/-- Reads the bits [127:14] of a CMP word. -/
def decCmpOp (n : Nat) : Option CmpOp :=
  match unpack layCmpOp n with
  | [r0, j, arm, ca, rel, bsrc, cb, act, r1, imm, flag, r2] =>
    if r0 == 0 && r1 == 0 && r2 == 0 then some ⟨BitVec.ofNat 2 j, BitVec.ofNat 1 arm, BitVec.ofNat 3 ca, BitVec.ofNat 2 rel, BitVec.ofNat 1 bsrc, BitVec.ofNat
      3 cb, BitVec.ofNat 1 act, BitVec.ofNat 32 imm, BitVec.ofNat 8 flag⟩ else none
  | _ => none

/-- The bits [127:14] of a CMP word. -/
def encCmpOp (f : CmpOp) : Nat :=
  pack [(2, 0), (2, f.j.toNat), (1, f.arm.toNat), (3, f.ca.toNat), (2, f.rel.toNat), (1, f.bsrc.toNat), (3, f.cb.toNat),
    (1, f.act.toNat), (3, 0), (32, f.imm.toNat), (8, f.flag.toNat), (56, 0)]

def layHpushOp : List Nat := [2, 10, 5, 3, 1, 5, 16, 72]

/-- Reads the bits [127:14] of a HPUSH word. -/
def decHpushOp (n : Nat) : Option HpushOp :=
  match unpack layHpushOp n with
  | [r0, tidx, h, ctr, cen, modlog, stride, r1] =>
    if r0 == 0 && r1 == 0 then some ⟨BitVec.ofNat 10 tidx, BitVec.ofNat 5 h, BitVec.ofNat 3 ctr, BitVec.ofNat 1 cen, BitVec.ofNat 5 modlog,
      BitVec.ofNat 16 stride⟩ else none
  | _ => none

/-- The bits [127:14] of a HPUSH word. -/
def encHpushOp (f : HpushOp) : Nat :=
  pack [(2, 0), (10, f.tidx.toNat), (5, f.h.toNat), (3, f.ctr.toNat), (1, f.cen.toNat), (5, f.modlog.toNat), (16,
    f.stride.toNat), (72, 0)]

def layFlagOp : List Nat := [2, 1, 1, 8, 3, 1, 2, 32, 64]

/-- Reads the bits [127:14] of a FLAG word. -/
def decFlagOp (n : Nat) : Option FlagOp :=
  match unpack layFlagOp n with
  | [r0, scope, op, flag, ctr, cen, r1, value, r2] =>
    if r0 == 0 && r1 == 0 && r2 == 0 then some ⟨BitVec.ofNat 1 scope, BitVec.ofNat 1 op, BitVec.ofNat 8 flag, BitVec.ofNat 3 ctr, BitVec.ofNat 1 cen,
      BitVec.ofNat 32 value⟩ else none
  | _ => none

/-- The bits [127:14] of a FLAG word. -/
def encFlagOp (f : FlagOp) : Nat :=
  pack [(2, 0), (1, f.scope.toNat), (1, f.op.toNat), (8, f.flag.toNat), (3, f.ctr.toNat), (1, f.cen.toNat), (2, 0), (32,
    f.value.toNat), (64, 0)]

def layMmaOp : List Nat := [2, 2, 1, 2, 1, 2, 1, 1, 3, 2, 1, 5, 1, 5, 1, 5, 5, 5, 5, 8, 8, 16, 32]

/-- Reads the bits [127:14] of a MMA word. -/
def decMmaOp (n : Nat) : Option MmaOp :=
  match unpack layMmaOp n with
  | [dwmask, loom, bank, init, drain, passes, emit, foreR, sparse, zpMode, prod, ha, popa, hb, popb, ho, hr, he, hm,
     mlen, nlen, klen, key] =>
    if true then some ⟨BitVec.ofNat 2 dwmask, BitVec.ofNat 2 loom, BitVec.ofNat 1 bank, BitVec.ofNat 2 init, BitVec.ofNat 1 drain,
      BitVec.ofNat 2 passes, BitVec.ofNat 1 emit, BitVec.ofNat 1 foreR, BitVec.ofNat 3 sparse, BitVec.ofNat 2 zpMode,
      BitVec.ofNat 1 prod, BitVec.ofNat 5 ha, BitVec.ofNat 1 popa, BitVec.ofNat 5 hb, BitVec.ofNat 1 popb,
      BitVec.ofNat 5 ho, BitVec.ofNat 5 hr, BitVec.ofNat 5 he, BitVec.ofNat 5 hm, BitVec.ofNat 8 mlen, BitVec.ofNat 8
      nlen, BitVec.ofNat 16 klen, BitVec.ofNat 32 key⟩ else none
  | _ => none

/-- The bits [127:14] of a MMA word. -/
def encMmaOp (f : MmaOp) : Nat :=
  pack [(2, f.dwmask.toNat), (2, f.loom.toNat), (1, f.bank.toNat), (2, f.init.toNat), (1, f.drain.toNat), (2,
    f.passes.toNat), (1, f.emit.toNat), (1, f.foreR.toNat), (3, f.sparse.toNat), (2, f.zpMode.toNat), (1,
    f.prod.toNat), (5, f.ha.toNat), (1, f.popa.toNat), (5, f.hb.toNat), (1, f.popb.toNat), (5, f.ho.toNat), (5,
    f.hr.toNat), (5, f.he.toNat), (5, f.hm.toNat), (8, f.mlen.toNat), (8, f.nlen.toNat), (16, f.klen.toNat), (32,
    f.key.toNat)]

def layUcommitOp : List Nat := [2, 1, 1, 2, 1, 6, 5, 5, 5, 5, 5, 12, 16, 16, 32]

/-- Reads the bits [127:14] of a UCOMMIT word. -/
def decUcommitOp (n : Nat) : Option UcommitOp :=
  match unpack layUcommitOp n with
  | [r0, kind, par, rm, een, entry, r1, hba, hbb, hw, hwt, r2, dims, r3, key] =>
    if r0 == 0 && r1 == 0 && r2 == 0 && r3 == 0 then some ⟨BitVec.ofNat 1 kind, BitVec.ofNat 1 par, BitVec.ofNat 2 rm, BitVec.ofNat 1 een, BitVec.ofNat 6 entry,
      BitVec.ofNat 5 hba, BitVec.ofNat 5 hbb, BitVec.ofNat 5 hw, BitVec.ofNat 5 hwt, BitVec.ofNat 16 dims,
      BitVec.ofNat 32 key⟩ else none
  | _ => none

/-- The bits [127:14] of a UCOMMIT word. -/
def encUcommitOp (f : UcommitOp) : Nat :=
  pack [(2, 0), (1, f.kind.toNat), (1, f.par.toNat), (2, f.rm.toNat), (1, f.een.toNat), (6, f.entry.toNat), (5, 0), (5,
    f.hba.toNat), (5, f.hbb.toNat), (5, f.hw.toNat), (5, f.hwt.toNat), (12, 0), (16, f.dims.toNat), (16, 0), (32,
    f.key.toNat)]

def layVerOp : List Nat := [3, 1, 3, 6, 101]

/-- Reads the bits [127:14] of a VPUB word. -/
def decVerOp (n : Nat) : Option VerOp :=
  match unpack layVerOp n with
  | [r0, par, r1, entry, r2] =>
    if r0 == 0 && r1 == 0 && r2 == 0 then some ⟨BitVec.ofNat 1 par, BitVec.ofNat 6 entry⟩ else none
  | _ => none

/-- The bits [127:14] of a VPUB word. -/
def encVerOp (f : VerOp) : Nat :=
  pack [(3, 0), (1, f.par.toNat), (3, 0), (6, f.entry.toNat), (101, 0)]

def layUdone : List Nat := [3, 1, 110]

/-- Reads the bits [127:14] of a UDONE word. -/
def decUdone (n : Nat) : Option (BitVec 1) :=
  match unpack layUdone n with
  | [r0, par, r1] =>
    if r0 == 0 && r1 == 0 then some (BitVec.ofNat 1 par) else none
  | _ => none

/-- The bits [127:14] of a UDONE word. -/
def encUdone (f : (BitVec 1)) : Nat :=
  pack [(3, 0), (1, f.toNat), (110, 0)]

def laySetlen : List Nat := [2, 8, 6, 98]

/-- Reads the bits [127:14] of a SETLEN word. -/
def decSetlen (n : Nat) : Option (BitVec 8 × BitVec 6) :=
  match unpack laySetlen n with
  | [r0, vl, rl, r1] =>
    if r0 == 0 && r1 == 0 then some (BitVec.ofNat 8 vl, BitVec.ofNat 6 rl) else none
  | _ => none

/-- The bits [127:14] of a SETLEN word. -/
def encSetlen (f : (BitVec 8 × BitVec 6)) : Nat :=
  pack [(2, 0), (8, f.1.toNat), (6, f.2.toNat), (98, 0)]

def layLdtOp : List Nat := [2, 4, 8, 1, 2, 1, 5, 91]

/-- Reads the bits [127:14] of a LDT word. -/
def decLdtOp (n : Nat) : Option LdtOp :=
  match unpack layLdtOp n with
  | [r0, dst, rowoff, cbdec, ls, pop, h, r1] =>
    if r0 == 0 && r1 == 0 then some ⟨BitVec.ofNat 4 dst, BitVec.ofNat 8 rowoff, BitVec.ofNat 1 cbdec, BitVec.ofNat 2 ls, BitVec.ofNat 1 pop,
      BitVec.ofNat 5 h⟩ else none
  | _ => none

/-- The bits [127:14] of a LDT word. -/
def encLdtOp (f : LdtOp) : Nat :=
  pack [(2, 0), (4, f.dst.toNat), (8, f.rowoff.toNat), (1, f.cbdec.toNat), (2, f.ls.toNat), (1, f.pop.toNat), (5,
    f.h.toNat), (91, 0)]

def laySttOp : List Nat := [2, 4, 8, 2, 1, 1, 5, 5, 2, 2, 1, 1, 5, 1, 42, 32]

/-- Reads the bits [127:14] of a STT word. -/
def decSttOp (n : Nat) : Option SttOp :=
  match unpack laySttOp n with
  | [r0, src, rowoff, rm, grad, pop, h, ha, mx, ls, i16, upd, hr, push, r1, key] =>
    if r0 == 0 && r1 == 0 then some ⟨BitVec.ofNat 4 src, BitVec.ofNat 8 rowoff, BitVec.ofNat 2 rm, BitVec.ofNat 1 grad, BitVec.ofNat 1 pop,
      BitVec.ofNat 5 h, BitVec.ofNat 5 ha, BitVec.ofNat 2 mx, BitVec.ofNat 2 ls, BitVec.ofNat 1 i16, BitVec.ofNat 1
      upd, BitVec.ofNat 5 hr, BitVec.ofNat 1 push, BitVec.ofNat 32 key⟩ else none
  | _ => none

/-- The bits [127:14] of a STT word. -/
def encSttOp (f : SttOp) : Nat :=
  pack [(2, 0), (4, f.src.toNat), (8, f.rowoff.toNat), (2, f.rm.toNat), (1, f.grad.toNat), (1, f.pop.toNat), (5,
    f.h.toNat), (5, f.ha.toNat), (2, f.mx.toNat), (2, f.ls.toNat), (1, f.i16.toNat), (1, f.upd.toNat), (5,
    f.hr.toNat), (1, f.push.toNat), (42, 0), (32, f.key.toNat)]

def layCardOp : List Nat := [2, 4, 1, 8, 2, 4, 6, 2, 4, 6, 2, 4, 6, 2, 4, 6, 1, 4, 1, 4, 9, 32]

/-- Reads the bits [127:14] of a CARD word. -/
def decCardOp (n : Nat) : Option CardOp :=
  match unpack layCardOp n with
  | [r0, slot, prec, rowoff, s0_mode, s0_reg, s0_y, s1_mode, s1_reg, s1_y, s2_mode, s2_reg, s2_y, s3_mode, s3_reg,
     s3_y, d0_bound, d0_reg, d1_bound, d1_reg, r1, key] =>
    if r0 == 0 && r1 == 0 then some ⟨BitVec.ofNat 4 slot, BitVec.ofNat 1 prec, BitVec.ofNat 8 rowoff, ⟨BitVec.ofNat 2 s0_mode, BitVec.ofNat 4
      s0_reg, BitVec.ofNat 6 s0_y⟩, ⟨BitVec.ofNat 2 s1_mode, BitVec.ofNat 4 s1_reg, BitVec.ofNat 6 s1_y⟩,
      ⟨BitVec.ofNat 2 s2_mode, BitVec.ofNat 4 s2_reg, BitVec.ofNat 6 s2_y⟩, ⟨BitVec.ofNat 2 s3_mode, BitVec.ofNat 4
      s3_reg, BitVec.ofNat 6 s3_y⟩, ⟨BitVec.ofNat 1 d0_bound, BitVec.ofNat 4 d0_reg⟩, ⟨BitVec.ofNat 1 d1_bound,
      BitVec.ofNat 4 d1_reg⟩, BitVec.ofNat 32 key⟩ else none
  | _ => none

/-- The bits [127:14] of a CARD word. -/
def encCardOp (f : CardOp) : Nat :=
  pack [(2, 0), (4, f.slot.toNat), (1, f.prec.toNat), (8, f.rowoff.toNat), (2, f.s0.mode.toNat), (4, f.s0.reg.toNat),
    (6, f.s0.y.toNat), (2, f.s1.mode.toNat), (4, f.s1.reg.toNat), (6, f.s1.y.toNat), (2, f.s2.mode.toNat), (4,
    f.s2.reg.toNat), (6, f.s2.y.toNat), (2, f.s3.mode.toNat), (4, f.s3.reg.toNat), (6, f.s3.y.toNat), (1,
    f.d0.bound.toNat), (4, f.d0.reg.toNat), (1, f.d1.bound.toNat), (4, f.d1.reg.toNat), (9, 0), (32, f.key.toNat)]

def layRedOp : List Nat := [2, 4, 4, 3, 1, 1, 1, 2, 4, 6, 8, 8, 24, 14, 32]

/-- Reads the bits [127:14] of a RED word. -/
def decRedOp (n : Nat) : Option RedOp :=
  match unpack layRedOp n with
  | [r0, src, src2, op, axis, seg, acc, r1, dst, drow, dcol, rowoff, idxb, r2, key] =>
    if r0 == 0 && r1 == 0 && r2 == 0 then some ⟨BitVec.ofNat 4 src, BitVec.ofNat 4 src2, BitVec.ofNat 3 op, BitVec.ofNat 1 axis, BitVec.ofNat 1 seg,
      BitVec.ofNat 1 acc, BitVec.ofNat 4 dst, BitVec.ofNat 6 drow, BitVec.ofNat 8 dcol, BitVec.ofNat 8 rowoff,
      BitVec.ofNat 24 idxb, BitVec.ofNat 32 key⟩ else none
  | _ => none

/-- The bits [127:14] of a RED word. -/
def encRedOp (f : RedOp) : Nat :=
  pack [(2, 0), (4, f.src.toNat), (4, f.src2.toNat), (3, f.op.toNat), (1, f.axis.toNat), (1, f.seg.toNat), (1,
    f.acc.toNat), (2, 0), (4, f.dst.toNat), (6, f.drow.toNat), (8, f.dcol.toNat), (8, f.rowoff.toNat), (24,
    f.idxb.toNat), (14, 0), (32, f.key.toNat)]

def layZmapOp : List Nat := [2, 4, 1, 1, 8, 8, 90]

/-- Reads the bits [127:14] of a ZMAP word. -/
def decZmapOp (n : Nat) : Option ZmapOp :=
  match unpack layZmapOp n with
  | [r0, src, axis, andb, panel, rowoff, r1] =>
    if r0 == 0 && r1 == 0 then some ⟨BitVec.ofNat 4 src, BitVec.ofNat 1 axis, BitVec.ofNat 1 andb, BitVec.ofNat 8 panel, BitVec.ofNat 8 rowoff⟩ else none
  | _ => none

/-- The bits [127:14] of a ZMAP word. -/
def encZmapOp (f : ZmapOp) : Nat :=
  pack [(2, 0), (4, f.src.toNat), (1, f.axis.toNat), (1, f.andb.toNat), (8, f.panel.toNat), (8, f.rowoff.toNat), (90, 0)]

def layTblOp : List Nat := [2, 2, 1, 4, 5, 5, 5, 1, 89]

/-- Reads the bits [127:14] of a TBL word. -/
def decTblOp (n : Nat) : Option TblOp :=
  match unpack layTblOp n with
  | [r0, kind, dir, index, len, fmt, h, pop, r1] =>
    if r0 == 0 && r1 == 0 then some ⟨BitVec.ofNat 2 kind, BitVec.ofNat 1 dir, BitVec.ofNat 4 index, BitVec.ofNat 5 len, BitVec.ofNat 5 fmt,
      BitVec.ofNat 5 h, BitVec.ofNat 1 pop⟩ else none
  | _ => none

/-- The bits [127:14] of a TBL word. -/
def encTblOp (f : TblOp) : Nat :=
  pack [(2, 0), (2, f.kind.toNat), (1, f.dir.toNat), (4, f.index.toNat), (5, f.len.toNat), (5, f.fmt.toNat), (5,
    f.h.toNat), (1, f.pop.toNat), (89, 0)]

def layMoveOp : List Nat := [18, 5, 5, 5, 1, 2, 14, 20, 18, 26]

/-- Reads the bits [127:14] of a MOVE word. -/
def decMoveOp (n : Nat) : Option MoveOp :=
  match unpack layMoveOp n with
  | [r0, hs, hd, hr, push, prio, r1, rows, rb, r2] =>
    if r0 == 0 && r1 == 0 && r2 == 0 then some ⟨BitVec.ofNat 5 hs, BitVec.ofNat 5 hd, BitVec.ofNat 5 hr, BitVec.ofNat 1 push, BitVec.ofNat 2 prio, BitVec.ofNat
      20 rows, BitVec.ofNat 18 rb⟩ else none
  | _ => none

/-- The bits [127:14] of a MOVE word. -/
def encMoveOp (f : MoveOp) : Nat :=
  pack [(18, 0), (5, f.hs.toNat), (5, f.hd.toNat), (5, f.hr.toNat), (1, f.push.toNat), (2, f.prio.toNat), (14, 0), (20,
    f.rows.toNat), (18, f.rb.toNat), (26, 0)]

def layRsigOp : List Nat := [2, 1, 1, 8, 6, 16, 16, 32, 32]

/-- Reads the bits [127:14] of a RSIG word. -/
def decRsigOp (n : Nat) : Option RsigOp :=
  match unpack layRsigOp n with
  | [r0, scope, op, flag, cell, device, r1, value, r2] =>
    if r0 == 0 && r1 == 0 && r2 == 0 then some ⟨BitVec.ofNat 1 scope, BitVec.ofNat 1 op, BitVec.ofNat 8 flag, BitVec.ofNat 6 cell, BitVec.ofNat 16 device,
      BitVec.ofNat 32 value⟩ else none
  | _ => none

/-- The bits [127:14] of a RSIG word. -/
def encRsigOp (f : RsigOp) : Nat :=
  pack [(2, 0), (1, f.scope.toNat), (1, f.op.toNat), (8, f.flag.toNat), (6, f.cell.toNat), (16, f.device.toNat), (16,
    0), (32, f.value.toNat), (32, 0)]

def layRatomOp : List Nat := [2, 4, 5, 5, 1, 33, 64]

/-- Reads the bits [127:14] of a RATOM word. -/
def decRatomOp (n : Nat) : Option RatomOp :=
  match unpack layRatomOp n with
  | [r0, aop, ht, hr, push, r1, opnds] =>
    if r0 == 0 && r1 == 0 then some ⟨BitVec.ofNat 4 aop, BitVec.ofNat 5 ht, BitVec.ofNat 5 hr, BitVec.ofNat 1 push, BitVec.ofNat 64 opnds⟩ else none
  | _ => none

/-- The bits [127:14] of a RATOM word. -/
def encRatomOp (f : RatomOp) : Nat :=
  pack [(2, 0), (4, f.aop.toNat), (5, f.ht.toNat), (5, f.hr.toNat), (1, f.push.toNat), (33, 0), (64, f.opnds.toNat)]

def layDrvSubmitOp : List Nat := [2, 6, 6, 5, 1, 43, 43, 8]

/-- Reads the bits [127:14] of a DRVSUBMIT word. -/
def decDrvSubmitOp (n : Nat) : Option DrvSubmitOp :=
  match unpack layDrvSubmitOp n with
  | [r0, mb, sub, hsc, pop, desc, region, r1] =>
    if r0 == 0 && r1 == 0 then some ⟨BitVec.ofNat 6 mb, BitVec.ofNat 6 sub, BitVec.ofNat 5 hsc, BitVec.ofNat 1 pop, BitVec.ofNat 43 desc,
      BitVec.ofNat 43 region⟩ else none
  | _ => none

/-- The bits [127:14] of a DRVSUBMIT word. -/
def encDrvSubmitOp (f : DrvSubmitOp) : Nat :=
  pack [(2, 0), (6, f.mb.toNat), (6, f.sub.toNat), (5, f.hsc.toNat), (1, f.pop.toNat), (43, f.desc.toNat), (43,
    f.region.toNat), (8, 0)]

def layDrvSendOp : List Nat := [2, 6, 1, 5, 5, 13, 43, 39]

/-- Reads the bits [127:14] of a DRVSEND word. -/
def decDrvSendOp (n : Nat) : Option DrvSendOp :=
  match unpack layDrvSendOp n with
  | [r0, mb, dir, hsrc, hdst, rb, desc, r1] =>
    if r0 == 0 && r1 == 0 then some ⟨BitVec.ofNat 6 mb, BitVec.ofNat 1 dir, BitVec.ofNat 5 hsrc, BitVec.ofNat 5 hdst, BitVec.ofNat 13 rb,
      BitVec.ofNat 43 desc⟩ else none
  | _ => none

/-- The bits [127:14] of a DRVSEND word. -/
def encDrvSendOp (f : DrvSendOp) : Nat :=
  pack [(2, 0), (6, f.mb.toNat), (1, f.dir.toNat), (5, f.hsrc.toNat), (5, f.hdst.toNat), (13, f.rb.toNat), (43,
    f.desc.toNat), (39, 0)]

def layDrvCloseOp : List Nat := [2, 6, 43, 63]

/-- Reads the bits [127:14] of a DRVCLOSE word. -/
def decDrvCloseOp (n : Nat) : Option DrvCloseOp :=
  match unpack layDrvCloseOp n with
  | [r0, mb, desc, r1] =>
    if r0 == 0 && r1 == 0 then some ⟨BitVec.ofNat 6 mb, BitVec.ofNat 43 desc⟩ else none
  | _ => none

/-- The bits [127:14] of a DRVCLOSE word. -/
def encDrvCloseOp (f : DrvCloseOp) : Nat :=
  pack [(2, 0), (6, f.mb.toNat), (43, f.desc.toNat), (63, 0)]

def layMillOp : List Nat := [2, 6, 5, 5, 5, 5, 5, 1, 2, 2, 12, 26, 6, 16, 16]

/-- Reads the bits [127:14] of a MILLRS word. -/
def decMillOp (n : Nat) : Option MillOp :=
  match unpack layMillOp n with
  | [arith, group, ifmt, ofmt, hs, hd, hr, push, rm, r0, root, seg, r1, cseq, keyb] =>
    if r0 == 0 && r1 == 0 then some ⟨BitVec.ofNat 2 arith, BitVec.ofNat 6 group, BitVec.ofNat 5 ifmt, BitVec.ofNat 5 ofmt, BitVec.ofNat 5 hs,
      BitVec.ofNat 5 hd, BitVec.ofNat 5 hr, BitVec.ofNat 1 push, BitVec.ofNat 2 rm, BitVec.ofNat 12 root, BitVec.ofNat
      26 seg, BitVec.ofNat 16 cseq, BitVec.ofNat 16 keyb⟩ else none
  | _ => none

/-- The bits [127:14] of a MILLRS word. -/
def encMillOp (f : MillOp) : Nat :=
  pack [(2, f.arith.toNat), (6, f.group.toNat), (5, f.ifmt.toNat), (5, f.ofmt.toNat), (5, f.hs.toNat), (5, f.hd.toNat),
    (5, f.hr.toNat), (1, f.push.toNat), (2, f.rm.toNat), (2, 0), (12, f.root.toNat), (26, f.seg.toNat), (6, 0), (16,
    f.cseq.toNat), (16, f.keyb.toNat)]

/-- Header and upper bits of a word: OPC, EC, CRIT, GATE, then bits [127:14] (Table 7-1). -/
def wordHdr (n : Nat) : Nat × Hdr × Nat :=
  (n % 256, ⟨BitVec.ofNat 2 (n / 256), BitVec.ofNat 1 (n / 1024), BitVec.ofNat 3 (n / 2048)⟩, n / 16384)

/-- The operation of a word by its opcode and bits [127:14] (Table 7-2). -/
def decOp (opc n : Nat) : Option Op :=
  match opc with
  | 0x00 => if n == 0 then some .nop else none
  | 0x1 => (decStepmark n).map .stepmark
  | 0x2 => (decLoopOp n).map .loop
  | 0x3 => (decCntOp n).map .cnt
  | 0x4 => (decCmpOp n).map .cmp
  | 0x5 => (decHpushOp n).map .hpush
  | 0x10 => (decFlagOp n).map .flag
  | 0x11 => (decFlagOp n).map .wait
  | 0x20 => (decMmaOp n).map .mma
  | 0x30 => (decUcommitOp n).map .ucommit
  | 0x31 => (decVerOp n).map .vpub
  | 0x32 => (decUdone n).map .udone
  | 0x33 => if n == 0 then some .vote else none
  | 0x34 => (decVerOp n).map .vrel
  | 0x40 => (decSetlen n).map (fun p => .setlen p.1 p.2)
  | 0x41 => (decLdtOp n).map .ldt
  | 0x42 => (decSttOp n).map .stt
  | 0x43 => (decCardOp n).map .card
  | 0x44 => (decRedOp n).map .red
  | 0x45 => (decZmapOp n).map .zmap
  | 0x46 => (decTblOp n).map .tbl
  | 0x50 => (decMoveOp n).map .move
  | 0x51 => (decRsigOp n).map .rsig
  | 0x52 => (decRatomOp n).map .ratom
  | 0x60 => (decDrvSubmitOp n).map .drvSubmit
  | 0x61 => (decDrvSendOp n).map .drvSend
  | 0x62 => (decDrvCloseOp n).map .drvClose
  | 0x70 => (decMillOp n).map .millRs
  | 0x71 => (decMillOp n).map .millAg
  | 0x72 => (decMillOp n).map .millAr
  | 0x73 => (decMillOp n).map .millBc
  | _ => none

/-- Opcode and bits [127:14] of an operation. -/
def encOp : Op → Nat × Nat
  | .nop => (0x00, 0)
  | .vote => (0x33, 0)
  | .stepmark f => (0x1, encStepmark f)
  | .loop f => (0x2, encLoopOp f)
  | .cnt f => (0x3, encCntOp f)
  | .cmp f => (0x4, encCmpOp f)
  | .hpush f => (0x5, encHpushOp f)
  | .flag f => (0x10, encFlagOp f)
  | .wait f => (0x11, encFlagOp f)
  | .mma f => (0x20, encMmaOp f)
  | .ucommit f => (0x30, encUcommitOp f)
  | .vpub f => (0x31, encVerOp f)
  | .udone f => (0x32, encUdone f)
  | .vrel f => (0x34, encVerOp f)
  | .setlen vl rl => (0x40, encSetlen (vl, rl))
  | .ldt f => (0x41, encLdtOp f)
  | .stt f => (0x42, encSttOp f)
  | .card f => (0x43, encCardOp f)
  | .red f => (0x44, encRedOp f)
  | .zmap f => (0x45, encZmapOp f)
  | .tbl f => (0x46, encTblOp f)
  | .move f => (0x50, encMoveOp f)
  | .rsig f => (0x51, encRsigOp f)
  | .ratom f => (0x52, encRatomOp f)
  | .drvSubmit f => (0x60, encDrvSubmitOp f)
  | .drvSend f => (0x61, encDrvSendOp f)
  | .drvClose f => (0x62, encDrvCloseOp f)
  | .millRs f => (0x70, encMillOp f)
  | .millAg f => (0x71, encMillOp f)
  | .millAr f => (0x72, encMillOp f)
  | .millBc f => (0x73, encMillOp f)

/-- The 16-byte ring entry of a command, as a number (R193). -/
def encodeCmd (h : Hdr) (op : Op) : Nat :=
  pack [(8, (encOp op).1), (2, h.ec.toNat), (1, h.crit.toNat), (3, h.gate.toNat), (114, (encOp op).2)]

/-- Header and operation of a ring entry; none for the operation when the word is malformed (R195). -/
def decodeCmd (n : Nat) : Hdr × Option Op :=
  let (opc, h, up) := wordHdr n
  (h, decOp opc (up % 2 ^ 114))

end Sys2Proof.Machine
end

