-- ==== Sys2Proof/Machine/Report.lean ====
section
/-! DEFINITION. Messages the device builds (R274, R311, Table 11-5), the job tree, routes and the link
tracker's entries (R280), and the report of a fault of an unsealed step (R339). -/
namespace Sys2Proof.Machine

/-- The key of a device's bulk peer at an Ethernet port (R318). -/
def bulkKey (port dev : Nat) : Nat := 0x10000 * (1 + port % 2) + dev % 0x10000

/-- The key of a link: 0-31 a Sweul port, 0x40 and 0x41 that Ethernet port's bulk peer of the device. -/
def linkKey (l : MLink) : Nat := if l.link < 32 then l.link else bulkKey l.link l.nid

/-- The device computes beside a pattern and sends nothing into the job (R370, R371). -/
def isShadow (s : State) : Bool := oget s 0x5800 1 == 3

/-- A shadow's messages leave by its TEE ports only. -/
def enqueue (s : State) (key : Nat) (m : Msg) : State :=
  if isShadow s && m.mtype != 0x20 && !s.rcv.teePorts.contains key then s
  else { s with txq := tset s.txq key (tget [] s.txq key ++ [m]) }


/-- The word a list of bytes makes, padded with zeros to 32. -/
def dword (bs : List Byte) : DWord := { bytes := (bs ++ List.replicate 32 0#8).take 32 }

/-- Type-specific bits [255:144] of Mill and Ledger messages (Table 10-7). -/
def millSpec (gid srank storm final rail cseq step epoch : Nat) : Nat :=
  gid % 2 ^ 16 + 2 ^ 16 * (srank % 2 ^ 12) + 2 ^ 28 * (storm % 2) + 2 ^ 29 * (final % 2) + 2 ^ 30 * (rail % 4) +
    2 ^ 32 * (cseq % 2 ^ 16) + 2 ^ 48 * (step % 2 ^ 32) + 2 ^ 80 * (epoch % 2 ^ 32)

def mGid (m : Msg) : Nat := m.spec % 2 ^ 16
def mSrank (m : Msg) : Nat := m.spec / 2 ^ 16 % 2 ^ 12
def mStorm (m : Msg) : Bool := m.spec / 2 ^ 28 % 2 == 1
def mFinal (m : Msg) : Bool := m.spec / 2 ^ 29 % 2 == 1
def mRail (m : Msg) : Nat := m.spec / 2 ^ 30 % 4
def mCseq (m : Msg) : Nat := m.spec / 2 ^ 32 % 2 ^ 16
def mStep (m : Msg) : Nat := m.spec / 2 ^ 48 % 2 ^ 32
def mEpoch (m : Msg) : Nat := m.spec / 2 ^ 80 % 2 ^ 32

/-- The tee of steps s and later covers a message: a request into memory names no step, and the seal of step s - 1 is teed too (R370). -/
def teeCovers (first : Nat) (m : Msg) : Bool :=
  (m.mtype < 0x30 && m.mtype != 4) || (mStep m + 2 ^ 32 - (if m.mtype == 0x35 then first - 1 else first) % 2 ^ 32) % 2 ^ 32 < 2 ^ 31

/-- A message accepted for the teed steps goes to the shadow as it came. -/
def teeMsg (s : State) (m : Msg) : State :=
  match s.tee with
  | some t => (match t.first, t.ports with
    | some n, p :: _ => if teeCovers n m then enqueue s p m else s
    | _, _ => s)
  | none => s

def mWidx (m : Msg) : Nat := m.addr % 2 ^ 31
def mWfmt (m : Msg) : Nat := m.addr / 2 ^ 31 % 32
def mSeg (m : Msg) : Nat := m.addr / 2 ^ 36 % 2 ^ 12

/-- A byte of a message's first data word. -/
def mByte (m : Msg) (i : Nat) : Nat :=
  match m.data with
  | w :: _ => (w.bytes.getD i 0#8).toNat
  | [] => 0

def mLe (m : Msg) (i n : Nat) : Nat :=
  match m.data with
  | w :: _ => leNat (lslice w.bytes i n)
  | [] => 0

/-- The job tree's group entry; none without a plan or with MILL_LEN = 0. -/
def jobGroup (s : State) : Option MGroup :=
  match s.plan with
  | some p => p.groups[p.jobTree]?
  | none => none

/-- Rank 0 of the job tree; so is a device without one (R315, R340). -/
def isRank0 (s : State) : Bool :=
  match jobGroup s with
  | some g => g.rank == 0
  | none => true

def jobKids (s : State) : List MLink :=
  match jobGroup s with
  | some g => g.kids
  | none => []

def getStep (s : State) (n : Nat) : Option StepSt := s.steps.find? (fun t => t.num == n)

def modStep (s : State) (n : Nat) (f : StepSt → StepSt) : State :=
  { s with steps := s.steps.map (fun t => if t.num == n then f t else t) }

/-- The device's storm state for a step (R126). -/
def stepStorm (s : State) (step : Nat) : Bool :=
  match getStep s step with
  | some t => t.storm
  | none => false

/-- A message of the device leaves by a link; the data words of Mill messages are counted (R322). -/
def sendLink (s : State) (l : MLink) (m : Msg) : State :=
  let mill := 0x30 ≤ m.mtype && m.mtype < 0x40 && (!isShadow s || s.rcv.teePorts.contains (linkKey l))
  enqueue (if mill then bumpPerf s 0x2410 4 m.data.length else s) (linkKey l) { m with dst := l.nid }

/-- A job-tree message of the device for a step. -/
def jobMsg (s : State) (mtype step : Nat) (storm : Bool) (w : List Byte) : Msg :=
  let (gid, rk) := match jobGroup s with
    | some g => (g.gid, g.rank)
    | none => (0, 0)
  { mtype := mtype, vc := 4, prio := 1, part := ownPart s, src := ownId s,
    spec := millSpec gid rk (if storm then 1 else 0) 0 0 0 step s.epoch, data := [dword w] }

def toParent (s : State) (m : Msg) : State :=
  match jobGroup s with
  | some g => if g.parent.link == 0xFF then s else sendLink s g.parent m
  | none => s

def toKids (s : State) (m : Msg) : List MLink → State
  | [] => s
  | k :: ks => toKids (sendLink s k m) m ks

/-- The seal word of Table 11-5. -/
def sealWord (kind flags dev reason epochNew : Nat) (own peer : BitVec 64) : List Byte :=
  natLe kind 1 ++ natLe flags 1 ++ natLe dev 2 ++ natLe reason 1 ++ natLe 0 3 ++ natLe epochNew 4 ++
    natLe own.toNat 8 ++ natLe peer.toNat 8 ++ natLe 0 4

/-- Sends a MILL_SEAL_UP of a step: to the parent, or to the device itself when it is rank 0. -/
def sendUp (s : State) (step : Nat) (w : List Byte) : State :=
  let m := jobMsg s 0x34 step (stepStorm s step) w
  if isShadow s then s
  else if isRank0 s then { s with selfUp := s.selfUp ++ [m] } else toParent s m

/-- The open step of a parity, if any is unsealed. -/
def stepOfPar (s : State) (par : Nat) : Option StepSt := s.steps.find? (fun t => t.num % 2 == par)

/-- R339: each fault of the oldest unsealed step is reported at once. -/
def faultUp (s : State) (reason : Nat) : State :=
  match s.steps.head? with
  | none => s
  | some t => sendUp s t.num (sealWord 2 0 (ownId s) reason 0 0#64 0#64)

/-- The port a remote device's messages leave by (R278), none when no route names it or no plan is entered. A TRANSFER port carries
none of them (R364). -/
def routeOf (s : State) (dev : Nat) : Option (Nat × Bool) :=
  match s.plan with
  | some p =>
    if s.inPlan then
      match p.routes.find? (fun r => r.lo ≤ dev && dev ≤ r.hi) with
      | some r => if s.rcv.xferPorts.contains r.port then none else some (r.port, r.dateline)
      | none => none
    else none
  | none => none

/-- A port's object index. -/
def portIdx (p : Nat) : Nat := 0x4000 + 0x20 * p

/-- The port's state (Table 9-2): 0 DOWN, 1 TRAINING, 2 HELLO, 3 ACTIVE, 4 ABSENT, 5 QUARANTINE. -/
def portState (s : State) (p : Nat) : Nat := oget s (portIdx p) 2

/-- The route to a device, where its port carries traffic (R356, R357). -/
def liveRoute (s : State) (dev : Nat) : Option (Nat × Bool) := (routeOf s dev).filter (fun r => portState s r.1 == 3)

/-- The lowest tracker entry not in use. -/
def freeTrk (s : State) : Nat → Option Nat
  | 0 => none
  | n + 1 => if (tfind s.trk (8192 - (n + 1))).isNone then some (8192 - (n + 1)) else freeTrk s n

/-- A request takes a tracker entry and leaves by its port (R280); none while all 8,192 are in use. The entry
remembers who waits for it, where a READ's data goes, and its ordinal. -/
def sendReq (s : State) (c k id : Nat) (w : Stall) : Option State :=
  match freeTrk s 8192 with
  | none => none
  | some e =>
    let g := tget 0 s.trkGen e
    let m' := { w.msg with trk := e, tgen := g }
    let s1 := { s with trk := tset s.trk e { gen := g, port := w.port, cell := c, strm := k, fly := id, msg := m',
                                             dest := w.dest, ord := w.ord, kind := w.kind } }
    let s2 := { s1 with trkHwm := max s.trkHwm s1.trk.length }
    some (if w.port == 0xFF then s2 else enqueue s2 w.port m')

/-- A tracker entry retires; its generation rises by 1 modulo 8 when it is reused (R280). -/
def retireTrk (s : State) (e : Nat) : State :=
  { s with trk := tdel s.trk e, trkGen := tset s.trkGen e ((tget 0 s.trkGen e + 1) % 8) }

/-- A request message of this device on its class A channel, or class B when its route entry has the dateline
(R278, R279). -/
def reqMsg (s : State) (mtype prio dst : Nat) (dl : Bool) (addr spec : Nat) (data : List DWord) : Msg :=
  { mtype := mtype, vc := if dl then 1 else 0, prio := prio, part := ownPart s, src := ownId s, dst := dst,
    addr := addr, spec := spec, data := data }

/-- The port links this shadow to its pattern. -/
def teePort (s : State) (key : Nat) : Bool := isShadow s && s.rcv.teePorts.contains key

/-- An answer to a request (Table 9-9): on the channel of its class, by the route to its source or the port it came by. -/
def respond (s : State) (key : Nat) (m : Msg) (mtype spec : Nat) (data : List DWord) : State :=
  let (port, dl) := if teePort s key || s.rcv.xferPorts.contains key then (key, false) else (routeOf s m.src).getD (key, false)
  if teePort s key && m.src != ownId s then s
  else enqueue s port { mtype := mtype, vc := if dl then 3 else 2, prio := m.prio, part := ownPart s, src := ownId s, dst := m.src,
                        trk := m.trk, tgen := m.tgen, spec := spec, data := data }

/-- A stall of one operation on a full tracker (R280). -/
def trackFull (s : State) : State := bumpPerf s 0x2030 0x0B 1

/-- Word w of memory, with its poison and a poisoned one's stored check symbols. -/
def readWord (s : State) (w : Nat) : DWord :=
  { bytes := memRead s (32 * w) 32, poison := isPoison s (32 * w), chk := if isPoison s (32 * w) then tget [] s.pchk w else [] }

/-- Words w, w+1, … of a span in messages of up to n words, none across a multiple of n: (first word, words). -/
def wordGroups (al : Bool) : Nat → Nat → Nat → List (Nat × Nat)
  | 0, _, _ => []
  | fuel + 1, w, n =>
    let m := min n (if al then 16 - w % 16 else 16)
    if n = 0 then [] else (w, m) :: wordGroups al fuel (w + m) (n - m)

end Sys2Proof.Machine
end

