-- ==== Sys2Proof/Machine/Stream.lean ====
section
/-! DEFINITION. The stream machinery (07): exception records, halts and aborts, hopper numbering,
counters and comparators, and the queue with its loops. -/
namespace Sys2Proof.Machine

/-! Exception records (R226, R227). -/

/-- Adds n events of a cause to the records a command collects: the first makes the record, later ones raise
its count, which sticks at 0xFFFF_FFFF. -/
def addRec (rs : List ExRec) (r : ExRec) (n : Nat) : List ExRec :=
  if n = 0 then rs
  else match rs with
    | [] => [{ r with count := errAdd 0 n, satur := errAdd 0 n == 0xFFFFFFFF }]
    | q :: t =>
      if q.cause = r.cause then
        { q with count := errAdd q.count n, satur := errAdd q.count n == 0xFFFFFFFF } :: t
      else q :: addRec t r n

/-- Writes a record into a stream's log, or counts it as lost when the log is full (R227, R504). -/
def logRec (s0 : State) (c k : Nat) (r : ExRec) : State :=
  let s := if r.cause == 0x50 then
      { s0 with ldg := { s0.ldg with bad50 := s0.ldg.bad50 ++ [(r.step, r.row * 2 ^ 32 + r.col * 2 ^ 16 + r.chunk % 4096 * 16)] } }
    else s0
  let st := getStrm s c k
  if (st.exWr + 2 ^ 32 - st.exRd) % 2 ^ 32 ≥ 16 then
    let v := errAdd st.exLost 1
    let s1 := setStrm s c k { st with exLost := v }
    if v == 0xFFFFFFFF && st.exLost != v then raise s1 0x0A25 [c, k] else s1
  else
    let slot := st.exWr % 16
    let wr := (st.exWr + 1) % 2 ^ 32
    let full := (wr + 2 ^ 32 - st.exRd) % 2 ^ 32 == 16
    let s1 := setStrm s c k { st with exlog := tset st.exlog slot r, exWr := wr, logFull := st.logFull || full }
    let s2 := if full && !st.logFull then raise s1 0x0A23 [c, k] else s1
    if r.satur then raise s2 0x0A24 [c, k, r.cause, slot] else s2

/-- A further event of a cause that a command has already recorded: COUNT rises in the record written (R227). -/
def lateCount (s : State) (c k id cause : Nat) : State :=
  match (getStrm s c k).exlog.find? (fun p => p.2.own == some id && p.2.cause == cause) with
  | none => s
  | some (slot, r) =>
    let n := errAdd r.count 1
    let s1 := setStrm s c k { getStrm s c k with exlog := tset (getStrm s c k).exlog slot { r with count := n, satur := n == 0xFFFFFFFF } }
    if n == 0xFFFFFFFF && !r.satur then raise s1 0x0A24 [c, k, r.cause, slot] else s1

/-- Writes the records of a command: its position, the stream's step and the time are the command's. -/
def logRecs (s : State) (c k : Nat) : List ExRec → State
  | [] => s
  | r :: rs => logRecs (logRec s c k r) c k rs

/-- A record of a command in flight. -/
def recOf (s : State) (f : Fly) (cause unit row col chunk tile : Nat) : ExRec :=
  { cause := cause, unit := unit, row := row % 65536, col := col % 65536, chunk := chunk % 4096,
    tile := tile % 2 ^ 32, pos := f.pos, step := f.step % 2 ^ 32, time := s.now }

/-- Sets the sticky bits of a stream. -/
def setSticky (s : State) (c k : Nat) (inv ovf : Bool) : State :=
  if inv || ovf then
    modStrm s c k (fun x => { x with invalid := x.invalid || inv, overflow := x.overflow || ovf })
  else s

/-! Hoppers (R199-R201, R222). -/

/-- Has pop n of a hopper happened? -/
def popped (h : Hopper) (n : Nat) : Bool := n < h.low || h.hi.contains n

/-- Raises the watermark over the pops that have happened. -/
def settleLow (h : Hopper) : Nat → Hopper
  | 0 => h
  | n + 1 =>
    if h.hi.contains h.low then settleLow { h with low := h.low + 1, hi := h.hi.filter (fun i => i ≠ h.low) } n
    else h

/-- Pop n happens: its place is free. -/
def doPop (h : Hopper) (n : Nat) : Hopper :=
  settleLow { h with places := tdel h.places n, hi := n :: h.hi } (h.hi.length + 1)

/-- The descriptor of place n, when it is ready. -/
def readyAt (h : Hopper) (n : Nat) : Option Desc :=
  match tfind h.places n with
  | some (.ready d) => some d
  | _ => none

/-- A push place becomes ready; a discarded pop takes it at once (R222). -/
def markReady (h : Hopper) (n : Nat) (d : Desc) : Hopper :=
  if h.discard.contains n then doPop { h with discard := h.discard.filter (fun i => i ≠ n) } n
  else { h with places := tset h.places n (.ready d) }

/-- A release of a push place: void (R222). -/
def voidPlace (h : Hopper) (n : Nat) : Hopper := { h with places := tset h.places n .void }

/-- A release of a pop claim: the descriptor goes as soon as its place is ready (R222). -/
def dropPop (h : Hopper) (n : Nat) : Hopper :=
  match readyAt h n with
  | some _ => doPop h n
  | none => if popped h n then h else { h with discard := n :: h.discard }

/-- An access that has not read its place yet is a peek of place n of hopper h. -/
def peeksAt (h n : Nat) (a : HAcc) : Bool := a.h == h && a.num == n && a.kind = .peek && !a.done && a.seen.isNone

/-- Some peek of place n has not read it yet. -/
def placePeeked (s : State) (c h n : Nat) : Bool :=
  (getCell s c).streams.any (fun p => p.2.fly.any (fun f => f.acc.any (peeksAt h n)))

/-- Place n is taken: an earlier peek that has not read it yet keeps its descriptor (R200). -/
def keepSeen (s : State) (c h n : Nat) (d : Desc) : State :=
  if !placePeeked s c h n then s
  else modCell s c (fun x => { x with streams := x.streams.map (fun p => (p.1, { p.2 with
    fly := p.2.fly.map (fun f => { f with acc := f.acc.map (fun a => if peeksAt h n a then { a with seen := some d } else a) }) })) })

/-- Pop n of hopper h happens. -/
def popAt (s : State) (c h n : Nat) : State :=
  let s1 := match readyAt (getHop s c h) n with
    | some d => keepSeen s c h n d
    | none => s
  modHop s1 c h (fun x => doPop x n)

/-- Pop claim n of hopper h is released (R222). -/
def dropAt (s : State) (c h n : Nat) : State :=
  let s1 := match readyAt (getHop s c h) n with
    | some d => keepSeen s c h n d
    | none => s
  modHop s1 c h (fun x => dropPop x n)

/-- Push place n of hopper h becomes ready. -/
def pushAt (s : State) (c h n : Nat) (d : Desc) : State :=
  let s1 := if (getHop s c h).discard.contains n then keepSeen s c h n d else s
  modHop s1 c h (fun x => markReady x n d)

/-- The hopper is empty and no command holds a reservation on it (R198). DESIGN CHOICE: a peek in flight counts as a reservation
(assumption log 141). -/
def hopIdle (s : State) (c h : Nat) : Bool :=
  (getHop s c h).places.all (fun p => decide (p.2 = .void)) &&
    (getCell s c).streams.all (fun p => p.2.fly.all (fun f => f.acc.all (fun a => a.h != h || a.done)))

/-- The hopper accesses of a command in the order of R199 and R204: role, hopper and kind. -/
def panelsOf (klen : Nat) : Nat := (klen + 255) / 256

/-- Chunks of 32 k (16 under FORERUNNER) in a command of K k values. -/
def chunksOf (fore : Bool) (klen : Nat) : Nat := if fore then (klen + 15) / 16 else (klen + 31) / 32

def mmaPanelAcc (f : MmaOp) (p : Nat) : List (Role × Nat × HKind) :=
  let pk (b : BitVec 1) : HKind := if isOne b then .pop else .peek
  let klen := f.klen.toNat + 1
  let chunks := min 8 ((klen + 31) / 32 - 8 * p)
  [(.ha, f.ha.toNat, pk f.popa), (.hb, f.hb.toNat, pk f.popb)] ++
    (if isOne f.emit then
      (List.range chunks).flatMap (fun _ => [(Role.hm, f.hm.toNat, HKind.pop), (Role.he, f.he.toNat, HKind.push)])
     else [])

def mmaUsesHo (f : MmaOp) : Bool := f.init == 2#2 || isOne f.drain

def mmaAcc (f : MmaOp) : List (Role × Nat × HKind) :=
  (if mmaUsesHo f then [(Role.ho, f.ho.toNat, HKind.pop)] else []) ++
  (if f.dwmask != 0#2 then [(Role.hm, f.hm.toNat, HKind.pop)] else []) ++
  (List.range (panelsOf (f.klen.toNat + 1))).flatMap (mmaPanelAcc f) ++
  (if isOne f.drain then [(Role.hr, f.hr.toNat, HKind.push)] else [])

/-- Rank of the device in a Mill group, 0 when it has none (for MILL_BC's source, R299). -/
def millRank (s : State) (g : Nat) : Nat :=
  match s.plan with
  | some p => match p.groups[g]? with
    | some m => m.rank
    | none => 0
  | none => 0

def millAcc (src : Bool) (f : MillOp) : List (Role × Nat × HKind) :=
  (if src then [(Role.hs, f.hs.toNat, HKind.pop)] else []) ++ [(Role.hd, f.hd.toNat, HKind.pop)] ++
  (if isOne f.push then [(Role.hr, f.hr.toNat, HKind.push)] else [])

def opAcc (s : State) (op : Op) : List (Role × Nat × HKind) :=
  let pk (b : BitVec 1) : HKind := if isOne b then .pop else .peek
  match op with
  | .hpush f => [(.hr, f.h.toNat, .push)]
  | .mma f => mmaAcc f
  | .ucommit f =>
    [(.hba, f.hba.toNat, .pop), (.hbb, f.hbb.toNat, .pop)] ++
      (if f.kind == 0#1 then [(Role.hw, f.hw.toNat, HKind.pop), (Role.hwt, f.hwt.toNat, HKind.pop)] else [])
  | .ldt f => [(.hin, f.h.toNat, pk f.pop)]
  | .stt f =>
    [(.hin, f.h.toNat, pk f.pop)] ++ (if isOne f.upd then [(Role.ha, f.ha.toNat, pk f.pop)] else []) ++
      (if isOne f.push then [(Role.hr, f.hr.toNat, HKind.push)] else [])
  | .tbl f => [(.hin, f.h.toNat, pk f.pop)]
  | .move f =>
    [(.hs, f.hs.toNat, .pop), (.hd, f.hd.toNat, .pop)] ++ (if isOne f.push then [(Role.hr, f.hr.toNat, HKind.push)] else [])
  | .ratom f =>
    (if f.aop == 0xA#4 then [] else [(Role.ht, f.ht.toNat, HKind.pop)]) ++
      (if isOne f.push then [(Role.hr, f.hr.toNat, HKind.push)] else [])
  | .drvSubmit f => [(.hin, f.hsc.toNat, pk f.pop)]
  | .drvSend f => [(.hs, f.hsrc.toNat, .pop), (.hd, f.hdst.toNat, .pop)]
  | .millRs f => millAcc true f
  | .millAg f => millAcc true f
  | .millAr f => millAcc true f
  | .millBc f => millAcc (millRank s f.group.toNat == f.root.toNat) f
  | _ => []

/-- R198: a named hopper that is disabled, or bound to another stream for this kind of access. -/
def accOwned (s : State) (c k : Nat) (a : Role × Nat × HKind) : Bool :=
  let h := getHop s c a.2.1
  h.en && (match a.2.2 with
    | .push => h.prod == k
    | _ => h.cons == k)

/-- Takes the numbers of a command's accesses, in order; none when a push place has to wait for pop i - 8. -/
def reserve (s : State) (c : Nat) : List (Role × Nat × HKind) → Nat → Option (State × List HAcc)
  | [], _ => some (s, [])
  | (r, h, kd) :: t, peeks =>
    let hp := getHop s c h
    match kd with
    | .push =>
      if hp.pushN < 8 || popped hp (hp.pushN - 8) then
        (reserve (setHop s c h { hp with pushN := hp.pushN + 1, places := tset hp.places hp.pushN .reserved }) c t peeks).map
          (fun q => (q.1, ⟨r, h, hp.pushN, .push, false, none⟩ :: q.2))
      else none
    | .pop =>
      (reserve (setHop s c h { hp with popN := hp.popN + 1 }) c t peeks).map
        (fun q => (q.1, ⟨r, h, hp.popN, .pop, false, none⟩ :: q.2))
    | .peek =>
      (reserve s c t peeks).map (fun q => (q.1, ⟨r, h, hp.popN, .peek, false, none⟩ :: q.2))

/-- Successive peeks of one operand read places i, i+1, … (R200): numbers the peeks of a role. -/
def numberPeeks (role : Role) : List HAcc → Nat → List HAcc
  | [], _ => []
  | a :: t, i =>
    if a.role = role && a.kind = .peek then { a with num := a.num + i } :: numberPeeks role t (i + 1)
    else a :: numberPeeks role t i

/-- The access of a role, the i-th of that role. -/
def accOf (f : Fly) (r : Role) (i : Nat) : Option HAcc := (f.acc.filter (fun a => a.role = r && a.kind ≠ .push))[i]?

def pushOf (f : Fly) (r : Role) (i : Nat) : Option HAcc := (f.acc.filter (fun a => a.role = r && a.kind = .push))[i]?

/-- The descriptor an access reads, when its place is ready; a peek may have kept it (R200). -/
def accDesc (s : State) (c : Nat) (a : HAcc) : Option Desc := a.seen.orElse (fun _ => readyAt (getHop s c a.h) a.num)

def roleDesc (s : State) (c : Nat) (f : Fly) (r : Role) (i : Nat) : Option Desc :=
  match accOf f r i with
  | some a => accDesc s c a
  | none => none

/-- Every pop and peek of the command is ready. -/
def accReady (s : State) (c : Nat) (f : Fly) : Bool :=
  f.acc.all (fun a => a.kind = .push || a.done || (accDesc s c a).isSome)

/-- Performs one pop of a command. -/
def popOne (s : State) (c : Nat) (a : HAcc) : State :=
  if a.kind = .pop && !a.done then popAt s c a.h a.num else s

def popList (s : State) (c : Nat) : List HAcc → State
  | [] => s
  | a :: t => popList (popOne s c a) c t

/-- Every pop of the command happens (R196: at or after the commit point). -/
def popAll (s : State) (c : Nat) (f : Fly) : State × Fly :=
  (popList s c f.acc, { f with acc := f.acc.map (fun a => if a.kind = .push then a else { a with done := true }) })

/-- Releases what a command still holds (R222): void places, discarded claims. A command that faults before
its commit point withdraws the numbers that are still the newest of their hopper (R220). -/
def releaseAcc (s : State) (c : Nat) (withdraw : Bool) : List HAcc → State
  | [] => s
  | a :: t =>
    if a.done then releaseAcc s c withdraw t
    else
      let h := getHop s c a.h
      match a.kind with
      | .peek => releaseAcc s c withdraw t
      | .push =>
        if withdraw && h.pushN == a.num + 1 then
          releaseAcc (setHop s c a.h { h with pushN := a.num, places := tdel h.places a.num }) c withdraw t
        else releaseAcc (setHop s c a.h (voidPlace h a.num)) c withdraw t
      | .pop =>
        if withdraw && h.popN == a.num + 1 then
          releaseAcc (setHop s c a.h { h with popN := a.num }) c withdraw t
        else releaseAcc (dropAt s c a.h a.num) c withdraw t

/-- Makes pushed places ready with their descriptors (R197). -/
def readyOuts (s : State) (c : Nat) : List (Nat × Nat × Desc) → State
  | [] => s
  | (h, n, d) :: t => readyOuts (pushAt s c h n d) c t

/-! Flags (R213-R216). -/

/-- Index of a flag value by parity. -/
def flagKey (flag par : Nat) : Nat := 2 * flag + par

def getFlag (s : State) (c : Nat) (dev : Bool) (flag par : Nat) : Word :=
  if dev then tget 0#32 s.dflags (flagKey flag par) else tget 0#32 (getCell s c).flags (flagKey flag par)

/-- Applies one update of a device flag: MSI-X vectors 2-9 follow flags 56-63 (R476). -/
def setDevFlag (s : State) (flag par : Nat) (v : Word) : State :=
  let s1 := { s with dflags := tset s.dflags (flagKey flag par) v }
  if flag ≥ 56 && flag ≤ 63 then signalVec s1 (2 + (flag - 56)) else s1

def setFlag (s : State) (c : Nat) (dev : Bool) (flag par : Nat) (v : Word) : State :=
  if dev then setDevFlag s flag par v
  else modCell s c (fun x => { x with flags := tset x.flags (flagKey flag par) v })

/-- SET writes, ADD adds modulo 2^32 (R215). -/
def updFlag (s : State) (c : Nat) (dev : Bool) (add : Bool) (flag par : Nat) (v : Word) : State :=
  setFlag s c dev flag par (if add then getFlag s c dev flag par + v else v)

/-! Counters and comparators (R208-R210). -/

def ctrVal (st : Stream) (i : Nat) : Word := tget 0#32 st.ctr i

/-- The comparator's condition on the counters (R210). -/
def cmpCond (st : Stream) (m : Cmpr) : Bool :=
  let a := ctrVal st m.ca
  let b := if m.bsrc then ctrVal st m.cb else m.imm
  match m.rel with
  | 0 => a == b
  | 1 => a != b
  | 2 => a.ult b
  | _ => !(a.ult b)

/-- The pseudo FLAG a comparator issues when its condition turns true (R210). -/
def pseudoFlag (st : Stream) (flag : Nat) (pos : Nat) : Fly :=
  { id := st.nextId, dec := st.decN, pos := pos, hdr := ⟨0#2, 0#1, 0#3⟩,
    op := .flag ⟨0#1, 1#1, BitVec.ofNat 8 flag, 0#3, 0#1, 1#32⟩, pseudo := true, step := st.step }

/-- After a counter update: comparators with ACT = FLAG whose condition turned from false to true. -/
def cmpScan (pos : Nat) : Nat → Stream → Stream
  | 0, st => st
  | j + 1, st =>
    let st := cmpScan pos j st
    let m := tget {} st.cmp j
    let now := m.armed && cmpCond st m
    let st1 := { st with cmp := tset st.cmp j { m with last := now } }
    if m.armed && m.act && now && !m.last then
      if st1.win.isEmpty then { st1 with fly := st1.fly ++ [pseudoFlag st1 m.flag pos], nextId := st1.nextId + 1 }
      else { st1 with win := st1.win ++ [{ pos := pos, hdr := ⟨0#2, 0#1, 0#3⟩, op := some (pseudoFlag st1 m.flag pos).op,
                                           pseudo := true, dec := st1.decN }] }
    else st1

/-- A counter update in stream order. -/
def setCtr (st : Stream) (i : Nat) (v : Word) (pos : Nat) : Stream :=
  cmpScan pos 4 { st with ctr := tset st.ctr i v }

/-- A counter update by a load whose value arrives: a comparator's FLAG stands right behind the load (R210). -/
def setCtrAt (st : Stream) (f : Fly) (i : Nat) (v : Word) : Stream :=
  let n := st.fly.findIdx (fun g => g.id == f.id) + 1
  let st1 := setCtr { st with fly := st.fly.take n, win := [] } i v f.pos
  { st1 with fly := st1.fly.map (fun g => if st.nextId ≤ g.id then { g with dec := f.dec, step := f.step } else g) ++ st.fly.drop n
             win := st.win }

/-! The queue and its loops (R192, R207). -/

/-- Ends the iterations that end at the queue index: the innermost first. An index whose load is still on its way is raised in the
value that arrives (R208). -/
def endLoops (pos : Nat) : Nat → Stream → Stream
  | 0, st => st
  | n + 1, st =>
    match st.loops with
    | [] => st
    | l :: ls =>
      if st.nxt == l.start + l.len then
        let st1 := match l.ictr with
          | some i =>
            if st.loads.any (fun q => q.1 == i) then
              { st with loads := st.loads.map (fun (q : Nat × Word) => if q.1 == i then (i, q.2 + 1#32) else q) }
            else setCtr st i (ctrVal st i + 1#32) pos
          | none => st
        if l.left > 0 then { st1 with nxt := l.start, loops := { l with left := l.left - 1 } :: ls }
        else endLoops pos n { st1 with loops := ls }
      else st

/-- The command at the front has been taken: step to the next one; without an active loop it leaves the queue. -/
def takeFront (st : Stream) (pos : Nat) : Stream :=
  let st1 := endLoops pos 5 { st with nxt := st.nxt + 1 }
  if st1.loops.isEmpty then { st1 with queue := st1.queue.drop st1.nxt, nxt := 0 } else st1

/-- The command the stream decides on next. -/
def frontCmd (st : Stream) : Option QCmd := st.queue[st.nxt]?

/-- A gate drops its command when its comparator is armed and the condition holds (R150, R210). -/
def gateDrops (st : Stream) (g : BitVec 3) : Bool :=
  if g.toNat < 4 then false
  else let m := tget {} st.cmp (g.toNat - 4); m.armed && cmpCond st m

def gateBad (g : BitVec 3) : Bool := g == 1#3 || g == 2#3 || g == 3#3

/-- Counters of the comparators whose FLAG an update of counter i may bring (R210). -/
def cmpReads (st : Stream) (i : Nat) : List Nat :=
  (List.range 4).flatMap (fun j =>
    let m := tget {} st.cmp j
    if m.armed && m.act && (m.ca == i || (m.bsrc && m.cb == i)) then m.ca :: (if m.bsrc then [m.cb] else []) else [])

/-- Counters a command reads, or writes after a load of them (R208, R209); an update reads those of the comparators it moves. -/
def readsCtr (st : Stream) (q : QCmd) : List Nat :=
  (if q.hdr.gate.toNat < 4 then [] else
    let m := tget {} st.cmp (q.hdr.gate.toNat - 4)
    m.ca :: (if m.bsrc then [m.cb] else [])) ++
  (match q.op with
   | some (.loop f) => (if isOne f.csrc then [f.cctr.toNat] else []) ++ (if isOne f.ien then [f.ictr.toNat] else [])
   | some (.cnt f) => f.dst.toNat :: (if f.op == 2#3 then [f.src.toNat] else []) ++ cmpReads st f.dst.toNat
   | some (.hpush f) => if isOne f.cen then [f.ctr.toNat] else []
   | some (.flag f) => if isOne f.cen then [f.ctr.toNat] else []
   | some (.wait f) => if isOne f.cen then [f.ctr.toNat] else []
   | some (.cmp f) => f.ca.toNat :: (if isOne f.bsrc then [f.cb.toNat] else [])
   | some (.stepmark _) => List.range 8
   | _ => [])

/-- The command reads a counter whose load has not arrived (R209). -/
def loadHeld (st : Stream) (q : QCmd) : Bool :=
  (readsCtr st q).any (fun i => st.loads.any (fun l => l.1 == i))

/-- Drops commands at the front that a skipped loop or a gate removes; counts the gated ones (R150, R152, R207). -/
def dropFront (s : State) (c k : Nat) : Nat → State
  | 0 => s
  | n + 1 =>
    let st := getStrm s c k
    match frontCmd st with
    | none => s
    | some q =>
      if st.skip > 0 then dropFront (setStrm s c k { takeFront st q.pos with skip := st.skip - 1 }) c k n
      else if q.poison.isSome || loadHeld st q then s
      else if gateDrops st q.hdr.gate then
        dropFront (bumpPerf (setStrm s c k { takeFront st q.pos with skip := q.body }) (0x3022 + 0x40 * c) 4 1) c k n
      else s

/-! Halts and aborts (R220-R223). -/

/-- A command that waits for every earlier command to complete (FLAG, UDONE) and never can, after one ended (R195, R215). RSIG
waits for acknowledgements only and is not one. -/
def neverApplies (st : Stream) (f : Fly) : Bool :=
  !f.committed && (match st.broken with
    | some b => b < f.dec
    | none => false) &&
  (match f.op with
   | .flag _ => true
   | .udone _ => true
   | _ => false)

/-- The earlier of two commands in ring order: place and ring index. -/
def minDec (a : Option (Nat × Nat)) (b : Nat × Nat) : Option (Nat × Nat) :=
  match a with
  | some x => if b.1 < x.1 then some b else some x
  | none => some b

/-- Place in ring order and ring index of the oldest command that has not completed: in flight or waiting in the window,
in the queue, or next to be fetched. `old` leaves out commands that complete. The window issues out of ring order (R107),
so a command in it may be older than one in flight. -/
def oldestOf (st : Stream) (old : Fly → Bool) : Nat × Nat :=
  let open_ := (st.fly.filter (fun f => !f.pseudo && old f)).map (fun f => (f.dec, f.pos)) ++
    (st.win.filter (fun q => !q.pseudo)).map (fun q => (q.dec, q.pos))
  match open_.foldl minDec none with
  | some x => x
  | none =>
    match st.queue[st.nxt]? with
    | some q => (st.decN, q.pos)
    | none => (st.decN, st.head)

/-- The ring index of the oldest command that has not completed (R191, R223): a command that ended without
completing is one. -/
def oldestPos (st : Stream) : Nat :=
  let (i, p) := oldestOf st (fun _ => true)
  match st.broken with
  | some b => if b < i then st.brokenPos else p
  | none => p

/-- A stream enters HALTED: STREAM_HALT, MSI-X, and the fault of the oldest unsealed step (R220). -/
def enterHalted (s : State) (c k : Nat) : State :=
  let st := getStrm s c k
  let s1 := setStrm s c k { st with mode := .halted, fly := [] }
  faultUp (raise (signalVec s1 (16 + 4 * c + k)) 0x0A20 ([c, k, st.cause, 0] ++ pb st.haltPos 4)) 2

/-- Completed positions after the oldest command as the map of R223. -/
def abMap (ahead : List (Nat × Nat)) (dec pos ring : Nat) : Nat :=
  (List.range 64).foldl (fun m i =>
    if ahead.any (fun a => dec < a.1 && a.2 == (pos + i) % ring) then m + 2 ^ i else m) 0

/-- A stream enters ABORTED: ABPOS, ABMAP and HEAD (R223). -/
def enterAborted (s : State) (c k : Nat) : State :=
  let st := getStrm s c k
  let (d, p) := match st.broken with
    | some b => if b < st.abid then (b, st.brokenPos) else (st.abid, st.abpos)
    | none => (st.abid, st.abpos)
  let st1 := { st with
    mode := .aborted, fly := [], abpos := p, abmap := abMap st.ahead d p (2 ^ st.log2), head := p,
    queue := [], win := [], nxt := 0, loops := [], skip := 0, loads := [], ahead := [] }
  signalVec (setStrm s c k st1) (16 + 4 * c + k)

/-- After a command left: a draining stream whose last command is gone stops. -/
def drained (s : State) (c k : Nat) : State :=
  let st := getStrm s c k
  let rest := st.fly.filter (fun f => !neverApplies st f)
  match st.mode with
  | .faulting => if rest.isEmpty then enterHalted s c k else s
  | .aborting => if rest.isEmpty then enterAborted s c k else s
  | _ => s

/-- A command ended without completing: the oldest such one is remembered. -/
def markBroken (x : Stream) (pos dec : Nat) : Stream :=
  match x.broken with
  | some b => if dec < b then { x with broken := some dec, brokenPos := pos } else x
  | none => { x with broken := some dec, brokenPos := pos }

/-- Marks the stream as faulting at a command; the first cause stands. -/
def beginHalt (s : State) (c k cause pos dec : Nat) : State :=
  modStrm s c k (fun x0 =>
    let x := markBroken x0 pos dec
    match x.mode with
    | .live => { x with mode := .faulting, cause := cause, haltPos := pos }
    | _ => x)

/-- Fields of a Mill command. -/
def millFields (op : Op) : Option MillOp :=
  match op with
  | .millRs f | .millAg f | .millAr f | .millBc f => some f
  | _ => none

def millGroup (s : State) (g : Nat) : Option MGroup :=
  match s.plan with
  | some p => p.groups[g]?
  | none => none

/-- MILL_RS and MILL_AR, whose completion a vote waits for (R315). -/
def isReduce (op : Op) : Bool :=
  match op with
  | .millRs _ | .millAr _ => true
  | _ => false

/-- A Mill command of a group halts or faults, with whatever cause: its event and its tally (R319, R322). -/
def millFaultEv (s : State) (group cseq cause cell : Nat) : State :=
  let gid := ((millGroup s group).map (fun g => g.gid)).getD 0
  bumpErr (raise s 0x0E10 (pb gid 2 ++ pb cseq 2 ++ [cause, cell])) 0x2410 7 1 0x0E13

/-- What the end of a command that did not complete is for the Mill. -/
def millEnded (s : State) (c : Nat) (f : Fly) (cause : Nat) : State :=
  match millFields f.op with
  | none => s
  | some o =>
    let s1 := millFaultEv s o.group.toNat o.cseq.toNat cause c
    if f.committed && isReduce f.op then modStep s1 f.step (fun t => { t with redLost := true }) else s1

/-- A claim stops waiting: WAIT falls (Table 4-3). -/
def unwaitClaim (s : State) (c : Nat) (f : Fly) : State :=
  match f.op with
  | .ucommit o => if f.waiting && isOne o.een then
      setVt s c o.entry.toNat { getVt s c o.entry.toNat with wait := false } else s
  | _ => s

/-- A DRV_SEND that ends leaves its session, which may close or send again (R153). -/
def sendEnded (s : State) (c : Nat) (f : Fly) : State :=
  match f.op with
  | .drvSend _ => { s with sess := s.sess.map (fun x => match x.send with
      | some z => if z.cell == c && z.fly == f.id then { x with send := none } else x
      | none => x) }
  | _ => s

/-- A command in flight ends without completing: it leaves, its reservations are released, its records and the fault's are
written, and the stream drains to HALTED (R220). -/
def endFly (s : State) (c k : Nat) (f : Fly) (r : ExRec) : State :=
  let s := unwaitClaim (sendEnded (millEnded (stamp s) c f r.cause) c f) c f
  let r := { r with time := s.now }
  let s1 := releaseAcc s c (!f.committed) f.acc
  let s2 := modStrm s1 c k (fun x => { x with fly := x.fly.filter (fun g => g.id ≠ f.id) })
  let s3 := logRecs s2 c k (addRec f.recs r 1)
  drained (beginHalt s3 c k r.cause f.pos f.dec) c k

def faultFly (s : State) (c k : Nat) (f : Fly) (r : ExRec) : State := endFly s c k f { r with faulted := true }

/-- Place in ring order of a command that is about to be taken. -/
def qDec (st : Stream) (q : QCmd) : Nat := if q.dec == 0 then st.decN else q.dec

/-- A command ends at issue: a Mill command's event and tally (R319, R322). -/
def issueEnded (s : State) (c : Nat) (q : QCmd) (cause : Nat) : State :=
  match q.mill with
  | some (g, n) => millFaultEv (stamp s) g n cause c
  | none => stamp s

/-- A command faults at issue: nothing was reserved. -/
def faultIssue (s : State) (c k : Nat) (q : QCmd) (cause unit row col chunk tile : Nat) : State :=
  let s := issueEnded s c q cause
  let st := getStrm s c k
  let r : ExRec := {
    cause := cause, unit := unit, faulted := true, row := row % 65536, col := col % 65536,
    chunk := chunk % 4096, tile := tile, pos := q.pos, step := st.step % 2 ^ 32, time := s.now }
  drained (beginHalt (logRec s c k r) c k cause q.pos (qDec st q)) c k

/-- Some command that stands before a place in ring order has not completed: it is in flight or in the window, it ended, or
an abort took it. -/
def olderOpen (st : Stream) (dec : Nat) : Bool :=
  st.fly.any (fun g => !g.pseudo && g.dec < dec) || st.win.any (fun q => !q.pseudo && q.dec < dec) ||
    (match st.broken with
     | some b => b < dec
     | none => false) ||
    (st.mode == .aborting && st.abid < dec)

/-- Place in ring order of the oldest command that has not completed, one that ended or that an abort took included. -/
def openDec (st : Stream) : Nat :=
  let i := (oldestOf st (fun _ => true)).1
  let j := match st.broken with
    | some b => min b i
    | none => i
  if st.mode == .aborting then min st.abid j else j

/-- A command completed while others stand before it: its position is remembered for R223, as long as one older than it is open. -/
def noteDone (st : Stream) (pos dec : Nat) : Stream :=
  if olderOpen st dec then { st with ahead := (dec, pos) :: st.ahead.filter (fun a => openDec st < a.1) }
  else if st.fly.all (fun g => g.pseudo) && st.mode == .live then { st with ahead := [] } else st

/-- Removes a command that completed. -/
def removeFly (s : State) (c k : Nat) (f : Fly) : State :=
  modStrm s c k (fun x =>
    let x1 := { x with fly := x.fly.filter (fun g => g.id ≠ f.id) }
    if f.pseudo then x1 else noteDone x1 f.pos f.dec)

/-- An event of memory protection: WORD_UNCORRECTABLE with tier (0 bench, 1 larder, 2 HBM), address, step (R249). -/
def raiseUncorr (s : State) (a step : Nat) : State :=
  let tier := match regionOf s a with
    | .bench .. => 0
    | .larder .. => 1
    | _ => 2
  let s := baroAdd (bumpErr s 0x7010 4 1 0x0B15) 2 1
  raise s 0x0B10 ([tier] ++ pb 0 7 ++ pb a 8 ++ pb step 8)

/-- A command read a poisoned word: cause 0x50 in the reading unit, with the address fields of R256. -/
def faultPoison (s : State) (c k : Nat) (f : Fly) (unit tile a : Nat) : State :=
  faultFly (raiseUncorr s a f.step) c k f
    (recOf s f 0x50 unit (a / 2 ^ 32) (a / 2 ^ 16) (a / 16) tile)

end Sys2Proof.Machine
end

