-- ==== Sys2Proof/Machine/Journal.lean ====
section
/-! DEFINITION. The journal region, bank regions and mirrored state, and the writes that are written through (R325, R333, R353-R360). -/
namespace Sys2Proof.Machine

/-- Does a range [a, a+n) meet [b, b+m)? -/
def overlaps (a n b m : Nat) : Bool := a < b + m && b < a + n

/-- Bytes of one journal entry (Table 11-2). -/
def entrySize (s : State) : Nat := 0x02200000 + oget s 0x5402 2 * 0x100000

def journalBase (s : State) : Nat := oget s 0x5402 1

/-- Local address of journal entry p. -/
def entryAddr (s : State) (p : Nat) : Nat := journalBase s + p * entrySize s

def inJournal (s : State) (a n : Nat) : Bool :=
  s.hasJournal && n > 0 && overlaps a n (journalBase s) (2 * entrySize s)

/-- Base of copy p of bank region k, and its size (R333). -/
def bankBase (s : State) (k p : Nat) : Nat := oget s 0x5410 (3 * k + 1 + p)

def bankSize (s : State) (k : Nat) : Nat := oget s 0x5410 (3 * k + 3)

/-- The regions in use. -/
def bankRegions (s : State) : List Nat := (List.range 64).filter (fun k => bankSize s k > 0)

def inCopy (s : State) (k p a n : Nat) : Bool := n > 0 && overlaps a n (bankBase s k p) (bankSize s k)

def inBank (s : State) (a n : Nat) : Bool := (bankRegions s).any (fun k => inCopy s k 0 a n || inCopy s k 1 a n)

/-! Mirrored state (R353-R360). -/

def singleBase (s : State) (k : Nat) : Nat := oget s 0x5803 (3 * k + 1)

def singleSize (s : State) (k : Nat) : Nat := oget s 0x5803 (3 * k + 2)

def singleFlags (s : State) (k : Nat) : Nat := oget s 0x5803 (3 * k + 3)

/-- The single regions declared. -/
def singles (s : State) : List Nat := (List.range 32).filter (fun k => singleSize s k > 0)

/-- The parts of the mirror area in their order: local base and size (R354). -/
def mirrorParts (s : State) : List (Nat × Nat) :=
  ((bankRegions s).filter (fun k => oget s 0x5802 (k + 1) % 2 == 1)).flatMap
      (fun k => [(bankBase s k 0, bankSize s k), (bankBase s k 1, bankSize s k)]) ++
    ((singles s).filter (fun k => singleFlags s k % 2 == 1)).map (fun k => (singleBase s k, singleSize s k)) ++
    [(entryAddr s 0, entrySize s), (entryAddr s 1, entrySize s)]

/-- Offset in the mirror area of a local address of a mirrored part. -/
def mirrorOff (a : Nat) : List (Nat × Nat) → Nat → Option Nat
  | [], _ => none
  | (b, n) :: t, o => if b ≤ a && a < b + n then some (o + (a - b)) else mirrorOff a t (o + n)

/-- The device that holds this device's mirror (R352). -/
def buddyOf (s : State) : Option Nat :=
  match s.plan with
  | some p => if p.buddy == p.dev then none else some p.buddy
  | none => none

/-- The own mirror is ESTABLISHING or ESTABLISHED (R355). -/
def mirrorOn (s : State) : Bool := oget s 0x5800 2 == 1 || oget s 0x5800 2 == 2

/-- The own mirror area that holds the buddy's mirror (R354). -/
def inMirror (s : State) (a n : Nat) : Bool :=
  n > 0 && oget s 0x5801 4 > 0 && overlaps a n (oget s 0x5801 3) (oget s 0x5801 4)

/-- A span lies in state that a front or the write-through covers. -/
def inKept (s : State) (a n : Nat) : Bool :=
  inBank s a n || inJournal s a n || (singles s).any (fun k => n > 0 && overlaps a n (singleBase s k) (singleSize s k))

/-- The step that the write of a remote request counts for: the tee carries the request itself to the shadow, so the write is not
written through to it (R370). -/
def reqStep (s : State) : Nat := (s.tee.bind (fun t => t.first)).getD 0

/-- Remembers a write that has to be written through (R355, R370). -/
def wtTouch (s : State) (step a n : Nat) : State :=
  if (mirrorOn s || s.tee.isSome) && inKept s a n then { s with wtq := s.wtq ++ [⟨a, n, step⟩] } else s

/-- Units of 2 MiB that a running front has not passed and the spans touch (R359). -/
def cowUnits (s : State) (wr : List (Nat × Nat)) : List Nat :=
  (s.fronts.flatMap (fun f => f.units)).filter (fun u => wr.any (fun p => p.2 > 0 && overlaps p.1 p.2 u 0x200000))

/-- The 65,536 words of a unit. -/
def readUnit (s : State) (u : Nat) : List DWord := (List.range 65536).map (fun i => readWord s (u / 32 + i))

/-- A front passes a unit out of its order, its old contents placed in the send buffer (R359). -/
def frontCow (s : State) (u : Nat) (f : Front) : Front :=
  if f.units.contains u then
    { f with units := f.units.filter (fun x => x ≠ u), cow := f.cow ++ [u], pos := f.pos + 1, data := tset f.data u (readUnit s u) }
  else f

/-- A wait for a unit's old contents begins: its read is queued in the order of the waits (R359, R360). -/
def cowEnter (s : State) (u : Nat) : State :=
  if s.cowQ.contains u then s else bumpPerf { s with cowQ := s.cowQ ++ [u] } 0x5800 5 1

/-- Units that copy-on-write holds in the send buffer. -/
def cowHeld (s : State) : Nat := ((s.fronts.flatMap (fun f => f.cow)).eraseDups).length

/-- The copy-on-write half, which holds two units, has room for another: the unit placed first leaves, if need be (R360). -/
def cowRoom (s : State) : State :=
  match s.fronts.flatMap (fun f => f.cow) with
  | u :: _ =>
    if cowHeld s < 2 then s
    else bumpPerf { s with fronts := s.fronts.map (fun f => { f with cow := f.cow.filter (fun x => x ≠ u) }) } 0x5800 9 1
  | [] => s

/-- The read at the head of the queue is done: the unit's old contents are placed, and the wait, of free length, is counted. -/
def cowPlace (s : State) (u : Nat) : State :=
  let (n, s1) := draw { s with cowQ := s.cowQ.drop 1, fronts := s.fronts.map (frontCow s u) }
  let w := n % 2 ^ 32
  oset (bumpPerf s1 0x5800 6 w) 0x5800 7 (max w (oget s1 0x5800 7))

/-- A committed command's write meets a front that began after its commit point: it waits behind the reads queued before its own, each
placed as the half has room (R359, R360, assumption log 119). -/
def cowNow (s : State) (a n : Nat) : State :=
  if s.fronts.isEmpty then s
  else match cowUnits s [(a, n)] with
    | [] => s
    | us =>
      let s1 := us.foldl cowEnter s
      s1.cowQ.foldl (fun s u => cowPlace (cowRoom s) u) s1

def pendLen (w : PendW) : Nat := w.bytes.length + 32 * w.words.length

/-- A write that no command made must wait: a front has not passed a unit it touches, or an older write of its bytes waits. -/
def mustPend (s : State) (a n : Nat) : Bool :=
  !(cowUnits s [(a, n)]).isEmpty || s.pendW.any (fun w => overlaps w.a (pendLen w) a n)

/-- The write itself, written through (R355). -/
def putPend (s : State) (w : PendW) : State :=
  let s1 := w.words.zipIdx.foldl (fun s p => memWriteWord s (w.a + w.bytes.length + 32 * p.2) p.1) (if w.bytes.isEmpty then s else memWrite s w.a w.bytes)
  wtTouch s1 (if w.resp.isSome then reqStep s else 0) w.a (pendLen w)

/-- A write by the Ledger, the host, the bulk transport or another device: it proceeds, or waits until the old contents of the units
it touches have been read (R355, R359). -/
def otherPut (s0 : State) (w : PendW) : State :=
  let s := hbmSeen s0
  if mustPend s w.a (pendLen w) then (cowUnits s [(w.a, pendLen w)]).foldl cowEnter { s with pendW := s.pendW ++ [w] }
  else putPend s w

def otherWrite (s : State) (a : Nat) (bs : List Byte) : State := if bs.isEmpty then s else otherPut s { a := a, bytes := bs }

/-- Whole words with their poison. -/
def wordsWrite (s : State) (a : Nat) (ws : List DWord) : State := if ws.isEmpty then s else otherPut s { a := a, words := ws }

/-- Waiting writes proceed in their order, as far as they may; those that did. -/
def pendStep (s : State) : State × List PendW :=
  s.pendW.foldl (fun (x : State × List PendW) w =>
    if mustPend x.1 w.a (pendLen w) then ((cowUnits x.1 [(w.a, pendLen w)]).foldl cowEnter { x.1 with pendW := x.1.pendW ++ [w] }, x.2)
    else (putPend x.1 w, x.2 ++ [w])) ({ s with pendW := [] }, [])

/-- Memory as a reader that follows the waiting writes sees it. -/
def pendView (s : State) : State := s.pendW.foldl (fun s w => putPend s w) s

end Sys2Proof.Machine
end

