-- ==== Sys2Proof/Machine/Version.lean ====
section
/-! DEFINITION. The version table (R119-R125): acquiring, using and releasing tags, claims, publication. -/
namespace Sys2Proof.Machine

/-- The record of a version-table cause (R135): unit 5, the entry and the micro-batch. -/
def vtRec (s : State) (f : Fly) (cause entry mb key : Nat) : ExRec := recOf s f cause 5 entry mb 0 key

def vtSlotRef (e : VtEntry) (slot : Nat) : Nat := if slot == 0 then e.ref0 else e.ref1

def vtHeld (e : VtEntry) (slot : Nat) : List Nat := if slot == 0 then e.held0 else e.held1

/-- A valid slot that holds a version. -/
def vtSlotOf (e : VtEntry) (ver : Nat) : Option Nat :=
  if e.valid0 && e.ver0 == ver then some 0
  else if e.valid1 && e.ver1 == ver then some 1
  else none

def vtTag (e : VtEntry) (mb : Nat) : Option (Nat × Nat × Nat) := e.tags.find? (fun t => t.1 == mb)

/-- The version is one that the entry's next VPUB can still publish: of an unsealed step that was not
skipped, or of the step the cell's U stream is still in (R120; assumption log 12). -/
def vtComing (s : State) (c ver : Nat) : Bool :=
  s.steps.any (fun t => t.num % 2 ^ 32 == ver && t.verdict != some false) ||
    (let u := getStrm s c 2; u.entered && u.step % 2 ^ 32 == ver && u.step > 0)

/-- What a staged operand's operation answers: go on with the slot, wait, or fault with a cause. -/
inductive VtRes
  | slot (n : Nat)
  | wait
  | fault (cause : Nat)
  deriving DecidableEq, Repr

/-- R120 for one operand, without its effect. -/
def vtCheck (s : State) (c : Nat) (step : Nat) (d : Desc) : VtRes :=
  let e := getVt s c (dEntry d)
  match vtTag e (dMb d) with
  | some (_, slot, _) => if dVop d == 1 then .fault 0x21 else .slot slot
  | none =>
    if dVop d == 1 then
      if !e.en then .fault 0x22
      else
        let ver := (step + 2 ^ 32 - dLag d) % 2 ^ 32
        match vtSlotOf e ver with
        | some n => .slot n
        | none => if vtComing s c ver then .wait else .fault 0x22
    else .fault 0x20

/-- The effect of an ACQUIRE on its entry: the tag, REF and the HELD bit of the step's parity. -/
def vtAcquire (e : VtEntry) (mb slot step : Nat) : VtEntry :=
  let e1 := { e with tags := e.tags ++ [(mb, slot, step)] }
  if slot == 0 then { e1 with ref0 := e1.ref0 + 1, held0 := insertAsc (step % 2) e1.held0 }
  else { e1 with ref1 := e1.ref1 + 1, held1 := insertAsc (step % 2) e1.held1 }

/-- Clears a micro-batch's tag and lowers the slot's REF. -/
def vtRelease (e : VtEntry) (mb : Nat) : VtEntry :=
  match vtTag e mb with
  | none => e
  | some (_, slot, _) =>
    let e1 := { e with tags := e.tags.filter (fun t => t.1 ≠ mb) }
    if slot == 0 then { e1 with ref0 := e1.ref0 - 1 } else { e1 with ref1 := e1.ref1 - 1 }

/-- The base that a staged operand's offset is added to (R119). -/
def vtBase (e : VtEntry) (slot copy : Nat) : Nat :=
  match slot, copy with
  | 0, 0 => e.w0
  | 0, _ => e.t0
  | _, 0 => e.w1
  | _, _ => e.t1

/-- VREL: releases every tag of an entry for a step parity (R120). -/
def vtReleaseAll (e : VtEntry) (par : Nat) : VtEntry :=
  (e.tags.filter (fun t => t.2.2 % 2 == par)).foldl (fun x t => vtRelease x t.1) e

/-- The other slot can be claimed: no micro-batch and no unsealed step holds it (R122). -/
def vtClaimable (e : VtEntry) : Bool :=
  let o := 1 - e.cur
  vtSlotRef e o == 0 && (vtHeld e o).isEmpty

/-- The claim is granted (R122). -/
def vtClaim (e : VtEntry) : VtEntry :=
  let e1 := { e with claimed := true, wait := false }
  if e.cur == 0 then { e1 with valid1 := false } else { e1 with valid0 := false }

/-- PASS-form VPUB (R123). -/
def vtPublish (e : VtEntry) (step : Nat) : VtEntry :=
  if e.cur == 0 then { e with ver1 := step % 2 ^ 32, valid1 := true, cur := 1, claimed := false }
  else { e with ver0 := step % 2 ^ 32, valid0 := true, cur := 0, claimed := false }

/-- R121: a seal clears the HELD bits of its parity. -/
def vtUnhold (e : VtEntry) (par : Nat) : VtEntry :=
  { e with held0 := e.held0.filter (fun p => p ≠ par), held1 := e.held1.filter (fun p => p ≠ par) }

/-- One change of an entry (R120-R123). -/
def vtApply (e : VtEntry) (a : VtAct) : VtEntry :=
  match a with
  | .acquire mb slot step => vtAcquire e mb slot step
  | .release mb => vtRelease e mb
  | .claim => vtClaim e
  | .publish step => vtPublish e step
  | .unhold par => vtUnhold e par

/-- A change of an entry of a snapshot (R330). -/
def vtSnapChange (j : JEntry) (c ent : Nat) (a : VtAct) : JEntry :=
  { j with vtSnap := tset j.vtSnap (64 * c + ent) (vtApply (tget {} j.vtSnap (64 * c + ent)) a) }

/-- VT_CTL of an entry (Table 4-3). -/
def vtCtlNat (e : VtEntry) : Nat :=
  (if e.en then 1 else 0) + 2 * (e.cur % 2) + 4 * (e.ref0 % 128) + 2 ^ 9 * (e.ref1 % 128) +
    (if e.held0.contains 0 then 2 ^ 16 else 0) + (if e.held0.contains 1 then 2 ^ 17 else 0) +
    (if e.held1.contains 0 then 2 ^ 18 else 0) + (if e.held1.contains 1 then 2 ^ 19 else 0) +
    (if e.valid0 then 2 ^ 20 else 0) + (if e.valid1 then 2 ^ 21 else 0) + (if e.claimed then 2 ^ 22 else 0) +
    (if e.wait then 2 ^ 23 else 0)

def vtTagv (e : VtEntry) : Nat := e.tags.foldl (fun a t => a ||| 2 ^ (t.1 % 64)) 0

def vtTags (e : VtEntry) : Nat := e.tags.foldl (fun a t => if t.2.1 == 1 then a ||| 2 ^ (t.1 % 64) else a) 0

/-- A version-table snapshot of one entry: 60 bytes and 4 zeros (R325). -/
def vtSnapBytes (e : VtEntry) : List Byte :=
  natLe (vtCtlNat e) 4 ++ natLe (e.ver0 + 2 ^ 32 * e.ver1) 8 ++ natLe e.w0 8 ++ natLe e.w1 8 ++ natLe e.t0 8 ++ natLe e.t1 8 ++
    natLe (vtTagv e) 8 ++ natLe (vtTags e) 8 ++ natLe 0 4

/-- The snapshot of one entry goes into the journal (R330); a shadow's journal copy is the pattern's to write (R370). -/
def snapWrite (s : State) (p c ent : Nat) : State :=
  if s.hasJournal && !isShadow s then
    otherWrite s (entryAddr s p + 0x10000 + 64 * (64 * c + ent)) (vtSnapBytes (tget {} (tget {} s.jr p).vtSnap (64 * c + ent)))
  else s

/-- Carries a change into the snapshot of every unsealed step that has opened (R125, R330). -/
def vtCarry (s : State) (c ent : Nat) (a : VtAct) : List StepSt → State
  | [] => s
  | t :: ts =>
    let p := t.num % 2
    vtCarry (snapWrite { s with jr := tset s.jr p (vtSnapChange (tget {} s.jr p) c ent a) } p c ent) c ent a ts

/-- A command of step `who` changes an entry; the change is remembered for the snapshots. -/
def vtChange (s : State) (who c ent : Nat) (a : VtAct) : State :=
  let s1 := setVt s c ent (vtApply (getVt s c ent) a)
  match getStep s who with
  | some _ => modStep s1 who (fun t => { t with vtLog := t.vtLog ++ [⟨c, ent, a⟩] })
  | none => vtCarry s1 c ent a (s1.steps.filter (fun u => (tget {} s1.jr (u.num % 2)).opened))

/-- A slot that a command of step `who` claimed or published (R125): what abandoned runs wrote there is over. -/
def vtMark (s : State) (who c ent slot : Nat) : State :=
  modStep { s with steps := s.steps.map (fun t => { t with vtStale := t.vtStale.filter (fun x => x ≠ (c, ent, slot)) }) } who (fun t => { t with vtWrote := (c, ent, slot) :: t.vtWrote })

/-- The physical cell that runs a logical cell (R13-R16). -/
def physOf (s : State) (c : Nat) : Nat := tget (Config.factoryMap c) s.cellMap c

/-- Duty cap by junction band (Table 13-2, rows from below 90 C to trip). -/
def juncCap (b : Nat) : Nat :=
  match b with
  | 0 | 1 => 16
  | 2 => 14
  | 3 => 12
  | 4 => 10
  | 5 => 8
  | 6 => 6
  | 7 => 4
  | _ => 0

/-- Duty cap by neighbour-stack band (Table 13-2). -/
def stackCap (b : Nat) : Nat :=
  match b with
  | 0 | 1 => 16
  | 2 => 12
  | 3 => 10
  | 4 => 8
  | 5 => 6
  | 6 => 4
  | _ => 0

/-- Thermal state by junction band and by stack band (Table 13-2): 0 Fair, 1 Overcast, 2 Squall, 3 Gale. -/
def juncState (b : Nat) : Nat :=
  match b with
  | 0 => 0
  | 1 => 1
  | 7 | 8 => 3
  | _ => 2

def stackState (b : Nat) : Nat :=
  match b with
  | 0 => 0
  | 1 => 1
  | 6 | 7 => 3
  | _ => 2

/-- A cell's weather: the worse of the device power state and its thermal state (R387, R389). -/
def cellWeather (s : State) (c : Nat) : Nat :=
  let p := physOf s c
  max s.alm.pstate (max (juncState (tget (0, 0) s.alm.bands p).1) (stackState (tget (0, 0) s.alm.sbands p).1))

/-- A device duty under the cell's thermal and quarantine caps (R391). -/
def dutyUnder (s : State) (dev c : Nat) : Nat :=
  let p := physOf s c
  if s.alm.tripped then 0
  else min dev (min (min (juncCap (tget (0, 0) s.alm.bands p).1) (stackCap (tget (0, 0) s.alm.sbands p).1))
    (tget 16 s.alm.qcaps p))

/-- d_cell (R391). -/
def cellDuty (s : State) (c : Nat) : Nat := dutyUnder s s.alm.dDev c

end Sys2Proof.Machine
end

