-- ==== Sys2Proof/Machine/Almanac.lean ====
section
/-! DEFINITION. The Almanac (13): power and weather, thermal bands, the duty, PWRCAP_N, the regulator and the gang's
state words. -/
namespace Sys2Proof.Machine

/-! Power (R384, R385, R392). -/

/-- The effective budget B in mW (R385). -/
def almBudget (s : State) : Nat := if s.alm.capped then min s.alm.budget s.alm.fallback else s.alm.budget

/-- An update takes up the budget and the fallback cap; a write to either waits for it (R385). -/
def takeLimits (s : State) : State := { s with alm := { s.alm with budget := 1000 * oget s 0x5000 1, fallback := 1000 * oget s 0x5000 2 } }

/-- P10 in mW: the last update's power. -/
def almP10 (s : State) : Nat := (s.alm.powers.getLast?).getD 0

/-- P100 in mW: the mean of the last ten updates. -/
def almP100 (s : State) : Nat := if s.alm.powers.isEmpty then 0 else s.alm.powers.sum / s.alm.powers.length

/-- The headroom is below n tenths of a percent. -/
def roomBelow (s : State) (n : Nat) : Bool :=
  decide (((almBudget s : Int) - (almP100 s : Int)) * 1000 < (n : Int) * (almBudget s : Int))

/-- The headroom in whole percent, 0 to 100. -/
def roomPct (s : State) : Nat := if almBudget s = 0 then 0 else (almBudget s - almP100 s) * 100 / almBudget s

/-- The emergency duty for a limit of x mW (R392). -/
def emergency (s : State) (x : Nat) : Nat :=
  let l := if s.alm.l16 = 0 then Config.fusedL16 else s.alm.l16
  (max 1 ((16 * (95 * (x : Int) - 100 * (s.alm.pu : Int))) / (100 * (l : Int)))).toNat

/-- The device power of an update's estimates (R384, R404). -/
def almPower (s : State) (uncore sum : Nat) : Nat :=
  let p := uncore + s.alm.kNum * sum / s.alm.kDen
  if s.alm.avsLost then p * 11 / 10 else p

/-! Thermal bands (R387, R388). -/

/-- Lower edges of the bands in 0.1 C (Table 13-2). -/
def juncEdges : List Int := [900, 950, 970, 990, 1010, 1030, 1050, 1150]

def stackEdges : List Int := [850, 950, 970, 990, 1010, 1030, 1050]

def bandOf (edges : List Int) (t : Int) : Nat := (edges.filter (fun e => e ≤ t)).length

/-- A band with its count of better updates after a reading: worse at once, better one band after ten (R388). -/
def bandStep (edges : List Int) (b : Nat × Nat) (t : Int) : Nat × Nat :=
  let raw := bandOf edges t
  if raw ≥ b.1 then (raw, 0)
  else if t + 10 ≤ edges.getD (b.1 - 1) 0 then (if b.2 + 1 ≥ 10 then (b.1 - 1, 0) else (b.1, b.2 + 1))
  else (b.1, 0)

/-- Physical cells that neighbour a stack (Table 8-11). -/
def stackCells (k : Nat) : List Nat :=
  let r (a : Nat) : List Nat := (List.range 6).map (fun i => a + i)
  match k with
  | 0 => r 0
  | 1 => r 5
  | 2 => r 10
  | 3 => r 16
  | 4 => r 21 ++ [64]
  | 5 => r 26 ++ [64]
  | 6 => r 32
  | 7 => r 37
  | 8 => r 42
  | 9 => r 48
  | 10 => r 53 ++ [65]
  | 11 => r 58 ++ [65]
  | _ => []

/-- The hottest stack that a physical cell neighbours. -/
def nearStack (hbms : List Int) (p : Nat) : Option Int :=
  ((List.range 12).filter (fun k => (stackCells k).contains p)).foldl (fun m k =>
    match m, hbms[k]? with
    | some x, some y => some (max x y)
    | none, y => y
    | x, none => x) none

def bandsOf (s : State) (x : AlmIn) : AlmSt :=
  let a := s.alm
  let jb := (List.range 66).map (fun p => (p, match x.junc[p]? with
    | some t => bandStep juncEdges (tget (0, 0) a.bands p) t
    | none => tget (0, 0) a.bands p))
  let sb := (List.range 66).map (fun p => (p, match nearStack x.hbms p with
    | some t => bandStep stackEdges (tget (0, 0) a.sbands p) t
    | none => (0, 0)))
  { a with bands := jb, sbands := sb, cellT := x.junc.zipIdx.map (fun q => (q.2, q.1)),
           stackT := x.hbms.zipIdx.map (fun q => (q.2, q.1)), tjMax := (x.junc ++ x.io).foldl max (x.junc.headD 0) }

/-- Duty caps of quarantined temperature corners that are near or inside their band now (R379); the key of a band is signed. -/
def quarCaps (s : State) : Tab Nat :=
  (s.baro.quar.filter (fun q => q.getD 4 0#8 == 2#8)).filterMap (fun q =>
    let p := (q.getD 0 0#8).toNat
    let k := (q.getD 3 0#8).toInt
    let t : Int := tget 0 s.alm.cellT p
    if 50 * k - 20 ≤ t && t < 50 * k + 50 then some (p, oget s 0x7031 2) else none)

/-! The duty (R391). -/

/-- d_gang as it bounds the duty: 16 with gang convergence disabled. -/
def gangLimit (s : State) : Nat := if oget s 0x5000 3 == 0 then 16 else s.alm.dGang

def dutyTarget (s : State) : Nat := min s.alm.dPwr (min (gangLimit s) s.alm.dCap)

/-- The target without PWRCAP_N's part in it (R400). -/
def openTarget (s : State) : Nat := min s.alm.pwrOpen (gangLimit s)

/-- d_dev falls to its target at once; a rise waits for the ramp. -/
def dutyFall (s : State) : State :=
  { s with alm := { s.alm with dDev := min s.alm.dDev (dutyTarget s), dOpen := min s.alm.dOpen (openTarget s) } }

/-- DUTY_RAMP: one step of the ramp. -/
def dutyRamp (s : State) : State :=
  let up (d t : Nat) : Nat := if d < t then d + 1 else d
  { s with alm := { s.alm with dDev := up s.alm.dDev (dutyTarget s), dOpen := up s.alm.dOpen (openTarget s) } }

/-- The lowest d_cell of any cell, PWRCAP_N's part apart (R400). -/
def lowDuty (s : State) : Nat := (List.range 64).foldl (fun m c => min m (dutyUnder s s.alm.dOpen c)) 16

/-! Weather (R386, R388, R389). -/

/-- Causes of Gale (0x5001:02). -/
def galeCauses (s : State) : Nat :=
  let any (f : Nat → Bool) : Bool := (List.range 64).any (fun c => f (physOf s c))
  (if almBudget s ≤ almP10 s && !s.alm.powers.isEmpty then 1 else 0) + (if s.alm.capped then 2 else 0) +
    (if any (fun p => juncState (tget (0, 0) s.alm.bands p).1 == 3) then 4 else 0) +
    (if any (fun p => stackState (tget (0, 0) s.alm.sbands p).1 == 3) then 8 else 0) + (if s.alm.regWarn then 16 else 0)

/-- The power state that an update finds (R386). -/
def rawState (s : State) : Nat :=
  if s.alm.capped || almBudget s ≤ almP10 s || s.alm.regWarn then 3
  else if roomBelow s 50 then 2
  else if roomBelow s 200 then 1 else 0

/-- Enters or leaves Gale with its event. -/
def setWeather (s : State) (st : Nat) : State :=
  let was := s.alm.pstate
  let s1 := { s with alm := { s.alm with pstate := st, pimp := 0, pworst := 0 } }
  if st == 3 && was != 3 then raise s1 0x0910 [galeCauses s1]
  else if st != 3 && was == 3 then raise s1 0x0911 [] else s1

/-- The power state after an update: worse at once, better after ten that qualify (R388). -/
def weatherStep (s : State) : State :=
  let raw := rawState s
  if raw ≥ s.alm.pstate then
    (if raw == s.alm.pstate then { s with alm := { s.alm with pimp := 0, pworst := 0 } } else setWeather s raw)
  else
    let w := max raw s.alm.pworst
    if s.alm.pimp + 1 ≥ 10 then setWeather s w else { s with alm := { s.alm with pimp := s.alm.pimp + 1, pworst := w } }

/-- d_cap at an update (R398). -/
def capStep (s : State) : State :=
  if !s.alm.capped then s
  else
    let c := s.alm.fallback
    let e := emergency s c
    let d := if s.alm.late then 1 else if 95 * c ≤ 100 * almP10 s then max 1 (min e (s.alm.dCap - 2)) else e
    { s with alm := { s.alm with dCap := d } }

/-- The power controller (Table 13-3). -/
def pwrStep (s : State) : State :=
  let a := s.alm
  let d := match a.pstate with
    | 0 | 1 => 16
    | 2 => if roomBelow s 25 then a.dDev - 1 else a.dDev
    | _ => if almBudget s ≤ almP10 s then max 1 (min (a.dDev - 2) (emergency s (almBudget s))) else a.dPwr
  { s with alm := { a with dPwr := d, pwrOpen := if a.capped then a.pwrOpen else d } }

/-- Thermal trip (R405): the first sensor at its trip temperature: 0 a physical cell, 1 an I/O die, 2 a stack. -/
def tripSensor (x : AlmIn) : Option (Nat × Nat) :=
  match x.junc.findIdx? (fun t => t ≥ 1150), x.io.findIdx? (fun t => t ≥ 1150), x.hbms.findIdx? (fun t => t ≥ 1050) with
  | some i, _, _ => some (0, i)
  | none, some i, _ => some (1, i)
  | none, none, some i => some (2, i)
  | none, none, none => none

def tripStep (s : State) (x : AlmIn) : State :=
  match tripSensor x with
  | some (k, i) => if s.alm.tripped then s else raise { s with alm := { s.alm with tripped := true } } 0x0915 [k, i]
  | none => s

/-- Seconds above 100 C and 95 C count toward falling glass (Table 12-8): 100,000 updates make one. -/
def hotStep (s : State) (x : AlmIn) : State :=
  let j := if s.alm.tjMax > 1000 then s.alm.hotJ + 1 else s.alm.hotJ
  let k := if x.hbms.any (fun t => t > 950) then s.alm.hotS + 1 else s.alm.hotS
  let s1 := { s with alm := { s.alm with hotJ := j % 100000, hotS := k % 100000 } }
  baroAdd (baroAdd s1 7 (j / 100000)) 8 (k / 100000)

/-- What the update adds to the sums of the forecast (R400). -/
def sumStep (s : State) : State :=
  let a := s.alm
  { s with alm := { a with puSum := a.puSum + a.pu, l16Sum := a.l16Sum + (if a.l16 = 0 then Config.fusedL16 else a.l16),
                           dSum := a.dSum + lowDuty s, cnt := a.cnt + 1 } }

/-- The measured figures of an update. -/
def almTake (a : AlmSt) (x : AlmIn) (p : Nat) : AlmSt :=
  let a1 := { a with powers := (a.powers ++ [p]).drop (a.powers.length + 1 - 10) }
  let a2 := { a1 with sums := (a.sums ++ [x.cells.sum]).drop (a.sums.length + 1 - 10) }
  { a2 with pu := x.pu, l16 := x.l16, cellP := x.cells.zipIdx.map (fun (q : Nat × Nat) => (q.2, q.1)) }

/-- A state word is due on every port (R266). -/
def stateDue (s : State) : State :=
  { s with ports := s.ports.map (fun (p : Nat × Port) => (p.1, { p.2 with stateDue := true })) }

/-- AVS_LOST: three transactions have failed in a row, or no valid reading has come for 1 ms (R404). -/
def avsWatch (s : State) : State :=
  if !s.alm.avsLost && (s.alm.avsFail ≥ 3 || s.alm.avsAt + 1000000 ≤ s.now) then
    raise { s with alm := { s.alm with avsLost := true } } 0x0913 []
  else s

/-- ALMANAC_UPDATE: every 10 us (R383-R392). -/
def almanacUpdate (s0 : State) (x : AlmIn) : State :=
  let s := takeLimits (stateDue (stamp s0))
  let s1 := { s with alm := almTake (bandsOf s x) x (almPower s x.uncore x.cells.sum) }
  let s2 := { s1 with alm := { s1.alm with qcaps := quarCaps s1 } }
  let s3 := dutyFall (pwrStep (weatherStep (capStep s2)))
  avsWatch (bumpPerf (sumStep (hotStep (tripStep s3 x) x)) 0x5002 (s3.alm.pstate + 1) 1)

/-! PWRCAP_N (R397-R399). -/

/-- PWRCAP_ASSERT: recognised low. -/
def pwrcapAssert (s : State) : State :=
  if s.alm.capped then s
  else
    let s1 := bumpPerf { s with alm := { s.alm with capped := true, late := false } } 0x5002 5 1
    let s2 := { s1 with alm := { s1.alm with dCap := emergency s1 s1.alm.fallback, pstate := 3, pimp := 0, pworst := 0 } }
    dutyFall (raise s2 0x0910 [galeCauses s2])

/-- PWRCAP_LATE: 1 ms after the assertion P100 is still at or above the fallback cap. -/
def pwrcapLate (s : State) : State :=
  if s.alm.capped && !s.alm.late && s.alm.fallback ≤ almP100 s then
    let s1 := bumpErr (raise { s with alm := { s.alm with late := true, dCap := 1 } } 0x0912 []) 0x5002 6 1 0x0916
    dutyFall s1
  else s

/-- PWRCAP_RELEASE: recognised high. -/
def pwrcapRelease (s : State) : State :=
  if s.alm.capped then dutyFall { s with alm := { s.alm with capped := false, late := false, dCap := 16 } } else s

/-! The regulator (R384, R403, R404). -/

/-- AVS_READ: one reading of voltage in mV, current in mA and the warning bit, or a failed transaction. -/
def avsRead (s0 : State) (ok : Bool) (mv ma : Nat) (warn : Bool) : State :=
  let s := stamp s0
  if !ok then avsWatch (bumpErr { s with alm := { s.alm with avsFail := s.alm.avsFail + 1 } } 0x5002 8 1 0x0916)
  else
    let est := if s.alm.sums.isEmpty then 0 else s.alm.sums.sum / s.alm.sums.length
    let a := { s.alm with avsFail := 0, avsLost := false, regWarn := warn, avsAt := s.now }
    let a1 := if est = 0 then a else { a with kNum := mv * ma / 1000, kDen := est }
    let s1 := oset (oset { s with alm := a1 } 0x5001 0x0B mv) 0x5001 0x0C (ma / 1000)
    if s.alm.avsLost then raise s1 0x0914 [] else s1

/-- The core voltage target with the offset, as an AVSBus command (R403). -/
def avsTarget (s : State) : Nat := ((Config.fusedMv : Int) + sInt 32 (oget s 0x5000 7)).toNat

/-- An offset that waits is written at a seal (R403). -/
def avsSeal (s : State) : State :=
  if s.alm.mvDue then emit { s with alm := { s.alm with mvDue := false } } (.avs (avsTarget s)) else s

/-- GALE_HOLD_RELIEF: a command held in Gale for the hold bound may issue (R395, R398). -/
def galeRelief (s : State) (c k : Nat) : State :=
  if (getStrm s c k).held && !s.alm.late && oget s 0x5000 5 != 0 && cellWeather s c == 3 then
    bumpPerf (modStrm s c k (fun x => { x with relieved := true })) 0x5002 7 1
  else s

/-! State words (R266, R401, Table 13-7). -/

/-- A temperature as a 16-bit two's complement number. -/
def i16 (t : Int) : Nat := (t % 65536).toNat

def i32 (t : Int) : Nat := (t % 2 ^ 32).toNat

/-- The state word that a port sends. -/
def stateWord (s : State) : List Byte :=
  let a := s.alm
  natLe 1 1 ++ natLe 1 1 ++ natLe a.pstate 1 ++ natLe a.dDev 1 ++ natLe a.gangStep 4 ++ natLe a.frozen 1 ++ natLe a.gang 1 ++
    natLe a.gangDev 2 ++ natLe (roomPct s) 1 ++ natLe (i16 a.tjMax) 2 ++ List.replicate 17 0#8

/-- A state word that has come on an ACTIVE port: the gang value for its step falls to the lower one (R401); before the first freeze
there is none. One with a reserved byte set is malformed (R5). A value frozen before the last one, whose step has not been sealed for
yet, is kept and lowered in the same way (assumption log 150). -/
def stateWordIn (s : State) (bs : List Byte) : State :=
  let g := (bs.getD 9 0#8).toNat
  let o := leNat (lslice bs 10 2)
  let a := s.alm
  if bs.getD 0 0#8 != 1#8 || bs.getD 1 0#8 != 1#8 || a.gangStep == 0 ||
      (lslice bs 15 17).any (fun b => b != 0#8) then s
  else if leNat (lslice bs 4 4) == a.gangStep % 2 ^ 32 then
    (if g < a.gang || (g == a.gang && o < a.gangDev) then { s with alm := { a with gang := g, gangDev := o } } else s)
  else match a.before with
    | some v =>
      if leNat (lslice bs 4 4) == v.step % 2 ^ 32 && (g < v.gang || (g == v.gang && o < v.dev)) then
        { s with alm := { a with before := some { v with gang := g, dev := o } } }
      else s
    | none => s

end Sys2Proof.Machine
end

