-- ==== Sys2Proof/Machine/Crypto.lean ====
section
/-! DEFINITION. The algorithms the manual names (R326, R408-R411, R414, R427, R429, R484): SHA-256 (FIPS 180-4), HMAC and
HKDF (RFC 2104, RFC 5869), AES-256-GCM (FIPS 197, SP 800-38D), ECDH and ECDSA on P-256 (FIPS 186-5). -/
namespace Sys2Proof.Machine

/-! Byte strings. -/

/-- Big-endian bytes to a number. -/
def beNat (l : List Byte) : Nat := leNat l.reverse

/-- The low n bytes of a number, big-endian. -/
def natBe (v n : Nat) : List Byte := (natLe v n).reverse

def zeros (n : Nat) : List Byte := List.replicate n 0#8

/-- ASCII bytes of a label. -/
def ascii (t : String) : List Byte := t.toList.map (fun ch => BitVec.ofNat 8 ch.toNat)

def xorBytes : List Byte → List Byte → List Byte
  | a :: s, b :: t => (a ^^^ b) :: xorBytes s t
  | _, _ => []

/-- Pieces of n bytes; the first argument bounds their number. -/
def blocksOf (n : Nat) : Nat → List Byte → List (List Byte)
  | 0, _ => []
  | fuel + 1, l => if l.isEmpty then [] else l.take n :: blocksOf n fuel (l.drop n)

/-! SHA-256. -/

def shaK0 : List Word :=
  [0x428a2f98#32, 0x71374491#32, 0xb5c0fbcf#32, 0xe9b5dba5#32, 0x3956c25b#32, 0x59f111f1#32, 0x923f82a4#32, 0xab1c5ed5#32,
   0xd807aa98#32, 0x12835b01#32, 0x243185be#32, 0x550c7dc3#32, 0x72be5d74#32, 0x80deb1fe#32, 0x9bdc06a7#32, 0xc19bf174#32]

def shaK1 : List Word :=
  [0xe49b69c1#32, 0xefbe4786#32, 0x0fc19dc6#32, 0x240ca1cc#32, 0x2de92c6f#32, 0x4a7484aa#32, 0x5cb0a9dc#32, 0x76f988da#32,
   0x983e5152#32, 0xa831c66d#32, 0xb00327c8#32, 0xbf597fc7#32, 0xc6e00bf3#32, 0xd5a79147#32, 0x06ca6351#32, 0x14292967#32]

def shaK2 : List Word :=
  [0x27b70a85#32, 0x2e1b2138#32, 0x4d2c6dfc#32, 0x53380d13#32, 0x650a7354#32, 0x766a0abb#32, 0x81c2c92e#32, 0x92722c85#32,
   0xa2bfe8a1#32, 0xa81a664b#32, 0xc24b8b70#32, 0xc76c51a3#32, 0xd192e819#32, 0xd6990624#32, 0xf40e3585#32, 0x106aa070#32]

def shaK3 : List Word :=
  [0x19a4c116#32, 0x1e376c08#32, 0x2748774c#32, 0x34b0bcb5#32, 0x391c0cb3#32, 0x4ed8aa4a#32, 0x5b9cca4f#32, 0x682e6ff3#32,
   0x748f82ee#32, 0x78a5636f#32, 0x84c87814#32, 0x8cc70208#32, 0x90befffa#32, 0xa4506ceb#32, 0xbef9a3f7#32, 0xc67178f2#32]

def shaK : List Word := shaK0 ++ shaK1 ++ shaK2 ++ shaK3

def shaInit : List Word :=
  [0x6a09e667#32, 0xbb67ae85#32, 0x3c6ef372#32, 0xa54ff53a#32, 0x510e527f#32, 0x9b05688c#32, 0x1f83d9ab#32, 0x5be0cd19#32]

def shaS (x : Word) (a b c : Nat) : Word := x.rotateRight a ^^^ x.rotateRight b ^^^ x.rotateRight c

def shaG (x : Word) (a b c : Nat) : Word := x.rotateRight a ^^^ x.rotateRight b ^^^ (x >>> c)

/-- The message schedule, newest word first. -/
def shaSched : Nat → List Word → List Word
  | 0, w => w
  | n + 1, w =>
    let g (i : Nat) : Word := w.getD i 0#32
    shaSched n ((shaG (g 1) 17 19 10 + g 6 + shaG (g 14) 7 18 3 + g 15) :: w)

def shaRound (v : List Word) (kw : Word × Word) : List Word :=
  match v with
  | [a, b, c, d, e, f, g, h] =>
    let t1 := h + shaS e 6 11 25 + ((e &&& f) ^^^ ((~~~e) &&& g)) + kw.1 + kw.2
    let t2 := shaS a 2 13 22 + ((a &&& b) ^^^ (a &&& c) ^^^ (b &&& c))
    [t1 + t2, a, b, c, d + t1, e, f, g]
  | v => v

def zipAdd : List Word → List Word → List Word
  | a :: s, b :: t => (a + b) :: zipAdd s t
  | _, _ => []

def shaBlock (h : List Word) (blk : List Byte) : List Word :=
  let w0 := (blocksOf 4 16 blk).map (fun b => BitVec.ofNat 32 (beNat b))
  let w := (shaSched 48 w0.reverse).reverse
  zipAdd h ((shaK.zip w).foldl shaRound h)

def sha256 (m : List Byte) : List Byte :=
  let n := m.length
  let p := m ++ [0x80#8] ++ zeros ((119 - n % 64) % 64) ++ natBe (8 * n) 8
  ((blocksOf 64 (n / 64 + 2) p).foldl shaBlock shaInit).flatMap (fun w => natBe w.toNat 4)

/-! HMAC and HKDF. -/

def hmac (key m : List Byte) : List Byte :=
  let k0 := if key.length > 64 then sha256 key else key
  let k := k0 ++ zeros (64 - k0.length)
  sha256 (k.map (fun b => b ^^^ 0x5c#8) ++ sha256 (k.map (fun b => b ^^^ 0x36#8) ++ m))

def hkdfExtract (salt ikm : List Byte) : List Byte := hmac (if salt.isEmpty then zeros 32 else salt) ikm

def hkdfLoop (prk info : List Byte) : Nat → Nat → List Byte → List Byte
  | 0, _, _ => []
  | n + 1, i, t =>
    let t1 := hmac prk (t ++ info ++ [BitVec.ofNat 8 i])
    t1 ++ hkdfLoop prk info n (i + 1) t1

def hkdfExpand (prk info : List Byte) (len : Nat) : List Byte := (hkdfLoop prk info ((len + 31) / 32) 1 []).take len

def hkdf (salt ikm info : List Byte) (len : Nat) : List Byte := hkdfExpand (hkdfExtract salt ikm) info len

/-! AES-256. -/

def aesXt (a : Nat) : Nat := if a ≥ 128 then ((2 * a) % 256) ^^^ 0x1b else 2 * a

def aesMulAux : Nat → Nat → Nat → Nat → Nat
  | 0, _, _, acc => acc
  | n + 1, a, b, acc => aesMulAux n (aesXt a) (b / 2) (if b % 2 == 1 then acc ^^^ a else acc)

def aesMul (a b : Nat) : Nat := aesMulAux 8 a b 0

/-- a^254 in GF(2^8) modulo 0x11B. -/
def aesInv (a : Nat) : Nat := (List.range 7).foldl (fun (p : Nat × Nat) _ =>
  let sq := aesMul p.2 p.2
  (aesMul p.1 sq, sq)) (1, a) |>.1

def rotl8 (x k : Nat) : Nat := (x * 2 ^ k) % 256 + x / 2 ^ (8 - k)

def aesSubOf (a : Nat) : Nat :=
  let b := aesInv a
  b ^^^ rotl8 b 1 ^^^ rotl8 b 2 ^^^ rotl8 b 3 ^^^ rotl8 b 4 ^^^ 0x63

def aesBox : List Nat := (List.range 256).map aesSubOf

def aesSub (box : List Nat) (a : Nat) : Nat := box.getD a 0

def xorL : List Nat → List Nat → List Nat
  | a :: s, b :: t => (a ^^^ b) :: xorL s t
  | _, _ => []

/-- The key schedule, newest word first. -/
def aesSched (box : List Nat) : Nat → Nat → Nat → List (List Nat) → List (List Nat)
  | 0, _, _, ws => ws
  | n + 1, i, rc, ws =>
    let t := ws.getD 0 []
    let old := ws.getD 7 []
    let sub (l : List Nat) : List Nat := l.map (aesSub box)
    if i % 8 == 0 then
      let r := sub (t.drop 1 ++ t.take 1)
      aesSched box n (i + 1) (aesXt rc) (xorL old (xorL r [rc, 0, 0, 0]) :: ws)
    else if i % 8 == 4 then aesSched box n (i + 1) rc (xorL old (sub t) :: ws)
    else aesSched box n (i + 1) rc (xorL old t :: ws)

/-- The 15 round keys of a 256-bit key. -/
def aesKeys (box : List Nat) (key : List Byte) : List (List Nat) :=
  let k0 := (blocksOf 4 8 key).map (fun b => b.map BitVec.toNat)
  let ws := (aesSched box 52 8 1 k0.reverse).reverse
  (List.range 15).map (fun i => (lslice ws (4 * i) 4).flatMap id)

def aesShift (st : List Nat) : List Nat :=
  (List.range 16).map (fun i => st.getD ((i + 4 * (i % 4)) % 16) 0)

def aesMix (st : List Nat) : List Nat :=
  (List.range 4).flatMap (fun c =>
    let g (i : Nat) : Nat := st.getD (4 * c + i % 4) 0
    (List.range 4).map (fun r => aesXt (g r) ^^^ (aesXt (g (r + 1)) ^^^ g (r + 1)) ^^^ g (r + 2) ^^^ g (r + 3)))

def aesRounds (box : List Nat) : List (List Nat) → List Nat → List Nat
  | [], st => st
  | [k], st => xorL (aesShift (st.map (aesSub box))) k
  | k :: ks, st => aesRounds box ks (xorL (aesMix (aesShift (st.map (aesSub box)))) k)

/-- One AES-256 block under expanded keys. -/
def aesEnc (box : List Nat) (rk : List (List Nat)) (blk : List Byte) : List Byte :=
  (aesRounds box (rk.drop 1) (xorL (blk.map BitVec.toNat) (rk.getD 0 []))).map (BitVec.ofNat 8)

/-! GCM. -/

/-- Multiplication in GF(2^128) in GCM's bit order, both as big-endian numbers. -/
def ghMul : Nat → Nat → Nat → Nat → Nat
  | 0, _, _, z => z
  | n + 1, x, v, z =>
    let z1 := if x / 2 ^ n % 2 == 1 then z ^^^ v else z
    ghMul n x (if v % 2 == 1 then (v / 2) ^^^ (0xe1 * 2 ^ 120) else v / 2) z1

def padTo16 (l : List Byte) : List Byte := l ++ zeros ((16 - l.length % 16) % 16)

def ghash (h : Nat) (d : List Byte) : Nat :=
  (blocksOf 16 (d.length / 16 + 1) d).foldl (fun y b => ghMul 128 (y ^^^ beNat b) h 0) 0

/-- The counter stream over data from a block on. -/
def gctr (box : List Nat) (rk : List (List Nat)) (j : List Byte) : Nat → List (List Byte) → List Byte
  | _, [] => []
  | i, b :: bs =>
    let ctr := (beNat (j.drop 12) + i) % 2 ^ 32
    xorBytes b (aesEnc box rk (j.take 12 ++ natBe ctr 4)) ++ gctr box rk j (i + 1) bs

/-- Ciphertext and tag under AES-256-GCM with a 12-byte IV. -/
def gcmSeal (key iv aad pt : List Byte) : List Byte × List Byte :=
  let box := aesBox
  let rk := aesKeys box key
  let h := beNat (aesEnc box rk (zeros 16))
  let j0 := iv ++ natBe 1 4
  let ct := gctr box rk j0 1 (blocksOf 16 (pt.length / 16 + 1) pt)
  let s := ghash h (padTo16 aad ++ padTo16 ct ++ natBe (8 * aad.length) 8 ++ natBe (8 * ct.length) 8)
  (ct, xorBytes (natBe s 16) (aesEnc box rk j0))

/-- The plaintext, when the tag is right. -/
def gcmOpen (key iv aad ct tag : List Byte) : Option (List Byte) :=
  let box := aesBox
  let rk := aesKeys box key
  let h := beNat (aesEnc box rk (zeros 16))
  let j0 := iv ++ natBe 1 4
  let s := ghash h (padTo16 aad ++ padTo16 ct ++ natBe (8 * aad.length) 8 ++ natBe (8 * ct.length) 8)
  if xorBytes (natBe s 16) (aesEnc box rk j0) == tag then some (gctr box rk j0 1 (blocksOf 16 (ct.length / 16 + 1) ct))
  else none

/-! P-256. -/

def p256p : Nat := 0xffffffff00000001000000000000000000000000ffffffffffffffffffffffff
def p256n : Nat := 0xffffffff00000000ffffffffffffffffbce6faada7179e84f3b9cac2fc632551
def p256b : Nat := 0x5ac635d8aa3a93e7b3ebbd55769886bc651d06b0cc53b0f63bce3c3e27d2604b
def p256g : Nat × Nat :=
  (0x6b17d1f2e12c4247f8bce6e563a440f277037d812deb33a0f4a13945d898c296,
   0x4fe342e2fe1a7f9b8ee7eb4a7c0f9e162bce33576b315ececbb6406837bf51f5)

/-- a^e modulo m, over the low k bits of e. -/
def powMod (m a : Nat) : Nat → Nat → Nat
  | 0, _ => 1
  | k + 1, e =>
    let h := powMod m a k (e / 2)
    let q := h * h % m
    if e % 2 == 1 then q * a % m else q

def invMod (m a : Nat) : Nat := powMod m a 256 (m - 2)

/-- Affine points; none is the point at infinity. -/
abbrev Pt := Option (Nat × Nat)

def ptAdd (a b : Pt) : Pt :=
  match a, b with
  | none, q => q
  | p, none => p
  | some (x1, y1), some (x2, y2) =>
    if x1 == x2 && (y1 + y2) % p256p == 0 then none
    else
      let l := if x1 == x2 then (3 * x1 * x1 + p256p - 3) * invMod p256p (2 * y1 % p256p) % p256p
        else (y2 + p256p - y1) * invMod p256p ((x2 + p256p - x1) % p256p) % p256p
      let x3 := (l * l + 2 * p256p - x1 - x2) % p256p
      some (x3, (l * ((x1 + p256p - x3) % p256p) + p256p - y1) % p256p)

/-- Projective points (x / z^2, y / z^3); z = 0 is the point at infinity. -/
structure Jac where
  x : Nat
  y : Nat
  z : Nat
  deriving DecidableEq, Repr

/-- a - b modulo p, for b below p. -/
def subP (a b : Nat) : Nat := (a + p256p - b) % p256p

def jacDbl (q : Jac) : Jac :=
  let d := q.z * q.z % p256p
  let g := q.y * q.y % p256p
  let b := q.x * g % p256p
  let a := 3 * (subP q.x d * (q.x + d)) % p256p
  let x3 := subP (a * a) (8 * b % p256p)
  ⟨x3, subP (a * subP (4 * b) x3) (8 * g * g % p256p), 2 * q.y * q.z % p256p⟩

/-- The sum of a projective point and an affine one. -/
def jacAdd (q : Jac) (x2 y2 : Nat) : Jac :=
  let zz := q.z * q.z % p256p
  let h := subP (x2 * zz) q.x
  let r := subP (y2 * (q.z * zz % p256p)) q.y
  if q.z == 0 then ⟨x2, y2, 1⟩
  else if h == 0 then (if r == 0 then jacDbl q else ⟨1, 1, 0⟩)
  else
    let hh := h * h % p256p
    let hhh := h * hh % p256p
    let v := q.x * hh % p256p
    let x3 := subP (r * r) ((hhh + 2 * v) % p256p)
    ⟨x3, subP (r * subP v x3) (q.y * hhh % p256p), q.z * h % p256p⟩

/-- k times an affine point, over the low n bits of k. -/
def jacMul (x y : Nat) : Nat → Nat → Jac
  | 0, _ => ⟨1, 1, 0⟩
  | n + 1, k => if k % 2 == 1 then jacAdd (jacDbl (jacMul x y n (k / 2))) x y else jacDbl (jacMul x y n (k / 2))

/-- k times a point, over the low n bits of k. -/
def ptMul (q : Pt) (n k : Nat) : Pt :=
  match q with
  | none => none
  | some (x, y) =>
    let j := jacMul x y n k
    if j.z == 0 then none
    else
      let i := invMod p256p j.z
      let ii := i * i % p256p
      some (j.x * ii % p256p, j.y * (i * ii % p256p) % p256p)

/-- The point of a 64-byte public key, x then y; none when it is not on the curve. -/
def ptOf (pub : List Byte) : Pt :=
  let x := beNat (pub.take 32)
  let y := beNat (lslice pub 32 32)
  if pub.length == 64 && x < p256p && y < p256p && (y * y) % p256p == (x * x * x + (p256p - 3) * x + p256b) % p256p then
    some (x, y)
  else none

def ptBytes (q : Pt) : List Byte :=
  match q with
  | some (x, y) => natBe x 32 ++ natBe y 32
  | none => zeros 64

def p256Pub (d : Nat) : List Byte := ptBytes (ptMul (some p256g) 256 d)

/-- The x-coordinate of the shared point; none for a public key that is not on the curve. -/
def ecdh (d : Nat) (pub : List Byte) : Option (List Byte) :=
  match ptOf pub with
  | none => none
  | q => (ptMul q 256 d).map (fun p => natBe p.1 32)

/-- ECDSA with SHA-256; the per-message secret is an argument. -/
def ecdsaSign (d : Nat) (m : List Byte) (k0 : Nat) : List Byte :=
  let k := k0 % (p256n - 1) + 1
  let z := beNat (sha256 m)
  let r := match ptMul (some p256g) 256 k with
    | some (x, _) => x % p256n
    | none => 0
  let s := invMod p256n k * ((z + r * d) % p256n) % p256n
  natBe r 32 ++ natBe s 32

def ecdsaOk (pub m sig : List Byte) : Bool :=
  match ptOf pub with
  | none => false
  | q =>
    let r := beNat (sig.take 32)
    let s := beNat (lslice sig 32 32)
    if sig.length != 64 || r == 0 || s == 0 || r ≥ p256n || s ≥ p256n then false
    else
      let w := invMod p256n s
      let z := beNat (sha256 m)
      match ptAdd (ptMul (some p256g) 256 (z * w % p256n)) (ptMul q 256 (r * w % p256n)) with
      | some (x, _) => x % p256n == r
      | none => false

/-! The Locksmith's keys (R409, R410). -/

def serialBytes : List Byte := natLe Config.serial.toNat 16

/-- A private key derived from a root secret under a label. -/
def deriveKey (drs : BitVec 256) (label : String) : Nat :=
  beNat (hkdfExpand (hkdfExtract serialBytes (natBe drs.toNat 32)) (ascii label) 40) % (p256n - 1) + 1

/-- At reset the DRS is rebuilt, and IDK and DEK are derived from it (R416). -/
def rebuildKeys (s : State) : State :=
  { s with lock := { s.lock with drs := some Config.drs, idk := deriveKey Config.drs "RLM4-IDK", dek := deriveKey Config.drs "RLM4-DEK" } }

/-- The device's own identity (R283): its public key and its identity digest. -/
def idKey (s : State) : List Byte := p256Pub s.lock.idk

def idDigest (s : State) : List Byte := sha256 (idKey s)

/-- A signature by IDK. Its secret number is no output of the DRBG (R412): a free value. -/
def idkSign (s : State) (m : List Byte) : List Byte × State :=
  let (k, s1) := draw s
  (ecdsaSign s.lock.idk m (k % (p256n - 1) + 1), s1)

/-! The CTR_DRBG of SP 800-90A with AES-256 (R412), without a derivation function (assumption log 152). -/

/-- n blocks of output after a counter block. -/
def drbgBlocks (key : BitVec 256) (v : BitVec 128) (n : Nat) : List Byte :=
  let box := aesBox
  let rk := aesKeys box (natBe key.toNat 32)
  (List.range n).flatMap (fun i => aesEnc box rk (natBe (v.toNat + i + 1) 16))

/-- The update function with 48 bytes: three blocks of output and they make the new key and counter block. -/
def drbgUpdate (key : BitVec 256) (v : BitVec 128) (d : List Byte) : Drbg :=
  let t := xorBytes (drbgBlocks key v 3) d
  { key := BitVec.ofNat 256 (beNat (t.take 32)), v := BitVec.ofNat 128 (beNat (t.drop 32)) }

/-- Seeding at reset (from a zero key), or reseeding: 48 bytes of the entropy source, which are free. -/
def drbgSeed (s : State) (g : Drbg) : State :=
  let (e, s1) := draw s
  { s1 with lock := { s1.lock with drbg := drbgUpdate g.key g.v (natLe e 48) } }

/-- One request for n bytes; after 2^20 requests the generator is first reseeded. -/
def drbgBytes (s : State) (n : Nat) : List Byte × State :=
  let s1 := if s.lock.drbg.cnt ≥ 2 ^ 20 then drbgSeed s s.lock.drbg else s
  let g := s1.lock.drbg
  let k := (n + 15) / 16
  let q := drbgUpdate g.key (g.v + BitVec.ofNat 128 k) (zeros 48)
  ((drbgBlocks g.key g.v k).take n, { s1 with lock := { s1.lock with drbg := { q with cnt := g.cnt + 1 } } })

/-- A fresh ephemeral ECDH private key from 40 bytes of the DRBG. -/
def drbgKey (s : State) : Nat × State :=
  let (b, s1) := drbgBytes s 40
  (beNat b % (p256n - 1) + 1, s1)

/-! The certificate chain of SPDM slot 0 (R413), in DER, as X.509 writes it (assumption log 153). -/

/-- A DER element. -/
def der (tag : Byte) (b : List Byte) : List Byte :=
  tag :: (if b.length < 128 then natBe b.length 1 else if b.length < 256 then 0x81#8 :: natBe b.length 1 else 0x82#8 :: natBe b.length 2) ++ b

/-- A 32-byte number as a DER integer. -/
def derInt (b : List Byte) : List Byte :=
  let m := b.dropWhile (fun x => x == 0#8)
  der 0x02#8 (if (m.getD 0 0#8).toNat ≥ 128 || m.isEmpty then 0#8 :: m else m)

/-- A P-256 public key as a certificate's subject public key. -/
def derKey (pub : List Byte) : List Byte :=
  der 0x30#8 (der 0x30#8 (der 0x06#8 [0x2A#8, 0x86#8, 0x48#8, 0xCE#8, 0x3D#8, 2#8, 1#8] ++
    der 0x06#8 [0x2A#8, 0x86#8, 0x48#8, 0xCE#8, 0x3D#8, 3#8, 1#8, 7#8]) ++ der 0x03#8 ([0#8, 4#8] ++ pub))

/-- A certificate: what is signed, the algorithm (ECDSA with SHA-256), and the issuer's signature. -/
def certOf (i : Nat) (pub : List Byte) (issuer : Nat) : List Byte :=
  let p := Config.certParts i
  let tbs := der 0x30#8 (p.1 ++ derKey pub ++ p.2)
  let sig := ecdsaSign issuer tbs (Config.certNonce i % (p256n - 1) + 1)
  der 0x30#8 (tbs ++ der 0x30#8 (der 0x06#8 [0x2A#8, 0x86#8, 0x48#8, 0xCE#8, 0x3D#8, 4#8, 3#8, 2#8]) ++
    der 0x03#8 (0#8 :: der 0x30#8 (derInt (sig.take 32) ++ derInt (sig.drop 32))))

/-- An issuer's private key as a scalar of the group. -/
def issuerKey (i : Nat) : Nat := Config.issuerKey i % (p256n - 1) + 1

/-- Root first: the root's and the product CA's certificates in ROM, and the device's in one-time-programmable storage, which the
product CA signed at manufacture over the IDK public key. -/
def certChain : List Byte :=
  certOf 0 (p256Pub (issuerKey 0)) (issuerKey 0) ++ certOf 1 (p256Pub (issuerKey 1)) (issuerKey 0) ++
    certOf 2 (p256Pub (deriveKey Config.drs "RLM4-IDK")) (issuerKey 1)

end Sys2Proof.Machine
end

