-- ==== Sys2Proof/Machine/Codes.lean ====
section
/-! DEFINITION. The codes of the manual: CRC-32 (Table 9-3, R159), GF(2^8) and the Reed-Solomon codes of the
word code (R247) and of the Sweul lanes (R263). -/
namespace Sys2Proof.Machine

/-- One step of the reflected CRC-32 of IEEE 802.3. -/
def crcBit (c : Nat) : Nat := if c % 2 == 1 then (c / 2) ^^^ 0xEDB88320 else c / 2

def crcByte (c : Nat) (b : Byte) : Nat := (List.range 8).foldl (fun c _ => crcBit c) (c ^^^ b.toNat)

/-- CRC-32 with the IEEE 802.3 polynomial. -/
@[irreducible] def crc32 (bs : List Byte) : Nat := (bs.foldl crcByte 0xFFFFFFFF) ^^^ 0xFFFFFFFF

/-- Product in GF(2^8) with the polynomial x^8 + x^4 + x^3 + x^2 + 1 (R247). -/
def gfMulAux : Nat → Nat → Nat → Nat → Nat
  | 0, _, _, acc => acc
  | n + 1, a, b, acc =>
    let a2 := if a ≥ 128 then (2 * a) ^^^ 0x11D else 2 * a
    gfMulAux n a2 (b / 2) (if b % 2 == 1 then acc ^^^ a else acc)

def gfMul (a b : Nat) : Nat := gfMulAux 8 a b 0

def gfPow (a : Nat) : Nat → Nat
  | 0 => 1
  | n + 1 => gfMul a (gfPow a n)

/-- The inverse of a nonzero element; 0 for 0. -/
def gfInv (a : Nat) : Nat := gfPow a 254

/-- alpha to the n, alpha = 0x02. -/
def gfAlpha (n : Nat) : Nat := gfPow 2 (n % 255)

/-- A polynomial, highest coefficient first, at a point. -/
def gfEval (p : List Nat) (x : Nat) : Nat := p.foldl (fun acc c => gfMul acc x ^^^ c) 0

def xorLists : List Nat → List Nat → List Nat
  | [], b => b
  | a, [] => a
  | x :: a, y :: b => (x ^^^ y) :: xorLists a b

/-- The generator polynomial with roots alpha^0 to alpha^(p-1), highest coefficient first. -/
def rsGen : Nat → List Nat
  | 0 => [1]
  | p + 1 => let g := rsGen p; xorLists (g ++ [0]) (0 :: g.map (gfMul (gfAlpha p)))

/-- One data symbol through the division by a generator polynomial. -/
def rsStep (g : List Nat) (st : List Nat) (d : Nat) : List Nat :=
  let fb := d ^^^ st.headD 0
  xorLists (st.drop 1 ++ [0]) ((g.drop 1).map (gfMul fb))

/-- The p check symbols of a systematic codeword: the remainder of d(x) x^p divided by the generator. -/
@[irreducible] def rsParity (p : Nat) (ds : List Nat) : List Nat := ds.foldl (rsStep (rsGen p)) (List.replicate p 0)

def rsSyndromes (p : Nat) (cw : List Nat) : List Nat := (List.range p).map (fun j => gfEval cw (gfAlpha j))

/-- State of the Berlekamp-Massey iteration, polynomials lowest coefficient first. -/
structure BmSt where
  c : List Nat
  b : List Nat
  l : Nat
  m : Nat
  d : Nat

def bmStep (syn : List Nat) (s : BmSt) (n : Nat) : BmSt :=
  let d := (List.range (s.l + 1)).foldl (fun acc i =>
    if i ≤ n then acc ^^^ gfMul (s.c.getD i 0) (syn.getD (n - i) 0) else acc) 0
  if d == 0 then { s with m := s.m + 1 }
  else
    let q := gfMul d (gfInv s.d)
    let c1 := xorLists s.c (List.replicate s.m 0 ++ s.b.map (gfMul q))
    if 2 * s.l ≤ n then ⟨c1, s.c, n + 1 - s.l, 1, d⟩ else { s with c := c1, m := s.m + 1 }

def bmRun (syn : List Nat) : BmSt := (List.range syn.length).foldl (bmStep syn) ⟨[1], [1], 0, 1, 1⟩

/-- A polynomial, lowest coefficient first, at a point. -/
def gfEvalLow (p : List Nat) (x : Nat) : Nat := gfEval p.reverse x

/-- Error value at locator x (Forney, first root alpha^0). -/
def rsMagnitude (loc omega : List Nat) (x : Nat) : Nat :=
  let xi := gfInv x
  let der := (loc.zipIdx.filter (fun q => q.2 % 2 == 1)).foldl (fun acc q => acc ^^^ gfMul q.1 (gfPow xi (q.2 - 1))) 0
  gfMul x (gfMul (gfEvalLow omega xi) (gfInv der))

/-- Decodes a received codeword with p check symbols: the corrected codeword and the number of symbols
corrected, none when it is uncorrectable. -/
@[irreducible] def rsDecode (p : Nat) (cw : List Nat) : Option (List Nat × Nat) :=
  let syn := rsSyndromes p cw
  if syn.all (fun x => x == 0) then some (cw, 0)
  else
    let s := bmRun syn
    let n := cw.length
    let pos := (List.range n).filter (fun i => gfEvalLow s.c (gfInv (gfAlpha (n - 1 - i))) == 0)
    if s.l > p / 2 || pos.length != s.l then none
    else
      let omega := ((List.range p).map (fun i => (List.range (i + 1)).foldl
        (fun acc j => acc ^^^ gfMul (s.c.getD j 0) (syn.getD (i - j) 0)) 0))
      let fixed := cw.zipIdx.map (fun q =>
        if pos.contains q.2 then q.1 ^^^ rsMagnitude s.c omega (gfAlpha (n - 1 - q.2)) else q.1)
      if (rsSyndromes p fixed).all (fun x => x == 0) then some (fixed, s.l) else none

/-- The four check symbols of a word (R247). -/
def wordCheck (bs : List Byte) : List Byte := (rsParity 4 (bs.map BitVec.toNat)).map (BitVec.ofNat 8)

/-- The decoder of the word code: at most one wrong symbol is corrected. -/
def wordDecode (bs : List Byte) : Option (List Byte × Bool) :=
  match rsDecode 4 (bs.map BitVec.toNat) with
  | some (cw, n) => if n ≤ 1 then some ((cw.take 32).map (BitVec.ofNat 8), n == 1) else none
  | none => none

/-- A word whose check symbols came with it is found uncorrectable, and was not poisoned before (R248). -/
def wordFails (w : DWord) : Bool := !w.poison && !w.chk.isEmpty && (wordDecode (w.bytes ++ w.chk)).isNone

/-- A word as the unit reads it that stores it or computes with it (R248): corrected, or poisoned where that cannot be done. -/
def decoded (w : DWord) : DWord :=
  if w.poison || w.chk.isEmpty then w
  else match wordDecode (w.bytes ++ w.chk) with
    | some (b, _) => { bytes := b }
    | none => { w with poison := true }

end Sys2Proof.Machine
end

