-- ==== Sys2Proof/Machine/Looms.lean ====
section
/-! DEFINITION. The looms (03, 05): what makes a matrix command malformed, its operands element by element,
the accumulation rule, sparsity, zero points, scales, precision passes, forerunner emulation, the commit
of a matrix command, its chunks and its drain. -/
namespace Sys2Proof.Machine

/-! Form. -/

/-- Class of a format for the looms (Table 3-2). -/
def loomClass (fmt : Nat) : Nat :=
  match fmt with
  | 0x07 | 0x09 | 0x0B => 4
  | 0x03 | 0x04 | 0x05 | 0x06 | 0x08 | 0x0A => 8
  | 0x01 | 0x02 => 16
  | _ => 32

/-- What the command word alone makes malformed: R103, R104, R118, R200, R204, R73, R101, R139, Table 7-5. -/
def mmaWordBad (k : Nat) (f : MmaOp) : Bool :=
  let fore := isOne f.foreR
  let klen := f.klen.toNat + 1
  (k != 0 && k != 1) || f.loom == 3#2 || (k == 0 && f.loom != 0#2) || (k == 1 && f.loom == 0#2) ||
    (k == 0 && f.prod != 0#1) || f.dwmask == 3#2 || f.init == 3#2 || f.passes == 0#2 || f.sparse.toNat > 4 ||
    f.zpMode == 3#2 || (f.dwmask != 0#2 && (isOne f.emit || f.prod == 0#1 || k == 0)) ||
    (!mmaUsesHo f && f.ho != 0#5) || (!isOne f.drain && f.hr != 0#5) || (!isOne f.emit && f.he != 0#5) ||
    (!isOne f.emit && f.dwmask == 0#2 && f.hm != 0#5) || (isOne f.emit && f.loom == 0#2) ||
    (f.zpMode != 0#2 && f.sparse != 0#3) || (f.sparse != 0#3 && klen % 4 != 0) ||
    ((!isOne f.popa || !isOne f.popb) && panelsOf klen > 8) ||
    (fore && (f.passes != 1#2 || f.sparse != 0#3 || f.zpMode != 0#2 || isOne f.emit))

/-- What the first panel's descriptors make malformed: R72-R75, R101, R120, R139. -/
def mmaDescBad (k : Nat) (f : MmaOp) (a b : Desc) : Bool :=
  let fa := dFmt a
  let fb := dFmt b
  let fore := isOne f.foreR
  let bad1 (x : Desc) (kcont : Bool) (sp : Bool) : Bool :=
    let m := dFmt x
    m == 0x0C || m == 0x0D || (fmtMxAlways m && !dMx x) || (dMx x && !fmtMxOk m) ||
      ((dMx x || fmtBits m < 8) && !kcont) || (sp && (!kcont || m == 0)) ||
      (dStaged x && ((dVop x == 1 && k == 1) || (dVop x == 2 && k == 0))) ||
      (fore && (!(m == 1 || m == 2 || m == 3 || m == 4 || m == 8) || dMx x || !(dLs x == 0 || dLs x == 3)))
  bad1 a (dLay a == 0) (f.sparse == 1#3 || f.sparse == 2#3) || bad1 b (dLay b == 1) (f.sparse == 3#3 || f.sparse == 4#3) ||
    (fmtIsInt fa != fmtIsInt fb) || ((fa == 0) != (fb == 0)) || (f.passes != 1#2 && fa != 0) ||
    (f.zpMode != 0#2 && !fmtIsInt fa) || (f.sparse != 0#3 && (fa == 0 || fb == 0))

/-! Operand elements. -/

/-- The side of an operand: A is indexed by row m, B by column n. -/
structure Side where
  d    : Desc
  base : Nat
  /-- MK for A, NK for B -/
  kc   : Bool
  /-- 0 dense, 24, 14 -/
  pat  : Nat
  deriving DecidableEq, Repr

def sideA (f : MmaOp) (r : MmaRun) : Side :=
  ⟨r.da, r.baseA, dLay r.da == 0, if f.sparse == 1#3 then 24 else if f.sparse == 2#3 then 14 else 0⟩

def sideB (f : MmaOp) (r : MmaRun) : Side :=
  ⟨r.db, r.baseB, dLay r.db == 1, if f.sparse == 3#3 then 24 else if f.sparse == 4#3 then 14 else 0⟩

/-- The pattern field of a group of row (column) i (R138). -/
def metaField (s : State) (c : Nat) (x : Side) (i g : Nat) : Nat :=
  let a := benchAddr c (dMeta x.d + i * dMpitch x.d)
  if x.pat == 24 then (memGet s (a + g / 2)).toNat / 2 ^ (4 * (g % 2)) % 16
  else (memGet s (a + g / 4)).toNat / 2 ^ (2 * (g % 4)) % 4

/-- How logical k of row (column) i is stored: pruned, the element offset in its panel, or an invalid field (R138, R140). -/
inductive Slot
  | pruned
  | at (off : Nat)
  | invalid
  deriving DecidableEq, Repr

def slotOf (s : State) (c : Nat) (x : Side) (i k : Nat) : Slot :=
  let kk := k % 256
  let pitch := dPitch x.d
  if x.pat == 0 then .at (if x.kc then i * pitch + kk else kk * pitch + i)
  else
    let fld := metaField s c x i (k / 4)
    let q := k % 4
    if x.pat == 24 then
      let lo := fld % 4
      let hi := fld / 4
      if lo ≥ hi then .invalid
      else if q == lo then .at (i * pitch + 2 * (kk / 4))
      else if q == hi then .at (i * pitch + 2 * (kk / 4) + 1)
      else .pruned
    else if q == fld then .at (i * pitch + kk / 4) else .pruned

/-- The table base a codebook operand uses for k (R77). -/
def cbBase (x : Desc) (k : Nat) : Nat :=
  if dWhole x then dCbt x else dCbt x + k / 256 * (2 * cbLen (dFmt x))

/-- The decoded value of a stored element: a float's value, an integer's code, a codebook's BF16 entry. -/
def elemVal (s : State) (c : Nat) (x : Side) (k off : Nat) : XVal :=
  let fmt := dFmt x.d
  let code := elemCode s x.base (fmtBits fmt) off
  if fmtIsCb fmt then decFlt bf16 (memLe s (benchAddr c (cbBase x.d k + 2 * code)) 2) else codeVal fmt code

/-- The zero point of row (column) i. -/
def zpOf (s : State) (c : Nat) (d : Desc) (i : Nat) : Int :=
  if dZparr d then sInt 8 (memGet s (benchAddr c (dZpa d + i))).toNat else dZpv d

/-- SUBTRACT's narrowed range (Table 3-5): the difference and whether it saturated. DESIGN CHOICE: an INT4 zero point outside -8 to 7, which
ZPV and ZPA can hold, is taken as it is, and the full difference saturates (assumption log 147). -/
def zpDiff (fmt : Nat) (q z : Int) : Int × Bool :=
  let lim : Int := if fmt == 8 then 127 else 7
  let d := q - z
  if d > lim then (lim, true) else if d < -lim then (-lim, true) else (d, false)

/-- The parts of R92 of an FP32 value. -/
def fp32Parts (x : XVal) : XVal × XVal × XVal :=
  let cap (v : XVal) : XVal :=
    match v with
    | .fin s n d e => if overThr bf16 n d e then decFlt bf16 (withSign bf16 s bf16.top) else rndBf16 v
    | v => v
  let x0 := cap x
  let r1 := xSub x x0
  let x1 := cap r1
  let x2 := cap (xSub r1 x1)
  (x0, x1, x2)

/-- A sum of the loom's part products whose zero has the sign of a * b (R93). -/
def signedBy (neg : Bool) (x : XVal) : XVal :=
  match x with
  | .fin s n d e => if n == 0 then .fin neg 0 1 0 else .fin s n d e
  | y => y

/-- term(m, n, k) for FP32 operands under PASSES (R92-R94). -/
def fp32Term (passes : Nat) (a b : XVal) : XVal :=
  if !xFinite a || !xFinite b then xMul a b
  else
    let (a0, a1, a2) := fp32Parts a
    let (b0, b1, b2) := fp32Parts b
    let t1 := xMul a0 b0
    let t2 := xAdd (xMul a0 b1) (xMul a1 b0)
    let t3 := xAdd (xAdd (xMul a0 b2) (xMul a1 b1)) (xMul a2 b0)
    let t := if passes == 1 then t1 else if passes == 2 then xAdd t1 t2 else xAdd (xAdd t1 t2) t3
    signedBy (xSign a != xSign b) t

/-- flush of R100: a subnormal code of a format reads as zero of its sign. -/
def flushVal (f : FFmt) (x : XVal) : XVal :=
  match x with
  | .fin s n d e => if n != 0 && floorLog2 n d e < 1 - (f.bias : Int) then .fin s 0 1 0 else .fin s n d e
  | y => y

def flushElem (fmt : Nat) (x : XVal) : XVal :=
  match fmtKind fmt with
  | some (.flt f) => flushVal f x
  | _ => x

/-- Truncation toward zero to a multiple of 2^g (R100). -/
def truncTo (g : Int) (x : XVal) : XVal :=
  match x with
  | .fin s n d e =>
    let (a, b) := natRatio n d (e - g)
    .fin s (a / b) 1 g
  | y => y

/-- The forerunner's chunk sum of exact products (R100). -/
def foreSum (ps : List XVal) : XVal :=
  let nz := ps.filter (fun p => xFinite p && !xIsZero p)
  let lg (p : XVal) : Int := match p with
    | .fin _ n d e => floorLog2 n d e
    | _ => 0
  match nz with
  | [] => xSum ps
  | p :: t =>
    let e := t.foldl (fun m q => max m (lg q)) (lg p)
    xSum (ps.map (truncTo (e - 26)))

/-! Chunks. -/

/-- Bit j of byte p of a ZMAP marks block 32 (8 p + j) as skipped (R147). -/
def zmapSkips (s : State) (c : Nat) (d : Desc) (blk : Nat) : Bool :=
  dMap d == 1 && (memGet s (benchAddr c (dMapa d + blk / 8))).toNat / 2 ^ (blk % 8) % 2 == 1

/-- The block of row (column) group i div 32 and k block blk is present under the operand's BMAP (R145). -/
def bmapHas (s : State) (c : Nat) (d : Desc) (i blk : Nat) : Bool :=
  dMap d != 2 ||
    memLe s (benchAddr c (dMapa d + 8 * (blk / 8))) 8 / 2 ^ (8 * (i / 32) + blk % 8) % 2 == 1

/-- Every block of the chunk inside MLEN (NLEN) is absent (R148). -/
def bmapSkips (s : State) (c : Nat) (d : Desc) (len blk : Nat) : Bool :=
  dMap d == 2 && (List.range ((len + 31) / 32)).all (fun g => !bmapHas s c d (32 * g) blk)

/-- DWMASK enables output element (m, n) (R118). -/
def maskOn (f : MmaOp) (r : MmaRun) (m n : Nat) : Bool :=
  let bit (i : Nat) : Bool := (r.mask.getD (i / 8) 0#8).toNat / 2 ^ (i % 8) % 2 == 1
  match f.dwmask.toNat with
  | 1 => bit m
  | 2 => bit (8 * (m / 32) + n / 32)
  | _ => true

/-- The mask enables some element of the M x N corner. -/
def maskAny (f : MmaOp) (r : MmaRun) : Bool :=
  f.dwmask == 0#2 || (List.range (f.mlen.toNat + 1)).any (fun m => (List.range (f.nlen.toNat + 1)).any (maskOn f r m))

/-- Which maps skip a chunk: 0 none, 1 a ZMAP, 2 a BMAP and no ZMAP. -/
def chunkSkip (s : State) (c : Nat) (f : MmaOp) (r : MmaRun) (k0 : Nat) : Nat :=
  let blk := k0 / 32
  if zmapSkips s c r.da blk || zmapSkips s c r.db blk then 1
  else if bmapSkips s c r.da (f.mlen.toNat + 1) blk || bmapSkips s c r.db (f.nlen.toNat + 1) blk then 2
  else 0

/-- scale of R87 for row (column) i and block b: MX factor times learned scale, exact. -/
def scaleOf (s : State) (c : Nat) (d : Desc) (i b : Nat) : XVal :=
  let mx := if dMx d then decE8 (memGet s (benchAddr c (dMxs d + i * dSpitch d + b))).toNat else xOne
  let ls := match dLs d with
    | 1 => benchF32 s c (dLsa d + 4 * (i * dSpitch d + b))
    | 2 => benchF32 s c (dLsa d + 4 * i)
    | 3 => benchF32 s c (dLsa d)
    | _ => xOne
  xMul mx ls

/-- One output element of one chunk: the exact chunk sum before scales, the new accumulator, and the events
PROD_0XINF, SUM_INF, SCALE_0XINF, ACC_OVERFLOW (R79, R96-R98). -/
structure ElemOut where
  raw  : XVal
  acc  : Word
  e10  : Bool := false
  e11  : Bool := false
  e12  : Bool := false
  e13  : Bool := false
  none : Bool := false
  deriving DecidableEq, Repr

/-- A term and whether it is 0 times infinity; none where an element is pruned or its block absent: the loom reads no element
and no metadata field of an absent block (R145). DEDUCED: a product of integer codes is an integer, so a zero term is +0 in
every zero-point mode (R80; assumption log 105). -/
def termOf (s : State) (c : Nat) (f : MmaOp) (a b : Side) (m n k : Nat) : Option (XVal × Bool) :=
  if !bmapHas s c a.d m (k / 32) || !bmapHas s c b.d n (k / 32) then none
  else match slotOf s c a m k, slotOf s c b n k with
  | .pruned, _ => none
  | _, .pruned => none
  | .invalid, _ => some (.nan, false)
  | _, .invalid => some (.nan, false)
  | .at oa, .at ob =>
    let va := elemVal s c a k oa
    let vb := elemVal s c b k ob
    let fa := dFmt a.d
    if fmtIsInt fa then
      let qa := qFloor (xQ va)
      let qb := qFloor (xQ vb)
      if f.zpMode == 1#2 then
        some (xInt ((zpDiff fa qa (zpOf s c a.d m)).1 * (zpDiff (dFmt b.d) qb (zpOf s c b.d n)).1), false)
      else some (xInt (qa * qb), false)
    else if fa == 0 then
      let t := fp32Term f.passes.toNat va vb
      some (t, xIsNan t && !xIsNan va && !xIsNan vb)
    else
      let va := if isOne f.foreR then flushElem fa va else va
      let vb := if isOne f.foreR then flushElem (dFmt b.d) vb else vb
      let t := xMul va vb
      some (t, xIsNan t && !xIsNan va && !xIsNan vb)

/-- The exact correction of ZP_MODE = CORRECT (R89). -/
def zpCorrect (s : State) (c : Nat) (a b : Desc) (m n ch nc : Nat) (v : XVal) : XVal :=
  let za := zpOf s c a m
  let zb := zpOf s c b n
  let ra := sInt 16 (memLe s (benchAddr c (dZsum a + 2 * (ch * dZspitch a + m))) 2)
  let cb := sInt 16 (memLe s (benchAddr c (dZsum b + 2 * (ch * dZspitch b + n))) 2)
  xOfQ false (qAdd (xQ v) (qInt (-(zb * ra) - za * cb + (nc : Int) * za * zb)))

/-- The sign of a zero chunk value: negative exactly when every present term is -0 (R80). -/
def zeroSign (terms : List XVal) (v : XVal) : XVal :=
  if xIsZero v then (if terms.all (fun t => xIsZero t && xSign t) then xNegZero else xPosZero) else v

/-- One element of one chunk (R79, R80, R87, R89, R96-R100). DEDUCED: where one operand's learned scale is zero and the other's
infinite, a finite nonzero chunk sum gives NaN and counts as SCALE_0XINF: the sum meets A's scale first, then B's (assumption
log 104). -/
def elemChunk (s : State) (c : Nat) (f : MmaOp) (r : MmaRun) (k0 kN ch m n : Nat) (acc : Word) : ElemOut :=
  let a := sideA f r
  let b := sideB f r
  let ts := (List.range (kN - k0)).filterMap (fun i => termOf s c f a b m n (k0 + i))
  if ts.isEmpty || !maskOn f r m n then ⟨xPosZero, acc, false, false, false, false, true⟩
  else
    let vals := ts.map (fun t => t.1)
    let pinf := vals.any (fun v => v == .inf false)
    let ninf := vals.any (fun v => v == .inf true)
    let v0 := if isOne f.foreR then foreSum vals else xSum vals
    let v0 := if f.zpMode == 2#2 then zpCorrect s c r.da r.db m n ch ts.length v0 else v0
    let sa := scaleOf s c r.da m (k0 / 32)
    let sb := scaleOf s c r.db n (k0 / 32)
    let v1 := xMul v0 sa
    let v2 := zeroSign vals (xMul v1 sb)
    let e12 := (xIsNan v1 && !xIsNan v0 && !xIsNan sa) || (xIsNan v2 && !xIsNan v1 && !xIsNan sb)
    let av := dec32 acc
    let sum := xAdd av v2
    let accW := enc32 sum
    let accW := if isOne f.foreR then enc32 (flushVal fp32 (dec32 accW)) else accW
    { raw := v0, acc := accW, e10 := ts.any (fun t => t.2), e11 := (pinf && ninf) || (xIsNan sum && !xIsNan av && !xIsNan v2),
      e12 := e12, e13 := xFinite av && xFinite v2 && over32 sum }

/-- Side arrays of an operand that a chunk reads: metadata, scales, zero points and their sums, codebook. `has` leaves out the rows
whose block is absent (R145). -/
def sideSpans (c : Nat) (f : MmaOp) (x : Side) (has : Nat → Bool) (len ch k0 kN : Nat) : List (Nat × Nat) :=
  let d := x.d
  let rows (g : Nat → Nat × Nat) : List (Nat × Nat) := ((List.range len).filter has).map g
  (if x.pat == 24 then rows (fun i => (benchAddr c (dMeta d + i * dMpitch d + k0 / 8), (kN - k0 + 7) / 8))
   else if x.pat == 14 then rows (fun i => (benchAddr c (dMeta d + i * dMpitch d + k0 / 16), (kN - k0 + 15) / 16)) else []) ++
    (if dMx d then rows (fun i => (benchAddr c (dMxs d + i * dSpitch d + k0 / 32), 1)) else []) ++
    (match dLs d with
     | 1 => rows (fun i => (benchAddr c (dLsa d + 4 * (i * dSpitch d + k0 / 32)), 4))
     | 2 => [(benchAddr c (dLsa d), 4 * len)]
     | 3 => [(benchAddr c (dLsa d), 4)]
     | _ => []) ++
    (if f.zpMode != 0#2 && dZparr d then [(benchAddr c (dZpa d), len)] else []) ++
    (if f.zpMode == 2#2 then [(benchAddr c (dZsum d + 2 * (ch * dZspitch d)), 2 * len)] else []) ++
    (if fmtIsCb (dFmt d) then [(benchAddr c (cbBase d k0), 2 * cbLen (dFmt d))] else [])

/-- The map bytes that say whether a chunk is skipped (R148). -/
def mapSpans (c : Nat) (d : Desc) (k0 : Nat) : List (Nat × Nat) :=
  match dMap d with
  | 1 => [(benchAddr c (dMapa d + k0 / 256), 1)]
  | 2 => [(benchAddr c (dMapa d + 8 * (k0 / 256)), 8)]
  | _ => []

/-- Words of memory a loom reads for a chunk: the first poisoned one of the operand rows and side arrays it touches (R249). -/
def chunkPoison (s : State) (c : Nat) (f : MmaOp) (r : MmaRun) (k0 kN : Nat) : Option Nat :=
  if s.poison.isEmpty then none
  else
    let has (x : Side) (i : Nat) : Bool := bmapHas s c x.d i (k0 / 32)
    let probe (x : Side) (len : Nat) : List Nat :=
      let bits := fmtBits (dFmt x.d)
      let keep := if x.pat == 24 then 2 else if x.pat == 14 then 4 else 1
      (if x.kc then ((List.range len).filter (has x)).filterMap (fun i =>
          firstPoison s (x.base + (i * dPitch x.d + k0 % 256 / keep) * bits / 8) (((kN - k0) / keep * bits + 7) / 8))
       else (List.range (kN - k0)).flatMap (fun i =>
          ((List.range ((len + 31) / 32)).filter (fun g => has x (32 * g))).filterMap (fun g =>
            firstPoison s (x.base + ((k0 % 256 + i) * dPitch x.d + 32 * g) * bits / 8) ((min 32 (len - 32 * g) * bits + 7) / 8))))
    let side (x : Side) (len : Nat) : List Nat :=
      (sideSpans c f x (has x) len r.chunk k0 kN).filterMap (fun p => firstPoison s p.1 p.2)
    (probe (sideA f r) (f.mlen.toNat + 1) ++ probe (sideB f r) (f.nlen.toNat + 1) ++
      side (sideA f r) (f.mlen.toNat + 1) ++ side (sideB f r) (f.nlen.toNat + 1)).head?

/-- LCLK cycles of a chunk (R86, Table 3-4), before skipping. -/
def chunkCycles (f : MmaOp) (a b : Desc) : Nat :=
  let cl := max (loomClass (dFmt a)) (loomClass (dFmt b))
  let base := match cl with
    | 4 => 16
    | 8 => 32
    | 16 => 64
    | _ => 64 * f.passes.toNat
  let base := if f.sparse != 0#3 then base / 2 else base
  let base := if isOne f.foreR then base * 2 else base
  if isOne f.emit then base * 8 else base

/-- Time a given chunk takes: a skipped chunk takes one cycle, unless it emits (R148). -/
def chunkTime (s : State) (c : Nat) (f : MmaOp) (r : MmaRun) : Nat :=
  let step := if isOne f.foreR then 16 else 32
  if chunkSkip s c f r (step * r.chunk) != 0 && !isOne f.emit then 1 else chunkCycles f r.da r.db

/-- The meter lets a chunk start (R390). -/
def meterOk (s : State) (c l : Nat) : Bool := (getLoom s c l).meter ≥ 0 && cellDuty s c > 0

/-- The chunk starts: its time is charged. -/
def chargeMeter (s : State) (c l t : Nat) : State :=
  modLoom s c l (fun x => { x with meter := x.meter - 16 * (t : Int) })

/-- The meter fills for t cycles at the cell's duty (R390). -/
def fillMeter (s : State) (c l t : Nat) : State :=
  modLoom s c l (fun x => { x with meter := min (x.meter + (cellDuty s c : Int) * (t : Int)) 8192 })

/-- The meter has gone on counting in the cycles without a chunk, in a paused cell too (R390); how many have passed is free (assumption log
151). -/
def fillIdle (s : State) (c l : Nat) : State :=
  let (n, s1) := draw s
  fillMeter s1 c l n

/-- The bank as a command finds it: contents of another step read as +0 (R85, assumption log 20). -/
def bankNow (b : Bank) (step : Nat) : Tab Word := if b.step == some step then b.vals else []

/-- Sets the M x N corner of a bank. -/
def setCorner (old : Tab Word) (mN nN : Nat) (g : Nat → Nat → Word) : Tab Word :=
  ((List.range mN).flatMap (fun m => (List.range nN).map (fun n => (256 * m + n, g m n)))) ++
    old.filter (fun p => !(p.1 / 256 < mN && p.1 % 256 < nN))

/-- INIT (R69, R71, R85): the bank before the first chunk. LOAD reads the output tile; a NaN it reads stands as the canonical one
(R36). -/
def bankInit (s : State) (b : Bank) (f : MmaOp) (step : Nat) (ho : Option Desc) : Bank :=
  let old := bankNow b step
  let mN := f.mlen.toNat + 1
  let nN := f.nlen.toNat + 1
  match f.init.toNat, ho with
  | 1, _ => ⟨some step, old⟩
  | 2, some d => ⟨some step, setCorner old mN nN
      (fun m n => enc32 (dec32 (BitVec.ofNat 32 (memLe s (gLocal (dAddr d) + 4 * (m * dPitch d + n)) 4))))⟩
  | _, _ => ⟨some step, setCorner old mN nN (fun _ _ => 0#32)⟩

/-- All operand events and output events of a chunk, in the order of R99, collected into a command's records; no event of an element
of an absent block (R145). DESIGN CHOICE: DWMASK (R118) disables output elements, and an operand element that enters disabled
outputs only is still read, so its own events are recorded (assumption log 109). -/
def chunkRecs (s : State) (c : Nat) (fl : Fly) (f : MmaOp) (r : MmaRun) (k0 kN : Nat)
    (outs : List (Nat × Nat × ElemOut)) : List ExRec :=
  let key := f.key.toNat
  let mk (cause m n : Nat) : ExRec := recOf s fl cause r.loom m n r.chunk key
  let addIf (p : ElemOut → Bool) (cause : Nat) (rs : List ExRec) : List ExRec :=
    outs.foldl (fun q o => if p o.2.2 then addRec q (mk cause o.1 o.2.1) 1 else q) rs
  let ks := (List.range (kN - k0)).map (fun i => k0 + i)
  let sats (x : Side) (len : Nat) (isA : Bool) (rs : List ExRec) : List ExRec :=
    if f.zpMode != 1#2 then rs
    else (List.range len).foldl (fun q i => ks.foldl (fun q k =>
      match slotOf s c x i k with
      | .at o =>
        if bmapHas s c x.d i (k / 32) && (zpDiff (dFmt x.d) (qFloor (xQ (elemVal s c x k o))) (zpOf s c x.d i)).2 then
          addRec q (mk (if isA then 0x14 else 0x15) (if isA then i else 0) (if isA then 0 else i)) 1
        else q
      | _ => q) q) rs
  let metas (x : Side) (len : Nat) (isA : Bool) (rs : List ExRec) : List ExRec :=
    if x.pat != 24 then rs
    else (List.range len).foldl (fun q i => (ks.filter (fun k => k % 4 == 0)).foldl (fun q k =>
      if bmapHas s c x.d i (k / 32) && slotOf s c x i k == .invalid then addRec q (mk 0x16 (if isA then i else 0) (if isA then 0 else i)) 1
      else q) q) rs
  let a := sideA f r
  let b := sideB f r
  let mN := f.mlen.toNat + 1
  let nN := f.nlen.toNat + 1
  addIf (fun o => o.e13) 0x13 (addIf (fun o => o.e12) 0x12 (addIf (fun o => o.e11) 0x11 (addIf (fun o => o.e10) 0x10
    (metas b nN false (metas a mN true (sats b nN false (sats a mN true fl.recs)))))))

/-- Sum of the counts of a cause in a record list. -/
def recCount (rs : List ExRec) (cause : Nat) : Nat :=
  ((rs.filter (fun r => r.cause == cause)).map (fun r => r.count)).sum

/-- Counts the events a chunk added in the loom and sparsity tallies and sets the sticky bits (R98, R102, R152). -/
def chunkTallies (s : State) (c k : Nat) (old new : List ExRec) : State :=
  let d (cause : Nat) : Nat := recCount new cause - recCount old cause
  let inv := d 0x10 + d 0x11 + d 0x12
  let s1 := bumpPerf s (0x3021 + 0x40 * c) 6 inv
  let s2 := bumpPerf s1 (0x3021 + 0x40 * c) 7 (d 0x13)
  let s3 := bumpPerf s2 (0x3021 + 0x40 * c) 8 (d 0x14 + d 0x15)
  let s4 := bumpPerf s3 (0x3022 + 0x40 * c) 5 (d 0x16)
  setSticky s4 c k (inv + d 0x16 > 0) (d 0x13 > 0)

/-- A codebook table of an operand for a panel is refused under R45. -/
def cbRefused (s : State) (c : Nat) (d : Desc) (panel : Nat) : Bool :=
  fmtIsCb (dFmt d) && (cbBadAt 0 (cbTable s c (cbBase d (256 * panel)) (cbLen (dFmt d)))).isSome

/-- The panel of MLEN (NLEN) rows at a base lies in the cell's bench window (R203). -/
def panelOk (c : Nat) (x : Side) (len kcount : Nat) : Bool :=
  let bits := fmtBits (dFmt x.d)
  let kept := if x.pat == 24 then kcount / 2 else if x.pat == 14 then kcount / 4 else kcount
  let last := if x.kc then (len - 1) * dPitch x.d + kept else (kept - 1) * dPitch x.d + len
  x.base ≥ benchBase + c * 0x1000000 && x.base + packedBytes bits last ≤ benchBase + c * 0x1000000 + 0xC00000

/-- The side arrays that the command reads for an operand lie in the bench window (R28, R203). -/
def sideOk (f : MmaOp) (x : Side) (len : Nat) : Bool :=
  let d := x.d
  let kN := f.klen.toNat + 1
  let nb := (kN + 31) / 32
  let fits (off n : Nat) : Bool := off + n ≤ 0xC00000
  (!dMx d || fits (dMxs d) ((len - 1) * dSpitch d + nb)) &&
    (match dLs d with
     | 1 => fits (dLsa d) (4 * ((len - 1) * dSpitch d + nb))
     | 2 => fits (dLsa d) (4 * len)
     | 3 => fits (dLsa d) 4
     | _ => true) &&
    (f.zpMode == 0#2 || !dZparr d || fits (dZpa d) len) &&
    (f.zpMode != 2#2 || fits (dZsum d) (2 * ((nb - 1) * dZspitch d + len))) &&
    (!fmtIsCb (dFmt d) || fits (dCbt d) (2 * cbLen (dFmt d) * (if dWhole d then 1 else (kN + 255) / 256))) &&
    (x.pat == 0 || fits (dMeta d) ((len - 1) * dMpitch d + (if x.pat == 24 then (kN / 4 + 1) / 2 else (kN / 4 + 3) / 4))) &&
    (match dMap d with
     | 1 => fits (dMapa d) ((nb + 7) / 8)
     | 2 => fits (dMapa d) (8 * ((nb + 7) / 8))
     | _ => true)

/-- The base a panel's descriptor names: ADDR, or the slot base plus ADDR when staged (R119, R203). -/
def panelBase (s : State) (c : Nat) (d : Desc) (slot : Nat) : Nat :=
  if dStaged d then (vtBase (getVt s c (dEntry d)) slot (dCopy d) + dAddr d) % 2 ^ 48 else gLocal (dAddr d)

/-- Runs one chunk on the banks: the new bank and the element results in row and column order. -/
def runChunk (s : State) (c : Nat) (f : MmaOp) (r : MmaRun) (bank : Bank) (k0 kN : Nat) :
    Bank × List (Nat × Nat × ElemOut) :=
  let mN := f.mlen.toNat + 1
  let nN := f.nlen.toNat + 1
  let outs := (List.range mN).flatMap (fun m => (List.range nN).map (fun n =>
    (m, n, elemChunk s c f r k0 kN r.chunk m n (tget 0#32 bank.vals (256 * m + n)))))
  ({ bank with vals := (outs.map (fun o => (256 * o.1 + o.2.1, o.2.2.acc))) ++
      bank.vals.filter (fun p => !(p.1 / 256 < mN && p.1 % 256 < nN)) }, outs)

/-- Rows of an FP32 tile as spans. -/
def tileSpans (d : Desc) (mN nN : Nat) : List (Nat × Nat) :=
  (List.range mN).map (fun m => (gLocal (dAddr d) + 4 * (m * dPitch d), 4 * nN))

/-- Writes an FP32 tile in the form of an output tile (R78). -/
def writeTile (s : State) (d : Desc) (mN nN : Nat) (g : Nat → Nat → Word) : State :=
  (List.range mN).foldl (fun s m =>
    memWrite s (gLocal (dAddr d) + 4 * (m * dPitch d))
      ((List.range nN).flatMap (fun n => natLe (g m n).toNat 4))) s

/-! The commit of a matrix command (R195, R109, R110, R120). -/

/-- Takes the i-th pop or peek of a role: the pop happens, and the access is done. -/
def popRole (s : State) (c : Nat) (f : Fly) (r : Role) (i : Nat) : State × Fly :=
  match accOf f r i with
  | none => (s, f)
  | some a =>
    (popOne s c a, { f with acc := f.acc.map (fun b => if b.role = r && b.kind = a.kind && b.num = a.num then
      { b with done := true } else b) })

/-- Marks the i-th push of a role done and its place ready (R199). -/
def pushRole (s : State) (c : Nat) (f : Fly) (r : Role) (i : Nat) (d : Desc) : State × Fly :=
  match pushOf f r i with
  | none => (s, f)
  | some a =>
    (pushAt s c a.h a.num d,
      { f with acc := f.acc.map (fun b => if b.role = r && b.kind = .push && b.num = a.num then
        { b with done := true } else b) })

/-- The cell's bench window holds n bytes at a local address (R203). -/
def inBench (c a n : Nat) : Bool :=
  benchBase + c * 0x1000000 ≤ a && a + n ≤ benchBase + c * 0x1000000 + 0xC00000

/-- A descriptor of the own device whose rows x len FP32 tile lies in the bench window. -/
def tileOk (s : State) (c : Nat) (d : Desc) (mN nN : Nat) : Bool :=
  isLocalAddr s (dAddr d) && inBench c (gLocal (dAddr d)) (4 * ((mN - 1) * dPitch d + nN))

def maskBytes (f : MmaOp) : Nat := if f.dwmask == 1#2 then 32 else 8

/-- The slot and the state after an operand's version-table operation, or what stops it. -/
inductive Staged
  | go (s : State) (slot : Nat)
  | wait
  | fault (r : ExRec)

def stageOf (s : State) (c : Nat) (f : Fly) (op : MmaOp) (d : Desc) : Staged :=
  if !dStaged d then .go s 0
  else
    match vtCheck s c f.step d with
    | .wait => .wait
    | .fault cause => .fault (vtRec s f cause (dEntry d) (dMb d) op.key.toNat)
    | .slot n =>
      .go (if dVop d == 1 then vtChange s f.step c (dEntry d) (.acquire (dMb d) n f.step) else s) n

/-- The command releases a staged operand's tag when it completes. -/
def relOf (d : Desc) : List (Nat × Nat) := if dStaged d && dVop d == 2 then [(dEntry d, dMb d)] else []

/-- A command in flight is a matrix command that has not reached its drain's end. -/
def isMma (f : Fly) : Bool :=
  match f.op with
  | .mma _ => true
  | _ => false

/-- An earlier matrix command of the stream for the same loom has not begun. -/
def mmaBehind (s : State) (c k : Nat) (f : Fly) (op : MmaOp) : Bool :=
  (getStrm s c k).fly.any (fun g => g.id < f.id && !g.committed && (match g.op with
    | .mma o => o.loom == op.loom
    | _ => false))

/-- Some row of one FP32 tile overlaps some row of another: rows x cols elements each. -/
def rowsMeet (d : Desc) (rows cols : Nat) (e : Desc) (rows' cols' : Nat) : Bool :=
  (List.range rows).any (fun r => (List.range rows').any (fun q =>
    overlaps (gLocal (dAddr d) + 4 * (r * dPitch d)) (4 * cols) (gLocal (dAddr e) + 4 * (q * dPitch e)) (4 * cols')))

/-- A LOAD overlaps the rows of no drain that a loom still has to make (R83). -/
def loadClear (s : State) (c l : Nat) (op : MmaOp) (ho : Option Desc) : Bool :=
  op.init != 2#2 || (match ho with
    | none => true
    | some h => (getLoom s c l).drains.all (fun d => match findFly (getStrm s c d.1) d.2.1 with
      | some g => (match g.op, g.mma with
        | .mma o, some r => (match r.ho with
          | some q => !rowsMeet h (op.mlen.toNat + 1) (op.nlen.toNat + 1) q (o.mlen.toNat + 1) (o.nlen.toNat + 1)
          | none => true)
        | _, _ => true)
      | none => true))

/-- A loom is at work: a command runs on it, or a drain is left. -/
def loomTaken (x : LoomSt) : Bool := x.run.isSome || !x.drains.isEmpty

/-- The loom can begin the command in a bank (R70, R83, R377): a LOAD waits for the pending drains whose rows it overlaps. -/
def loomFree (s : State) (c l bank : Nat) (op : MmaOp) (ho : Option Desc) : Bool :=
  let x := getLoom s c l
  x.run.isNone && x.canary.isNone && x.drains.all (fun d => d.2.2 ≠ bank) && loadClear s c l op ho

/-- The F stream's head command is a matrix command with both first-panel descriptors ready (R109): at the places whose
numbers its pops and peeks will take in the order of R204. -/
def fHeadReady (s : State) (c : Nat) : Bool :=
  match frontCmd (getStrm s c 0) with
  | some q => (match q.op with
    | some (.mma o) =>
      let before (h : Nat) (l : List (Role × Nat × HKind)) : Nat := (l.filter (fun a => a.2.1 == h && a.2.2 == .pop)).length
      let pre := (if mmaUsesHo o then [(Role.ho, o.ho.toNat, HKind.pop)] else []) ++
        (if o.dwmask != 0#2 then [(Role.hm, o.hm.toNat, HKind.pop)] else [])
      let rd (h : Nat) (n : Nat) : Bool := let x := getHop s c h; (readyAt x (x.popN + n)).isSome
      rd o.ha.toNat (before o.ha.toNat pre) &&
        rd o.hb.toNat (before o.hb.toNat (pre ++ (if isOne o.popa then [(Role.ha, o.ha.toNat, HKind.pop)] else [])))
    | _ => false)
  | none => false

/-- R109: loom F may be lent to this command of the B stream; a LOAD waits for its own loom's drains there too (R83, R111). -/
def loanOk (s : State) (c : Nat) (op : MmaOp) (ho : Option Desc) : Bool :=
  let x := getCell s c
  let bank := x.bwd.bank
  x.bwd.loan && (op.init == 0#2 || op.init == 2#2) && isOne op.drain && !isOne op.emit &&
    (getStrm s c 0).fly.all (fun g => !isMma g) && !fHeadReady s c &&
    !(getLoom s c 0).openB.contains bank && loomTaken (getLoom s c op.loom.toNat) && loadClear s c op.loom.toNat op ho

/-- The loom and bank a command would begin on now: its own, or loom F as a loan; none while both are busy. -/
def placeOf (s : State) (c k : Nat) (op : MmaOp) (ho : Option Desc) : Option (Nat × Nat × Bool) :=
  if loomFree s c op.loom.toNat op.bank.toNat op ho then some (op.loom.toNat, op.bank.toNat, false)
  else
    let lb := (getCell s c).bwd.bank
    if k == 1 && loanOk s c op ho && loomFree s c 0 lb op ho then some (0, lb, true) else none

/-- KEEP on the lent bank (R110): none while an earlier F matrix command is unfinished, else whether it faults. -/
def keepCheck (s : State) (c k : Nat) (f : Fly) (op : MmaOp) : Option Bool :=
  let b := (getCell s c).bwd
  if k == 0 && b.loan && op.init == 1#2 && op.bank.toNat == b.bank then
    if (getStrm s c 0).fly.any (fun g => g.id < f.id && isMma g) then none
    else some (!(getLoom s c 0).openB.contains b.bank)
  else some false

/-- First poisoned word of a FP32 tile's rows. -/
def tilePoison (s : State) (d : Desc) (mN nN : Nat) : Option Nat := spansPoison s (tileSpans d mN nN)

/-- The time of chunk `r.chunk` of a command, and whether its mask leaves nothing to compute. -/
def chunkT (s : State) (c : Nat) (op : MmaOp) (r : MmaRun) : Nat :=
  if maskAny op r then chunkTime s c op r else chunkCycles op r.da r.db

/-- Chunk c's emission buffer descriptor is ready, when the command emits (R204). -/
def emitReady (s : State) (c : Nat) (f : Fly) (op : MmaOp) (i : Nat) : Bool :=
  !isOne op.emit || (roleDesc s c f .hm i).isSome

/-- Cycles a loom waited on a drain or a LOAD of so many rows: a free value up to them (R83, R102; assumption log 31). -/
def stall (s : State) (c rows : Nat) : State :=
  let (n, s1) := drawBelow s (rows + 1)
  bumpPerf s1 (0x3021 + 0x40 * c) 5 n

/-- Begins the command on a loom: its pops of HO, of the mask and of the first panel happen, the bank is
initialised, and the first chunk is charged. `meter` says that the meter lets the chunk start, `idle` that it may have counted on before. -/
def mmaBegin (s : State) (c k : Nat) (f : Fly) (op : MmaOp) (r : MmaRun) (rels : List (Nat × Nat)) (meter idle : Bool) :
    Option State :=
  let any := maskAny op r
  let noTime := !any && isOne op.drain
  if !noTime && !meter then none
  else
    let bank0 := tget {} (getLoom s c r.loom).banks r.bank
    let bank1 := bankInit s bank0 op f.step r.ho
    let (s1, f1) := popRole s c f .ho 0
    let (s2, f2) := if op.dwmask == 0#2 then (s1, f1) else popRole s1 c f1 .hm 0
    let (s3, f3) := popRole s2 c f2 .ha 0
    let (s4, f4) := popRole s3 c f3 .hb 0
    let r1 := { r with charged := !noTime }
    -- a command without chunks takes its later panels as they come
    let late := if noTime then f4.acc.filter (fun a => a.kind == .pop && !a.done) else []
    let s4' := late.foldl (fun s a => dropAt s c a.h a.num) s4
    let f5 := { f4 with committed := true, mma := some r1, rels := rels,
                        acc := f4.acc.map (fun a => if noTime && a.kind == .pop then { a with done := true } else a) }
    let s5 := putFly (if op.init == 2#2 then stall s4' c (op.mlen.toNat + 1) else s4') c k f5
    let s6 := modLoom s5 c r.loom (fun x => { x with
      banks := tset x.banks r.bank bank1
      run := if noTime then none else some (k, f.id)
      drains := if noTime then x.drains ++ [(k, f.id, r.bank)] else x.drains })
    some (if noTime then s6 else chargeMeter (if idle then fillIdle s6 c r.loom else s6) c r.loom (chunkT s6 c op r1))

/-- MMA reaches its commit point, faults before it, or waits (none). `force` starts a chunk the meter held. -/
def mmaCommit (s : State) (c k : Nat) (f : Fly) (op : MmaOp) (force : Bool) : Option State :=
  let ho := if mmaUsesHo op then roleDesc s c f .ho 0 else none
  let hm := if op.dwmask == 0#2 then none else roleDesc s c f .hm 0
  match roleDesc s c f .ha 0, roleDesc s c f .hb 0 with
  | some a, some b =>
    let mN := op.mlen.toNat + 1
    let nN := op.nlen.toNat + 1
    let kN := op.klen.toNat + 1
    let unit := op.loom.toNat
    let key := op.key.toNat
    if mmaBehind s c k f op || (mmaUsesHo op && ho.isNone) || (op.dwmask != 0#2 && hm.isNone) then none
    else if mmaDescBad k op a b then some (faultFly s c k f (recOf s f 1 5 0 0 0 key))
    else if (match ho with
        | some d => !tileOk s c d mN nN
        | none => false) || (match hm with
        | some d => !isLocalAddr s (dAddr d) || !inBench c (gLocal (dAddr d)) (maskBytes op)
        | none => false) || (!dStaged a && !isLocalAddr s (dAddr a)) || (!dStaged b && !isLocalAddr s (dAddr b)) then
      some (faultFly s c k f (recOf s f 2 unit 0 0 0 key))
    else
      match stageOf s c f op a with
      | .wait => none
      | .fault r => some (faultFly s c k f r)
      | .go s1 slotA =>
        match stageOf s1 c f op b with
        | .wait => none
        | .fault r => some (faultFly s c k f r)
        | .go s2 slotB =>
          let r0 : MmaRun := {
            loom := unit, bank := op.bank.toNat, da := a, db := b, ho := ho
            baseA := panelBase s2 c a slotA, baseB := panelBase s2 c b slotB, slotA := slotA, slotB := slotB
            mask := (match hm with
              | some d => memRead s (gLocal (dAddr d)) (maskBytes op)
              | none => []) }
          let kp := min 256 kN
          if !panelOk c (sideA op r0) mN kp || !panelOk c (sideB op r0) nN kp || !sideOk op (sideA op r0) mN ||
              !sideOk op (sideB op r0) nN then
            some (faultFly s c k f (recOf s f 2 unit 0 0 0 key))
          else if cbRefused s c a 0 then some (faultFly s c k f (recOf s f 0x44 unit 0 0 0 key))
          else if cbRefused s c b 0 then some (faultFly s c k f (recOf s f 0x44 unit 1 0 0 key))
          else
            match keepCheck s c k f op with
            | none => none
            | some true => some (faultFly s c k f (recOf s f 0x23 5 (getCell s c).bwd.bank 0 0 key))
            | some false =>
              match placeOf s c k op ho with
              | none => none
              | some (l, bank, lent) =>
                let r1 := { r0 with loom := l, bank := bank, lent := lent }
                match (if op.init == 2#2 then ho.bind (fun d => tilePoison s d mN nN) else none) with
                | some p => some (faultPoison s c k f l key p)
                | none =>
                  match (match hm with
                    | some d => firstPoison s (gLocal (dAddr d)) (maskBytes op)
                    | none => none) with
                  | some p => some (faultPoison s c k f l key p)
                  | none =>
                    if !emitReady s c f op 0 then none
                    else mmaBegin s2 c k f op r1 (relOf a ++ relOf b) (force || meterOk s c l) (!force)
  | _, _ => none

/-! Chunks, drains (R79, R83, R88). -/

/-- The matrix command that runs on a loom. -/
def loomRun (s : State) (c l : Nat) : Option (Nat × Fly × MmaOp × MmaRun) :=
  match (getLoom s c l).run with
  | none => none
  | some (k, id) =>
    match findFly (getStrm s c k) id with
    | none => none
    | some f => match f.op, f.mma with
      | .mma op, some r => some (k, f, op, r)
      | _, _ => none

/-- The command ends before its drain: its loom is free, and it faults (R203, R222). -/
def mmaEnd (s : State) (c k l : Nat) (f : Fly) (r : ExRec) : State :=
  faultFly (modLoom s c l (fun x => { x with run := none })) c k f r

def chunkStep (op : MmaOp) : Nat := if isOne op.foreR then 16 else 32

/-- The panel of the chunk that runs next has been taken: its descriptors are in the run. -/
def panelReady (s : State) (c : Nat) (f : Fly) (op : MmaOp) (r : MmaRun) : Bool :=
  let k0 := chunkStep op * r.chunk
  let p := k0 / 256
  (k0 % 256 != 0 || p == 0 || ((roleDesc s c f .ha p).isSome && (roleDesc s c f .hb p).isSome)) &&
    emitReady s c f op r.chunk

/-- Takes the panel of the next chunk when one begins there: pops it, and replaces only ADDR (R203). DESIGN CHOICE: the panel's codebook
table is read and checked here, even where maps skip every chunk of the panel (R77, assumption log 148). -/
def takePanel (s : State) (c : Nat) (f : Fly) (op : MmaOp) (r : MmaRun) : State × Fly × MmaRun × Option Nat :=
  let k0 := chunkStep op * r.chunk
  let p := k0 / 256
  if k0 % 256 != 0 || p == 0 then (s, f, r, none)
  else
    match roleDesc s c f .ha p, roleDesc s c f .hb p with
    | some a, some b =>
      let (s1, f1) := popRole s c f .ha p
      let (s2, f2) := popRole s1 c f1 .hb p
      let da := dSetAddr r.da (dAddr a)
      let db := dSetAddr r.db (dAddr b)
      let r1 := { r with baseA := panelBase s c da r.slotA, baseB := panelBase s c db r.slotB }
      let kp := min 256 (op.klen.toNat + 1 - k0)
      let bad := (!dStaged da && !isLocalAddr s (dAddr a)) || (!dStaged db && !isLocalAddr s (dAddr b)) ||
        !panelOk c (sideA op r1) (op.mlen.toNat + 1) kp || !panelOk c (sideB op r1) (op.nlen.toNat + 1) kp
      let flt := if bad then some 0x02 else if !dWhole r.da && cbRefused s c r.da p then some 0x144
        else if !dWhole r.db && cbRefused s c r.db p then some 0x244 else none
      (s2, f2, r1, flt)
    | _, _ => (s, f, r, none)

/-- The next chunk of the running command starts, if its operands are ready and the meter lets it. `idle`: the meter may have counted on
before. -/
def startChunk (s : State) (c l : Nat) (meter idle : Bool) : State :=
  match loomRun s c l with
  | none => s
  | some (k, f, op, r) =>
    if r.charged || !panelReady s c f op r || !meter then s
    else
      let (s1, f1, r1, flt) := takePanel s c f op r
      match flt with
      | some 0x02 => mmaEnd s1 c k l f1 (recOf s f 2 l 0 0 0 op.key.toNat)
      | some n => mmaEnd s1 c k l f1 (recOf s f 0x44 l (if n == 0x244 then 1 else 0) 0 r.chunk op.key.toNat)
      | none =>
        let r2 := { r1 with charged := true }
        let s2 := putFly s1 c k { f1 with mma := some r2 }
        chargeMeter (if idle then fillIdle s2 c l else s2) c l (chunkT s2 c op r2)

/-- Emission of a chunk (R88): the exact sums before scales, rounded to FP32, in the tile HM names. -/
def emitChunk (s : State) (c : Nat) (f : Fly) (op : MmaOp) (r : MmaRun) (outs : List (Nat × Nat × ElemOut)) :
    State × Fly × Bool :=
  if !isOne op.emit then (s, f, true)
  else
    match roleDesc s c f .hm r.chunk with
    | none => (s, f, true)
    | some d =>
      if !tileOk s c d (op.mlen.toNat + 1) (op.nlen.toNat + 1) then (s, f, false)
      else
        let vals : Tab Word := outs.map (fun o => (256 * o.1 + o.2.1, enc32 o.2.2.raw))
        let s1 := writeTile s d (op.mlen.toNat + 1) (op.nlen.toNat + 1) (fun m n => tget 0#32 vals (256 * m + n))
        let (s2, f2) := popRole s1 c f .hm r.chunk
        let (s3, f3) := pushRole s2 c f2 .he r.chunk d
        (s3, f3, true)

/-- A poisoned word that the chunk's emission would only partly write (R236, R249). -/
def emitEdge (s : State) (c : Nat) (f : Fly) (op : MmaOp) (r : MmaRun) : Option Nat :=
  if !isOne op.emit then none
  else (roleDesc s c f .hm r.chunk).bind (fun d =>
    if tileOk s c d (op.mlen.toNat + 1) (op.nlen.toNat + 1) then
      edgesPoison s (tileSpans d (op.mlen.toNat + 1) (op.nlen.toNat + 1)) else none)

/-- After its last chunk a command drains, or it is done. -/
def mmaAfter (s : State) (c k l : Nat) (f : Fly) (op : MmaOp) (r : MmaRun) : State :=
  let s1 := modLoom s c l (fun x => { x with
    run := none
    drains := if isOne op.drain then x.drains ++ [(k, f.id, r.bank)] else x.drains })
  putFly s1 c k { f with mma := some r, done := !isOne op.drain }

/-- The chunk that has been charged completes (R79, R86, R88, R102, R148, R152). DESIGN CHOICE: a chunk that a map skips is not
counted as a chunk completed (Table 3-11, sub-index 04), also where it emits +0 in full time under EMITBLK (assumption log
106). -/
def endChunk (s : State) (c l : Nat) : State :=
  match loomRun s c l with
  | none => s
  | some (k, f, op, r) =>
    if !r.charged then s
    else
      let t := chunkT s c op r
      let k0 := chunkStep op * r.chunk
      let kN := min (k0 + chunkStep op) (op.klen.toNat + 1)
      let any := maskAny op r
      let skip := if any then chunkSkip s c op r k0 else 0
      let maps := if any then spansPoison s (mapSpans c r.da k0 ++ mapSpans c r.db k0) else none
      let reads := if any && skip == 0 then chunkPoison s c op r k0 kN else none
      match maps.orElse (fun _ => reads.orElse (fun _ => emitEdge s c f op r)) with
      | some p => mmaEnd (raiseUncorr s p f.step) c k l f
          (recOf s f 0x50 l (p / 2 ^ 32) (p / 2 ^ 16) (p / 16) op.key.toNat)
      | none =>
        let bank := tget {} (getLoom s c l).banks r.bank
        let (bank1, outs) := if any && skip == 0 then runChunk s c op r bank k0 kN else
          (bank, (List.range (op.mlen.toNat + 1)).flatMap (fun m => (List.range (op.nlen.toNat + 1)).map (fun n =>
            (m, n, (⟨xPosZero, 0#32, false, false, false, false, true⟩ : ElemOut)))))
        let recs := if any && skip == 0 then chunkRecs s c f op r k0 kN outs else f.recs
        let (s1, f1, ok) := emitChunk s c { f with recs := recs } op r outs
        if !ok then mmaEnd s1 c k l f1 (recOf s f 2 l 0 0 0 op.key.toNat)
        else
          let s2 := modLoom (fillMeter s1 c l t) c l (fun x => { x with banks := tset x.banks r.bank bank1, canTime := x.canTime + t })
          let s3 := chunkTallies s2 c k f.recs recs
          let base := 0x3021 + 0x40 * c
          let s4 := bumpPerf (bumpPerf s3 base (1 + l) t) base 4 (if any && skip == 0 then 1 else 0)
          let sp := 0x3022 + 0x40 * c
          let s5 := bumpPerf (bumpPerf (bumpPerf s4 sp 1 (if skip == 1 then 1 else 0)) sp 2 (if skip == 2 then 1 else 0))
            sp 3 (if any && skip == 0 && op.sparse != 0#3 then 1 else 0)
          let r1 := { r with chunk := r.chunk + 1, charged := false }
          if kN == op.klen.toNat + 1 then mmaAfter s5 c k l f1 op r1
          else
            let s6 := putFly s5 c k { f1 with mma := some r1 }
            startChunk s6 c l (meterOk s6 c l) false

/-- LOOM_CHUNK: the loom's chunk completes; a chunk that waited for its operands starts first. -/
def loomChunk (s : State) (c l : Nat) : State :=
  let s1 := startChunk s c l (meterOk s c l) true
  endChunk s1 c l

/-- LOOM_DRAIN: the oldest drain of the loom finishes: the bank's corner is in the output tile, +0 for
masked-off elements (R78, R83, R118). -/
def loomDrain (s : State) (c l : Nat) : State :=
  match (getLoom s c l).drains with
  | [] => s
  | (k, id, b) :: ds =>
    let s1 := modLoom s c l (fun x => { x with drains := ds })
    match findFly (getStrm s c k) id with
    | none => s1
    | some f => match f.op, f.mma with
      | .mma op, some r => (match r.ho with
        | none => putFly s1 c k { f with done := true }
        | some d =>
          match edgesPoison s (tileSpans d (op.mlen.toNat + 1) (op.nlen.toNat + 1)) with
          | some p => faultPoison s1 c k f l op.key.toNat p
          | none =>
          let bank := bankNow (tget {} (getLoom s c l).banks b) f.step
          let waits := [0, 1].any (fun q => (getStrm s c q).fly.any (fun g => !g.committed && (match g.op with
            | .mma o => o.loom.toNat == l
            | _ => false)))
          let s2 := writeTile (if waits then stall s1 c (op.mlen.toNat + 1) else s1) d (op.mlen.toNat + 1) (op.nlen.toNat + 1)
            (fun m n => if maskOn op r m n then tget 0#32 bank (256 * m + n) else 0#32)
          let outs := match pushOf f .hr 0 with
            | some a => [(a.h, a.num, d)]
            | none => []
          putFly s2 c k { f with done := true, outs := outs })
      | _, _ => s1

/-- The loom's bank marks when a matrix command completes on loom F (R110). A lent command leaves them: its bank is closed as the loan
begins, and it would close it (R109). -/
def loomMarks (s : State) (c : Nat) (op : MmaOp) (r : MmaRun) : State :=
  if r.loom != 0 || r.lent then s
  else modLoom s c 0 (fun x => { x with
    openB := if isOne op.drain then x.openB.filter (fun b => b ≠ r.bank) else insertAsc r.bank x.openB })

/-- A command whose first chunk only the meter holds (R390), oldest first over the streams F and B. -/
def heldFirst (s : State) (c l : Nat) : Option State :=
  let fs : List (Nat × Fly) := (getStrm s c 0).fly.map (fun f => (0, f)) ++ (getStrm s c 1).fly.map (fun f => (1, f))
  fs.findSome? (fun p => match p with
    | (k, f) => (match f.op with
      | .mma op =>
        if f.committed then none
        else
          (match mmaCommit s c k f op true with
          | some s' => if (getLoom s' c l).run == some (k, f.id) then some s' else none
          | none => none)
      | _ => none))

/-- METERED_CHUNK_START: the meter has risen to 0 or above for a chunk it held: M is the first value at or above 0 that steps of the duty
reach. Where it held none it has gone on counting, up to 8,192 (R390). -/
def meteredStart (s : State) (c l : Nat) : State :=
  let d := cellDuty s c
  if d == 0 then s
  else
    let (m, s1) := drawBelow s d
    let s2 := modLoom s1 c l (fun x => { x with meter := if x.meter < 0 then (m : Int) else x.meter })
    match loomRun s2 c l with
    | some (_, _, _, r) => if r.charged then s else startChunk s2 c l true ((getLoom s c l).meter ≥ 0)
    | none =>
      match heldFirst s2 c l with
      | some s3 => s3
      | none => fillIdle s2 c l

end Sys2Proof.Machine
end

