-- ==== Sys2Proof/Machine/Form.lean ====
section
/-! DEFINITION. What a command's own fields make malformed (R5, R103, R195, R205): reserved values, fields its
options leave unused, and the streams that may issue it. -/
namespace Sys2Proof.Machine

/-- The TILE_KEY of a command, or 0 (R256, R350). -/
def keyTile (op : Op) : Nat :=
  match op with
  | .mma f => f.key.toNat
  | .ucommit f => f.key.toNat
  | .stt f => f.key.toNat
  | .card f => f.key.toNat
  | .red f => f.key.toNat
  | _ => 0

/-- The key other records of the command carry: TILE_KEY, MB, a Mill command's key base and CSEQ (R319), or 0. -/
def opTile (op : Op) : Nat :=
  match op with
  | .mma f => f.key.toNat
  | .ucommit f => f.key.toNat
  | .stt f => f.key.toNat
  | .card f => f.key.toNat
  | .red f => f.key.toNat
  | .drvSubmit f => f.mb.toNat
  | .drvSend f => f.mb.toNat
  | .drvClose f => f.mb.toNat
  | .millRs f | .millAg f | .millAr f | .millBc f => f.keyb.toNat * 65536 + f.cseq.toNat
  | _ => 0

/-- The unit whose causes a command reports with (R226). -/
def opUnit (op : Op) : Nat :=
  match op with
  | .mma f => f.loom.toNat
  | .ldt _ | .stt _ | .card _ | .red _ | .zmap _ | .tbl _ => 3
  | .move _ | .ratom _ | .rsig _ | .ucommit _ => 4
  | .drvSubmit _ | .drvSend _ | .drvClose _ => 8
  | .millRs _ | .millAg _ | .millAr _ | .millBc _ => 9
  | _ => 5

/-- Table 7-2: the streams that may issue a command (0 F, 1 B, 2 U, 3 C). -/
def opStream (op : Op) (k : Nat) : Bool :=
  match op with
  | .mma _ => k == 0 || k == 1
  | .ucommit _ | .vpub _ | .udone _ => k == 2
  | .vote | .vrel _ => k == 1
  | .drvSubmit _ | .drvSend _ | .drvClose _ | .millRs _ | .millAg _ | .millAr _ | .millBc _ => k == 3
  | _ => true

/-- STT's rounding field: reserved, GRAD without SR, UPD without RNE (R54, R60, R172). -/
def sttRmBad (f : SttOp) : Bool :=
  f.rm == 3#2 || (isOne f.grad && f.rm != 2#2) || (isOne f.upd && f.rm != 0#2)

def cardSrcBad (x : CardSrc) : Bool :=
  (x.mode == 0#2 && (x.reg != 0#4 || x.y != 0#6)) || (x.mode == 1#2 && x.y != 0#6)

def cardDstBad (x : CardDst) : Bool := !isOne x.bound && x.reg != 0#4

/-- Table 10-5: the (ARITH, IFMT, OFMT, RM) a Mill command may carry. -/
def millFmtOk (f : MillOp) : Bool :=
  let inp := f.ifmt.toNat
  let out := f.ofmt.toNat
  match f.arith.toNat with
  | 0 => (inp == 0x00 || inp == 0x01) && ((out == 0x00 && f.rm == 0#2) || (out == 0x01 && (f.rm == 0#2 || f.rm == 2#2)))
  | 1 => (inp == 0x0C || inp == 0x00) && (out == 0x0C || out == 0x00) && f.rm == 0#2
  | _ => false

def millBad (f : MillOp) (move bc : Bool) : Bool :=
  !millFmtOk f || (move && (f.ifmt != f.ofmt || f.rm != 0#2)) || (!bc && f.root != 0#12) ||
    (!isOne f.push && f.hr != 0#5)

/-- A field of the command is reserved, out of range, or set although its options leave it unused. -/
def opBad (k vl rl : Nat) (op : Op) : Bool :=
  !opStream op k ||
  (match op with
   | .loop f => (f.csrc == 0#1 && f.cctr != 0#3) || (f.csrc == 1#1 && f.count != 0#32) || (!isOne f.ien && f.ictr != 0#3)
   | .cnt f =>
     f.op.toNat > 4 || (f.op != 2#3 && f.src != 0#3) || (f.op.toNat ≥ 2 && f.imm != 0#32) ||
       (f.op.toNat < 3 && f.addr != 0#48) || (f.op.toNat ≥ 3 && f.addr.toNat % 4 != 0)
   | .cmp f =>
     if isOne f.arm then
       (!isOne f.bsrc && f.cb != 0#3) || (isOne f.bsrc && f.imm != 0#32) || (!isOne f.act && f.flag != 0#8)
     else f.ca != 0#3 || f.rel != 0#2 || isOne f.bsrc || f.cb != 0#3 || isOne f.act || f.imm != 0#32 || f.flag != 0#8
   | .hpush f => f.modlog.toNat > 16 || (!isOne f.cen && (f.ctr != 0#3 || f.modlog != 0#5 || f.stride != 0#16))
   | .flag f => (!isOne f.cen && f.ctr != 0#3) || (isOne f.scope && f.flag.toNat > 63)
   | .wait f => (!isOne f.cen && f.ctr != 0#3) || (isOne f.scope && f.flag.toNat > 63) || isOne f.op
   | .mma f => mmaWordBad k f
   | .ucommit f =>
     if f.kind == 0#1 then f.rm != 0#2 || (!isOne f.een && f.entry != 0#6)
     else f.rm != 0#2 || isOne f.een || f.entry != 0#6 || f.hw != 0#5 || f.hwt != 0#5 || f.dims.toNat ≥ 4096
   | .stt f => sttRmBad f || f.rowoff.toNat + rl > 256 || f.mx == 3#2 || (!isOne f.upd && f.ha != 0#5) ||
       (!isOne f.push && f.hr != 0#5)
   | .ldt f => f.rowoff.toNat + rl > 256
   | .card f => f.rowoff.toNat + rl > 256 || cardSrcBad f.s0 || cardSrcBad f.s1 || cardSrcBad f.s2 || cardSrcBad f.s3 ||
       cardDstBad f.d0 || cardDstBad f.d1
   | .red f =>
     let col := isOne f.axis
     let line := if col then rl else vl
     let segs := if isOne f.seg then (line + 31) / 32 else 1
     let rows := if f.op == 5#3 then 2 else segs
     f.op.toNat > 5 || (isOne f.seg && f.op.toNat > 2) || (isOne f.seg && line % 32 != 0) ||
       (f.op != 2#3 && f.src2 != 0#4) || (f.op != 5#3 && f.idxb != 0#24) || f.idxb.toNat + 255 ≥ 2 ^ 24 ||
       (col && f.dcol != 0#8) || (!col && f.dcol.toNat + rl > 256) || f.drow.toNat + rows > 64 ||
       f.rowoff.toNat + rl > 256
   | .zmap f => f.rowoff.toNat + rl > 256 || (isOne f.axis && (f.rowoff.toNat % 32 != 0 || rl % 32 != 0))
   | .tbl f =>
     let kd := f.kind.toNat
     (if kd == 3 then !isOne f.dir else isOne f.dir) || (kd != 0 && f.len != 0#5) ||
       ((kd == 0 || kd == 3) && f.fmt != 0#5) || (kd == 3 && f.index != 0#4) ||
       (kd == 1 && f.fmt != 0x00#5 && f.fmt != 0x0D#5) || (kd == 2 && f.fmt != 0x0A#5 && f.fmt != 0x0B#5) ||
       ((kd == 1 || kd == 2) && f.index.toNat > 1)
   | .move f => !isOne f.push && f.hr != 0#5
   | .rsig f => isOne f.scope && (f.flag.toNat > 63 || f.cell != 0#6)
   | .ratom f => f.aop.toNat ≥ 0xC || (!isOne f.push && f.hr != 0#5) || (f.aop == 0xA#4 && (f.ht != 0#5 || isOne f.push))
   | .millRs f => millBad f false false
   | .millAg f => millBad f true false
   | .millAr f => millBad f false false
   | .millBc f => millBad f true true
   | _ => false)

end Sys2Proof.Machine
end

