-- ==== Sys2Proof/Machine/Convert.lean ====
section
/-! DEFINITION. Conversions as the lathe, the update commands and the cards make them (R39-R42, R54-R63, R555),
their flags, records and tallies (R67, R68), and what a gradient conversion tells the finite vote (R60, R126). -/
namespace Sys2Proof.Machine

/-- A rounding mode that a target format accepts (Table 2-3); `grad` wants SR (R60). -/
def rmFits (rm : BitVec 2) (fmt : Nat) (grad : Bool) : Bool :=
  rm != 3#2 && fmt != 0x0D && (rm != 1#2 || fmt == 0 || fmt == 1 || fmt == 2) && (!grad || rm == 2#2)

def rmMode (rm : BitVec 2) : Rm :=
  match rm.toNat with
  | 1 => .rto
  | 2 => .sr
  | _ => .rne

/-- One conversion of a quotient to a format without block scales; `ls` says that the quotient came from a
learned scale, whose non-finite quotients are never clamps (R555). -/
def convOne (fmt : Nat) (sat : Bool) (rm : Rm) (r : Nat) (ls : Bool) (q : XVal) (z : Int) (tbl : List XVal) : Conv :=
  match fmtKind fmt with
  | some (.flt f) =>
    let cv := toFlt f sat rm r q
    if ls && !xFinite q then { cv with satC := false } else cv
  | some (.int b) => toIntFmt b z rm r q
  | some (.cb _) => cbEncode tbl rm r q
  | _ => { code := 0 }

/-- A converted block: its scale code, its elements, and whether it reads as NaN. -/
structure MxOut where
  scale : Nat
  elems : List Conv
  nan   : Bool
  deriving DecidableEq, Repr

/-- A rounding mode's code (Table 2-3). -/
def rmCode (rm : Rm) : Nat :=
  match rm with
  | .rne => 0
  | .rto => 1
  | .sr => 2
  | .tz => 3

/-- A finite quotient and its random bits as plain numbers. -/
def mxKey (p : XVal × Nat) : Bool × Nat × Nat × Int × Nat :=
  match p.1 with
  | .fin s n d e => (s, n, d, e, p.2)
  | _ => (false, 0, 0, 0, p.2)

/-- R40: a block under its computed scale. A scale that R40's formula puts above 254 has no code: scale and
elements are then free values of the block (assumption log 13). -/
def mxComputed (fmt : Nat) (f : FFmt) (sat ls : Bool) (rm : Rm) (qs : List (XVal × Nat)) : MxOut :=
  match mxScale fmt f (qs.map (fun p => p.1)) with
  | none => ⟨0xFF, qs.map (fun p => { code := 0, inv := xIsInf p.1 || (xIsNan p.1 && f.nanC.isNone), resNf := true }), true⟩
  | some sc =>
    if sc > 254 then
      let free (i : Nat) : Nat := Config.mxOver fmt (rmCode rm) sat (qs.map mxKey) i
      let sv := free 0 % 256
      ⟨sv, (List.range qs.length).map (fun i =>
        let c := free (i + 1) % 2 ^ fmtBits fmt
        { code := c, resNf := sv == 255 || !xFinite (decFlt f c) }), sv == 255⟩
    else ⟨sc, qs.map (fun p => convOne fmt sat rm p.2 ls (xScale2 p.1 ((sc : Int) - 127)) 0 []), false⟩

/-- R41: a block under a given scale. -/
def mxGiven (fmt : Nat) (sat ls : Bool) (rm : Rm) (sc : Nat) (qs : List (XVal × Nat)) : MxOut :=
  let es := qs.map (fun p =>
    let q := if sc == 255 then .nan else xScale2 p.1 ((sc : Int) - 127)
    let cv := convOne fmt sat rm p.2 ls q 0 []
    cv)
  let nan := sc == 255 || es.any (fun e => e.blkNan)
  ⟨if es.any (fun e => e.blkNan) then 0xFF else sc, es, nan⟩

/-- Splits a list in pieces of 32; the first argument bounds the pieces. -/
def chunks32 {α : Type} : Nat → List α → List (List α)
  | 0, _ => []
  | _, [] => []
  | n + 1, l => l.take 32 :: chunks32 n (l.drop 32)

/-- A converted element with its place, for the records. -/
structure CvEl where
  row  : Nat
  col  : Nat
  chunk : Nat
  cv   : Conv
  /-- a non-finite value that a gradient conversion detects (R126) -/
  det  : Bool := false
  deriving DecidableEq, Repr

/-- Counts of a list of conversions in the conversion tallies (Table 2-6). -/
def convTallies (s : State) (c : Nat) (es : List CvEl) : State :=
  let n (p : Conv → Bool) : Nat := (es.filter (fun e => p e.cv)).length
  let b := 0x3020 + 0x40 * c
  bumpPerf (bumpPerf (bumpPerf (bumpPerf (bumpPerf s b 1 (n (fun v => v.satC))) b 2 (n (fun v => v.intC)))
    b 3 (n (fun v => v.cbC))) b 4 (n (fun v => v.ovf))) b 5 (n (fun v => v.inv))

/-- Records of causes 0x42 and 0x43 of a list of conversions, in its order (R67, R188, R135). -/
def convRecs (mk : Nat → Nat → Nat → Nat → ExRec) (rs : List ExRec) (es : List CvEl) : List ExRec :=
  es.foldl (fun q e =>
    let q1 := if e.cv.ovf then addRec q (mk 0x42 e.row e.col e.chunk) 1 else q
    if e.cv.inv then addRec q1 (mk 0x43 e.row e.col e.chunk) 1 else q1) rs

/-- Sticky bits of a list of conversions. -/
def convSticky (s : State) (c k : Nat) (es : List CvEl) : State :=
  setSticky s c k (es.any (fun e => e.cv.inv)) (es.any (fun e => e.cv.ovf))

/-- The lower of two detections: cell first, then tile key (R127). -/
def detMin (a : Option (Nat × Nat)) (c key : Nat) : Option (Nat × Nat) :=
  match a with
  | none => some (c, key)
  | some (c', k') => if c < c' || (c == c' && key < k') then some (c, key) else some (c', k')

/-- A detection of a step: its tally, the storm state and the first detection (R126, R127, Table 4-6). -/
def detect (s : State) (cell key step n : Nat) : State :=
  if n = 0 then s
  else bumpPerf (modStep s step (fun t => { t with storm := true, det := detMin t.det cell key })) 0x5480 7 n

/-- The keyed generator's seed and step for a command of a step (R64). DESIGN CHOICE: outside an open step the most recent
journal entry is the one of the last step posted, its SEED 0 before it has opened; no entry counts once a write of START_STEP
has cleared the postings (assumption log 102). -/
def kgKeys (s : State) (step : Nat) : BitVec 64 × BitVec 64 :=
  let e := tget {} s.jr (step % 2)
  if (getStep s step).isSome && e.step == step then (BitVec.ofNat 64 e.seed, BitVec.ofNat 64 step)
  else match s.lastPosted with
    | some p => (BitVec.ofNat 64 (tget {} s.jr (p % 2)).seed, 0#64)
    | none => (0#64, 0#64)

/-- The 16 random bits of an element of a tile (R64, R65). -/
def rbits (s : State) (step key e : Nat) : Nat :=
  let (seed, st) := kgKeys s step
  kgBits seed st (ownShard s) (BitVec.ofNat 32 key) e

end Sys2Proof.Machine
end

