-- ==== Sys2Proof/Machine/Lathe.lean ====
section
/-! DEFINITION. The lathe (06): tile registers, cards, tables, loads, stores, reductions and zero maps. Each
command's whole effect happens at its commit point, its first pass (R170, R195). -/
namespace Sys2Proof.Machine

/-! Registers and tables (R166, R167). -/

/-- A tile register as a command of a step reads it. -/
def trRead (s : State) (c step reg : Nat) : Tab Word :=
  let t := tget {} (getCell s c).trs reg
  if t.step == some step then t.vals else []

def trVal (t : Tab Word) (r c : Nat) : Word := tget 0#32 t (256 * r + c)

/-- Writes elements of a tile register: `gone` are the elements that `ws` replaces. -/
def trWrite (s : State) (c step reg : Nat) (gone : Nat → Bool) (ws : Tab Word) : State :=
  let old := trRead s c step reg
  modCell s c (fun x => { x with trs := tset x.trs reg ⟨some step, ws ++ old.filter (fun p => !gone p.1)⟩ })

/-- The active rectangle of a command. -/
def inRect (rl vl key : Nat) : Bool := key / 256 < rl && key % 256 < vl

/-- A loaded table as a command of a step reads it; none is EMPTY. -/
def tabRead (t : Tab LTable) (i step : Nat) : Option (List Word) :=
  match tfind t i with
  | some x => if x.step == step then some x.ents else none
  | none => none

def sctRead (s : State) (c step i : Nat) : Option (List Word) := tabRead (getCell s c).scts i step

def cbtRead (s : State) (c step i : Nat) : Option (List Word) := tabRead (getCell s c).cbts i step

/-- An entry of a scale table; EMPTY gives NaN (R167). -/
def sctVal (t : Option (List Word)) (i : Nat) : XVal :=
  match t with
  | some l => dec32 (l.getD i 0x7FC00000#32)
  | none => .nan

/-- The learned scale of an element (R171): NONE, TENSOR, ROW, COL. -/
def lsVal (t : Option (List Word)) (ls row col : Nat) : XVal :=
  match ls with
  | 1 => sctVal t 0
  | 2 => sctVal t row
  | 3 => sctVal t col
  | _ => xOne

/-- Entries a codebook encoding uses: 16 for CB4 (R183). -/
def cbUsed (fmt : Nat) (l : List Word) : List XVal := (l.take (cbLen fmt)).map dec32

def zbufRead (s : State) (c step p : Nat) : Nat :=
  match tfind (getCell s c).zbuf p with
  | some (st, b) => if st == step then b else 0
  | none => 0

/-! Common parts. -/

/-- What a descriptor makes malformed for LDT and STT (R172, R205). -/
def latheDescBad (d : Desc) (vl ls : Nat) (cbdec : Bool) : Bool :=
  let m := dFmt d
  m == 0x0D || dLay d == 1 || dZparr d || (dMx d && !fmtMxOk m) || (fmtMxAlways m && !dMx d) ||
    ((fmtBits m < 8 || dMx d) && vl % 32 != 0) || (dZpv d != 0 && !fmtIsInt m) || (cbdec && !fmtIsCb m) ||
    (m == 0x0C && (dMx d || ls != 0 || dZpv d != 0))

/-- Byte span of rows [row0, row0+rl) of a panel, in elements of `bits` bits: offset and length. -/
def rowSpan (d : Desc) (bits row0 rl vl : Nat) : Nat × Nat :=
  let a := row0 * dPitch d * bits / 8
  (a, packedBytes bits ((row0 + rl - 1) * dPitch d + vl) - a)

/-- The panel's rows lie in the bench window; W48 has its tail plane at TADDR (R52, R203). -/
def panelIn (s : State) (c : Nat) (d : Desc) (bits row0 rl vl : Nat) : Bool :=
  let head := if bits == 48 then 32 else bits
  let (a, n) := rowSpan d head row0 rl vl
  isLocalAddr s (dAddr d) && inBench c (gLocal (dAddr d) + a) n &&
    (bits != 48 || (isLocalAddr s (dTaddr d) && inBench c (gLocal (dTaddr d) + 2 * (row0 * dPitch d))
      (2 * ((rl - 1) * dPitch d + vl)))) &&
    (!dMx d || benchOk (dMxs d) ((row0 + rl - 1) * dSpitch d + vl / 32))

/-- Rows of a panel as spans: elements or heads, tails for W48. -/
def rowSpans (d : Desc) (bits row0 rl vl : Nat) : List (Nat × Nat) :=
  let head := if bits == 48 then 32 else bits
  (List.range rl).map (fun r => (gLocal (dAddr d) + (row0 + r) * dPitch d * head / 8, packedBytes head vl)) ++
    (if bits == 48 then (List.range rl).map (fun r => (gLocal (dTaddr d) + 2 * ((row0 + r) * dPitch d), 2 * vl)) else [])

/-- Rows of a panel's MX scale array as spans (R76). -/
def scaleSpans (c : Nat) (d : Desc) (row0 rl vl : Nat) : List (Nat × Nat) :=
  if dMx d then (List.range rl).map (fun r => (benchAddr c (dMxs d + (row0 + r) * dSpitch d), (vl + 31) / 32)) else []

/-- The first poisoned word that a read of the rows and of their scales meets. -/
def rowsPoison (s : State) (c : Nat) (d : Desc) (bits row0 rl vl : Nat) : Option Nat :=
  spansPoison s (rowSpans d bits row0 rl vl ++ scaleSpans c d row0 rl vl)

/-- The first poisoned word that STT reads: bank A's rows, given scales, and words it only partly writes (R236). -/
def sttPoison (s : State) (c : Nat) (d : Desc) (da : Option Desc) (mx : BitVec 2) (bits row0 rl vl : Nat) : Option Nat :=
  let sc := scaleSpans c d row0 rl vl
  (spansPoison s ((match da with
    | some a => rowSpans a 48 row0 rl vl
    | none => []) ++ (if mx == 2#2 then sc else []))).orElse
    (fun _ => edgesPoison s (rowSpans d bits row0 rl vl ++ (if mx == 1#2 then sc else [])))

/-- W48 element (r, c) of a panel (R52). -/
def w48Read (s : State) (d : Desc) (r c : Nat) : Word × Nat :=
  (BitVec.ofNat 32 (memLe s (gLocal (dAddr d) + 4 * (r * dPitch d + c)) 4),
    memLe s (gLocal (dTaddr d) + 2 * (r * dPitch d + c)) 2)

def w48Write (s : State) (d : Desc) (r c : Nat) (h : Word) (t : Nat) : State :=
  memWrite (memWrite s (gLocal (dAddr d) + 4 * (r * dPitch d + c)) (natLe h.toNat 4))
    (gLocal (dTaddr d) + 2 * (r * dPitch d + c)) (natLe t 2)

/-- The active elements of a command in row order. -/
def rect (rl vl : Nat) : List (Nat × Nat) := (List.range rl).flatMap (fun r => (List.range vl).map (fun c => (r, c)))

/-- A lathe record: unit 3 and the key of the command (R188). -/
def latheRec (s : State) (f : Fly) (cause row col chunk : Nat) : ExRec := recOf s f cause 3 row col chunk (opTile f.op)

/-- Counts the lathe's own events of a record list in Table 6-8 and sets the sticky bits. -/
def latheTallies (s : State) (c k : Nat) (rs : List ExRec) : State :=
  let n (cause : Nat) : Nat := recCount rs cause
  let b := 0x3023 + 0x40 * c
  setSticky (bumpPerf (bumpPerf s b 4 (n 0x40 + n 0x43)) b 5 (n 0x41 + n 0x42)) c k (n 0x40 + n 0x43 > 0) (n 0x41 + n 0x42 > 0)

/-- Passes of a lathe command in LCLK cycles (Table 6-3). -/
def passes (rl per : Nat) : Nat := (rl + per - 1) / per

def bumpPasses (s : State) (c n : Nat) : State := bumpPerf s (0x3023 + 0x40 * c) 1 n

/-- A lathe command has done its work: records, tallies, pops, and the pushes it will make ready. -/
def latheDone (s : State) (c k : Nat) (f : Fly) (rs : List ExRec) (outs : List (Nat × Nat × Desc)) (grad : Bool) : State :=
  let s1 := latheTallies s c k rs
  let (s2, f1) := popAll s1 c f
  putFly s2 c k { f1 with committed := true, done := true, recs := rs, outs := outs, grad := grad }

/-- The commands that the lathe runs (R171). -/
def isLathe (op : Op) : Bool :=
  match op with
  | .ldt _ | .stt _ | .card _ | .red _ | .zmap _ | .tbl _ => true
  | _ => false

/-- A lathe command of the cell that issued earlier has not begun: the lathe runs one at a time, in issue order (R170). -/
def latheBehind (s : State) (c : Nat) (f : Fly) : Bool :=
  (List.range 4).any (fun q => (getStrm s c q).fly.any (fun g => g.seq < f.seq && !g.committed && isLathe g.op))

/-! LDT (R174). -/

/-- The decoded value of element (row, col) and whether a codebook index lies beyond the loaded entries. DESIGN CHOICE: an EMPTY table gives
NaN (R167) and raises nothing (assumption log 149). -/
def ldtVal (s : State) (f : LdtOp) (d : Desc) (sct cbt : Option (List Word)) (c row col : Nat) : XVal × Bool :=
  let m := dFmt d
  let base := gLocal (dAddr d)
  let sc := lsVal sct f.ls.toNat row col
  match fmtKind m with
  | some .w48 => let (h, t) := w48Read s d row col; (dec48 h t, false)
  | some (.flt ff) =>
    let v := decFlt ff (elemCode s base (fmtBits m) (row * dPitch d + col))
    let mx := if dMx d then decE8 (memGet s (benchAddr c (dMxs d + row * dSpitch d + col / 32))).toNat else xOne
    (xMul (xMul v mx) sc, false)
  | some (.int b) =>
    let q := sInt b (elemCode s base (fmtBits m) (row * dPitch d + col))
    (xMul (xInt (q - dZpv d)) sc, false)
  | some (.cb _) =>
    let i := elemCode s base (fmtBits m) (row * dPitch d + col)
    if !isOne f.cbdec then (xInt i, false)
    else match cbt with
      | none => (.nan, false)
      | some l => if i < l.length then (xMul (dec32 (l.getD i 0#32)) sc, false) else (.nan, true)
  | _ => (.nan, false)

/-- Is the decode invalid as 0 times infinity: a NaN from operands none of which is one? -/
def mulInvalid (x sc y : XVal) : Bool := xIsNan y && !xIsNan x && !xIsNan sc

/-- LDT at its first pass. -/
def ldtCommit (s : State) (c k : Nat) (f : Fly) (op : LdtOp) : Option State :=
  match roleDesc s c f .hin 0 with
  | none => none
  | some d =>
    let m := dFmt d
    let bits := fmtBits m
    let row0 := op.rowoff.toNat
    if latheDescBad d f.vl op.ls.toNat (isOne op.cbdec) then some (faultFly s c k f (recOf s f 1 5 0 0 0 0))
    else if !panelIn s c d bits row0 f.rl f.vl then some (faultFly s c k f (recOf s f 2 3 0 0 0 0))
    else
      match rowsPoison s c d bits row0 f.rl f.vl with
      | some p => some (faultPoison s c k f 3 0 p)
      | none =>
        let sct := sctRead s c f.step 0
        let cbt := cbtRead s c f.step 0
        let els := (rect f.rl f.vl).map (fun p =>
          let (v, bad) := ldtVal s op d sct cbt c (row0 + p.1) p.2
          (p.1, p.2, v, bad || (op.ls != 0#2 && xIsNan v && !xIsNan (lsVal sct op.ls.toNat (row0 + p.1) p.2) &&
            !xIsNan (ldtVal s { op with ls := 0#2 } d sct cbt c (row0 + p.1) p.2).1)))
        let rs := els.foldl (fun q e => match e with
          | (r, cc, v, bad) =>
            let q1 := if bad then addRec q (latheRec s f 0x40 (row0 + r) cc 0) 1 else q
            if over32 v then addRec q1 (latheRec s f 0x41 (row0 + r) cc 0) 1 else q1) []
        let s1 := trWrite s c f.step op.dst.toNat (inRect f.rl f.vl)
          (els.map (fun e => match e with | (r, cc, v, _) => (256 * r + cc, enc32 v)))
        some (latheDone (bumpPasses s1 c (passes f.rl (if m == 1 then 8 else 4))) c k f rs [] false)

/-! STT (R175-R177). -/

/-- STT's malformed cases that its descriptors decide (R172). Under I16 the target is a 16-bit integer, which RTO does not serve
(R54). -/
def sttDescBad (f : SttOp) (d : Desc) (vl : Nat) : Bool :=
  let m := dFmt d
  latheDescBad d vl f.ls.toNat false || (dMx d != (f.mx != 0#2)) || !rmFits f.rm m (isOne f.grad) ||
    (isOne f.upd && m != 0x0C) || (isOne f.i16 && (m != 0 || f.rm == 1#2)) || (isOne f.i16 && isOne f.upd)

/-- The converted elements of one row, and its scale codes under MX. -/
def sttRow (s : State) (fl : Fly) (f : SttOp) (d : Desc) (sct : Option (List Word)) (tbl : List XVal) (c : Nat)
    (src : Tab Word) (r : Nat) : List Nat × List CvEl :=
  let m := dFmt d
  let row := f.rowoff.toNat + r
  let rm := rmMode f.rm
  let grad := isOne f.grad
  let ls := f.ls != 0#2
  let xs := (List.range fl.vl).map (fun col => dec32 (trVal src r col))
  let qs := (List.range fl.vl).map (fun col => (xDiv (xs.getD col .nan) (lsVal sct f.ls.toNat row col),
    if f.rm == 2#2 then rbits s fl.step f.key.toNat (256 * row + col) else 0))
  match fmtKind m, f.mx.toNat with
  | some (.flt ff), 1 | some (.flt ff), 2 =>
    let blks := (chunks32 8 qs).zipIdx.map (fun p =>
      if f.mx == 1#2 then mxComputed m ff fl.sat ls rm p.1
      else mxGiven m fl.sat ls rm (memGet s (benchAddr c (dMxs d + row * dSpitch d + p.2))).toNat p.1)
    (blks.map (fun b => b.scale), (blks.zipIdx.flatMap (fun p => p.1.elems.zipIdx.map (fun e =>
      let col := 32 * p.2 + e.2
      ⟨row, col, 0, e.1, grad && (!xFinite (xs.getD col .nan) || e.1.resNf || p.1.nan)⟩))))
  | _, _ =>
    ([], qs.zipIdx.map (fun p =>
      let cv := convOne m fl.sat rm p.1.2 ls p.1.1 (dZpv d) tbl
      ⟨row, p.2, 0, cv, grad && (!xFinite (xs.getD p.2 .nan) || cv.resNf)⟩))

/-- An element under I16 (R176): its halfword, a clamp of a finite element, and the NaN or infinity event. -/
def i16Conv (q : XVal) : Conv := toIntFmt 16 0 .rne 0 q

/-- Writes converted rows: elements at their places, scale codes at theirs. -/
def sttWrite (s : State) (c : Nat) (d : Desc) (bits row : Nat) (scales : List Nat) (es : List CvEl) : State :=
  let base := gLocal (dAddr d)
  let s1 := if bits ≥ 8 then
      memWrite s (base + row * dPitch d * bits / 8) (es.flatMap (fun e => natLe e.cv.code (bits / 8)))
    else
      es.foldl (fun s e => elemSet s base bits (row * dPitch d + e.col) e.cv.code) s
  if scales.isEmpty then s1
  else memWrite s1 (benchAddr c (dMxs d + row * dSpitch d)) (scales.map (BitVec.ofNat 8))

/-- A sum of opposite infinities: the invalid operation of Table 6-7. -/
def xAddInv (a b : XVal) : Bool := !xIsNan a && !xIsNan b && xIsNan (xAdd a b)

/-- STT to W48: exact, or the update of R134; the OVERFLOW events of R49, and the elements whose update adds opposite
infinities (Table 6-7, cause 0x40). -/
def sttW48 (s : State) (fl : Fly) (f : SttOp) (d : Desc) (da : Option Desc) (src : Tab Word) :
    State × List CvEl × List (Nat × Nat) :=
  (rect fl.rl fl.vl).foldl (fun (acc : State × List CvEl × List (Nat × Nat)) p =>
    let row := f.rowoff.toNat + p.1
    let x := trVal src p.1 p.2
    let grad := isOne f.grad
    match da with
    | none =>
      let h := if xIsNan (dec32 x) then 0x7FC00000#32 else x
      (w48Write acc.1 d row p.2 h 0, acc.2.1 ++ [⟨row, p.2, 0, { code := 0 }, grad && !xFinite (dec32 x)⟩], acc.2.2)
    | some a =>
      let (wh, wt) := w48Read s a row p.2
      let (h, t, ovf) := enc48 (xAdd (dec48 wh wt) (dec32 x))
      (w48Write acc.1 d row p.2 h t, acc.2.1 ++ [⟨row, p.2, 0, { code := 0, ovf := ovf }, false⟩],
        if xAddInv (dec48 wh wt) (dec32 x) then acc.2.2 ++ [(row, p.2)] else acc.2.2)) (s, [], [])

/-- All rows of an STT that is not W48. -/
def sttRows (s0 : State) (c : Nat) (fl : Fly) (f : SttOp) (d : Desc) (tbl : List XVal) (src : Tab Word) (bits : Nat) :
    State × List CvEl :=
  let sct := sctRead s0 c fl.step 0
  (List.range fl.rl).foldl (fun (acc : State × List CvEl) r =>
    let row := f.rowoff.toNat + r
    let (sc, es) := if isOne f.i16 then
        ([], (List.range fl.vl).map (fun col =>
          let x := dec32 (trVal src r col)
          let cv := i16Conv (xDiv x (lsVal sct f.ls.toNat row col))
          (⟨row, col, 0, cv, isOne f.grad && !xFinite x⟩ : CvEl)))
      else sttRow s0 fl f d sct tbl c src r
    (sttWrite acc.1 c d bits row sc es, acc.2 ++ es)) (s0, [])

/-- A codebook that STT encodes against: none when it is EMPTY or not needed. -/
def sttTable (s : State) (c : Nat) (fl : Fly) (d : Desc) : Option (List XVal) :=
  if fmtIsCb (dFmt d) then (cbtRead s c fl.step 0).map (cbUsed (dFmt d)) else some []

/-- STT at its first pass. -/
def sttCommit (s : State) (c k : Nat) (f : Fly) (op : SttOp) : Option State :=
  let da := if isOne op.upd then roleDesc s c f .ha 0 else none
  match roleDesc s c f .hin 0 with
  | none => none
  | some d =>
    let key := op.key.toNat
    let row0 := op.rowoff.toNat
    let bits := if isOne op.i16 then 16 else fmtBits (dFmt d)
    if isOne op.upd && da.isNone then none
    else if sttDescBad op d f.vl || (match da with
        | some a => latheDescBad a f.vl 0 false || dFmt a != 0x0C
        | none => false) then some (faultFly s c k f (recOf s f 1 5 0 0 0 key))
    else if isOne op.grad && f.late then some (faultFly s c k f (recOf s f 0x25 5 0 0 0 key))
    else if !panelIn s c d bits row0 f.rl f.vl || (match da with
        | some a => !panelIn s c a 48 row0 f.rl f.vl
        | none => false) then some (faultFly s c k f (recOf s f 2 3 0 0 0 key))
    else
      match sttTable s c f d with
      | none => some (faultFly s c k f (recOf s f 0x44 3 row0 0 0 key))
      | some tbl =>
        match sttPoison s c d da op.mx bits row0 f.rl f.vl with
        | some p => some (faultPoison s c k f 3 key p)
        | none =>
          let src := trRead s c f.step op.src.toNat
          let (s1, es, bad) := if dFmt d == 0x0C then sttW48 s f op d da src else
            let q := sttRows s c f op d tbl src bits
            (q.1, q.2, [])
          let s1 := unpoison s1 (rowSpans d bits row0 f.rl f.vl)
          let rs := convRecs (fun cause r cc ch => latheRec s f cause r cc ch)
            (bad.foldl (fun q p => addRec q (latheRec s f 0x40 p.1 p.2 0) 1) []) es
          let s2 := convSticky (convTallies s1 c es) c k es
          let s3 := detect s2 c key f.step ((es.filter (fun e => e.det)).length)
          let outs := match pushOf f .hr 0 with
            | some a => [(a.h, a.num, d)]
            | none => []
          some (latheDone (bumpPasses s3 c (passes f.rl (if dFmt d == 1 then 8 else 4))) c k f rs outs (isOne op.grad))

/-! Cards (R178-R182). -/

def ciOp (w : Word) : Nat := w.toNat / 2 ^ 26
def ciD (w : Word) : Nat := w.toNat / 2 ^ 21 % 32
def ciA (w : Word) : Nat := w.toNat / 2 ^ 15 % 64
def ciB (w : Word) : Nat := w.toNat / 2 ^ 9 % 64
def ciC (w : Word) : Nat := w.toNat / 2 ^ 3 % 64
def ciMod (w : Word) : Nat := w.toNat % 8
/-- CVT: format, RM, GRAD and table (Table 6-4). -/
def ciFmt (w : Word) : Nat := ciB w % 32
def ciRm (w : Word) : BitVec 2 := BitVec.ofNat 2 (ciC w / 16)
def ciGrad (w : Word) : Bool := ciC w / 8 % 2 == 1
def ciTab (w : Word) : Nat := ciC w / 4 % 2

/-- How many of A, B, C an operation uses as sources; none for a code Table 6-5 does not list. -/
def ciSources (op : Nat) : Option Nat :=
  match op with
  | 0x01 | 0x08 | 0x09 | 0x0A | 0x0B | 0x0C | 0x0D | 0x0E | 0x11 | 0x12 | 0x13 | 0x14 => some 1
  | 0x02 | 0x03 | 0x04 | 0x06 | 0x07 => some 2
  | 0x05 | 0x10 => some 3
  | 0x15 => some 0
  | _ => none

/-- A listed source code other than D0 and D1. -/
def ciSrcOk (x : Nat) : Bool := x ≤ 0x0B || x == 0x0E || x == 0x0F || (0x10 ≤ x && x ≤ 0x2F)

/-- R182: the checks of one instruction. -/
def ciOk (w : Word) : Bool :=
  let op := ciOp w
  let dOk := ciD w ≤ 7 || ciD w == 0x0C || ciD w == 0x0D
  match ciSources op with
  | none => false
  | some n =>
    let a := if n ≥ 1 then ciSrcOk (ciA w) else ciA w == 0
    let b := if op == 0x12 then
        ciB w < 32 && (ciFmt w ∈ [1, 2, 3, 4, 8, 9, 0x0A, 0x0B])
      else if n ≥ 2 then ciSrcOk (ciB w) else ciB w == 0
    let cc := if op == 0x12 then
        rmFits (ciRm w) (ciFmt w) (ciGrad w) && ciC w % 4 == 0 && (fmtIsCb (ciFmt w) || ciTab w == 0)
      else if n ≥ 3 then ciSrcOk (ciC w) else ciC w == 0
    let md := if op == 0x13 then true else if op == 0x14 then ciMod w < 2 else ciMod w == 0
    dOk && a && b && cc && md

/-- The sources and destinations an instruction touches, as operand codes. -/
def ciUses (w : Word) : List Nat :=
  match ciSources (ciOp w) with
  | some 1 => [ciA w]
  | some 2 => [ciA w, ciB w]
  | some 3 => [ciA w, ciB w, ciC w]
  | _ => []

def srcBound (f : CardOp) (i : Nat) : Bool :=
  match i with
  | 0 => f.s0.mode != 0#2
  | 1 => f.s1.mode != 0#2
  | 2 => f.s2.mode != 0#2
  | _ => f.s3.mode != 0#2

/-- R178: the card reads an unbound source or writes an unbound destination. -/
def bindBad (f : CardOp) (w : Word) : Bool :=
  (ciUses w).any (fun x => 8 ≤ x && x ≤ 0x0B && !srcBound f (x - 8)) ||
    (ciD w == 0x0C && !isOne f.d0.bound) || (ciD w == 0x0D && !isOne f.d1.bound)

/-- What one element's run of a card holds: temporaries, destinations, events (cause, instruction), the
conversions it made with their instruction, and what a gradient conversion detected. -/
structure CardEl where
  ts   : List Word := [0#32, 0#32, 0#32, 0#32, 0#32, 0#32, 0#32, 0#32]
  d0   : Option Word := none
  d1   : Option Word := none
  /-- D1 has been written after D0 -/
  d1Last : Bool := false
  evs  : List (Nat × Nat) := []
  cvs  : List (Nat × Conv) := []
  dets : Nat := 0
  deriving DecidableEq, Repr

/-- What every element of a CARD reads: its tables and its bound sources' registers. -/
structure CardEnv where
  f    : CardOp
  card : Card
  srcs : List (Tab Word)
  sct0 : Option (List Word)
  sct1 : Option (List Word)
  cbt0 : Option (List Word)
  cbt1 : Option (List Word)
  sat  : Bool
  rnd  : Nat → Nat

def cardSrcOf (f : CardOp) (i : Nat) : CardSrc :=
  match i with
  | 0 => f.s0
  | 1 => f.s1
  | 2 => f.s2
  | _ => f.s3

/-- A bound source's value for element (r, c) (R178). -/
def srcVal (e : CardEnv) (i r c : Nat) : Word :=
  let x := cardSrcOf e.f i
  let t := e.srcs.getD i []
  match x.mode.toNat with
  | 1 => trVal t r c
  | 2 => trVal t x.y.toNat c
  | _ => trVal t x.y.toNat r

/-- An operand code's value (R180). -/
def opndVal (e : CardEnv) (st : CardEl) (x r c : Nat) : XVal :=
  if x ≤ 7 then dec32 (st.ts.getD x 0#32)
  else if x ≤ 0x0B then dec32 (srcVal e (x - 8) r c)
  else if x == 0x0E then xInt ((e.f.rowoff.toNat + r : Nat) : Int)
  else if x == 0x0F then xInt (c : Int)
  else dec32 (e.card.consts.getD (x - 0x10) 0#32)

/-- A result rounded to FP32, or to BF16 under PREC, and whether a finite result became infinite (R181). -/
def cardRound (bf : Bool) (x : XVal) : Word × Bool :=
  if bf then let v := toFlt bf16 false .rne 0 x; (BitVec.ofNat 32 (v.code * 65536), v.ovf)
  else (enc32 x, over32 x)

/-- Is a value negative and not zero? -/
def xNegNZ (x : XVal) : Bool := xSign x && !xIsNan x && !xIsZero x

/-- The exact result of an arithmetic instruction and whether it is invalid (Table 6-5, R181). -/
def cardArith (op : Nat) (a b c : XVal) : XVal × Bool :=
  let inv2 (y : XVal) : Bool := xIsNan y && !xIsNan a && !xIsNan b
  match op with
  | 0x01 => (a, false)
  | 0x02 => let y := xAdd a b; (y, inv2 y)
  | 0x03 => let y := xSub a b; (y, inv2 y)
  | 0x04 => let y := xMul a b; (y, inv2 y)
  | 0x05 =>
    let p := xMul a b
    let y := xAdd p c
    (y, inv2 p || (xIsNan y && !xIsNan p && !xIsNan c))
  | 0x06 => (xMin a b, false)
  | 0x07 => (xMax a b, false)
  | 0x08 => (xAbs a, false)
  | 0x09 => (xNeg a, false)
  | 0x0A => (xDiv xOne a, false)
  | 0x0B =>
    if xNegNZ a then (.nan, true)
    else match a with
      | .inf _ => (xPosZero, false)
      | .fin s n d e => if n == 0 then (.inf s, false) else (xDiv xOne (sqrtPos n d e), false)
      | .nan => (.nan, false)
  | 0x0C =>
    if xNegNZ a then (.nan, true)
    else match a with
      | .fin s n d e => if n == 0 then (.fin s 0 1 0, false) else (sqrtPos n d e, false)
      | x => (x, false)
  | 0x0D =>
    match a with
    | .inf true => (xPosZero, false)
    | .fin s n d e => (exp2Fin (qOf s n d e), false)
    | x => (x, false)
  | 0x0E =>
    if xNegNZ a then (.nan, true)
    else match a with
      | .fin _ n d e => if n == 0 then (.inf true, false) else (log2Pos n d e, false)
      | x => (x, false)
  | 0x10 => (if !xIsNan c && xLt xPosZero c then a else b, false)
  | 0x11 =>
    match a with
    | .fin s n d e => if n == 0 then (.fin s n d e, false) else (xInt (qFloor (qOf s n d e)), false)
    | x => (x, false)
  | _ => (.nan, false)

/-- A finite value that is an integer at or above 0. -/
def xIndex (x : XVal) : Option Nat :=
  match x with
  | .fin s n d e =>
    let fl := qFloor (qOf s n d e)
    if qEq (qInt fl) (qOf s n d e) && fl ≥ 0 then some fl.toNat else none
  | _ => none

/-- The value a converted code reads back as (R180): a float's value, an integer's code, a codebook's index. -/
def readBack (fmt code : Nat) : XVal :=
  match fmtKind fmt with
  | some (.flt f) => decFlt f code
  | some (.int b) => xInt (sInt b code)
  | _ => xInt (code : Int)

/-- One instruction on one element. DESIGN CHOICE: a LUT from an EMPTY table gives NaN (R167) and raises nothing (assumption log 149). -/
def cardStep (e : CardEnv) (r c : Nat) (st : CardEl) (i : Nat) (w : Word) : CardEl :=
  let bf := isOne e.f.prec
  let a := opndVal e st (ciA w) r c
  let row := e.f.rowoff.toNat + r
  let put (st : CardEl) (v : Word) : CardEl :=
    if ciD w == 0x0C then { st with d0 := some v, d1Last := false }
    else if ciD w == 0x0D then { st with d1 := some v, d1Last := true }
    else { st with ts := st.ts.set (ciD w) v }
  let fin (y : XVal) (inv : Bool) (ops : Bool) (st : CardEl) : CardEl :=
    let (v, ovf) := cardRound bf y
    let evs := (if inv then [(0x40, i)] else []) ++ (if ovf && ops then [(0x41, i)] else [])
    put { st with evs := st.evs ++ evs } v
  match ciOp w with
  | 0x12 =>
    let m := ciFmt w
    let t := (if ciTab w == 1 then e.cbt1 else e.cbt0).getD []
    let rm := rmMode (ciRm w)
    let cv := convOne m e.sat rm (if rm == .sr then e.rnd (256 * row + c) else 0) false a 0 (cbUsed m t)
    let det := ciGrad w && (!xFinite a || cv.resNf)
    -- the conversion rounds once, to its own format, and is read back as FP32 whatever PREC says (R57, R180)
    put { st with cvs := st.cvs ++ [(i, cv)], dets := st.dets + (if det then 1 else 0) } (enc32 (readBack m cv.code))
  | 0x13 =>
    let t := if ciMod w / 4 == 1 then e.sct1 else e.sct0
    let ix := match ciMod w % 4 with
      | 0 => c
      | 1 => c / 32
      | 2 => row
      | _ => row / 32
    let sc := sctVal t ix
    let y := xMul a sc
    fin y (mulInvalid a sc y) true st
  | 0x14 =>
    (match (if ciMod w % 2 == 1 then e.cbt1 else e.cbt0) with
    | none => fin .nan false true st
    | some l =>
      match xIndex a with
      | some ix => if ix < l.length then fin (dec32 (l.getD ix 0#32)) false true st else fin .nan true true st
      | none => fin .nan true true st)
  | 0x15 => fin (.fin false (e.rnd (256 * row + c)) 1 (-16)) false true st
  | op =>
    let (y, inv) := cardArith op a (opndVal e st (ciB w) r c) (opndVal e st (ciC w) r c)
    fin y inv true st

/-- A card on one element (R179). -/
def cardEl (e : CardEnv) (r c : Nat) : CardEl :=
  e.card.instrs.zipIdx.foldl (fun st p => cardStep e r c st p.2 p.1) {}

/-- The slot's card as a command of a step reads it (R167). -/
def cardRead (s : State) (c step slot : Nat) : Option Card :=
  match tfind (getCell s c).cards slot with
  | some x => if x.step == step then some x else none
  | none => none

/-- A card holds a gradient conversion (R60). -/
def cardGrad (x : Card) : Bool := x.instrs.any (fun w => ciOp w == 0x12 && ciGrad w)

/-- The first CVT that encodes against an EMPTY codebook table (R167). -/
def cardEmptyTab (x : Card) (t0 t1 : Option (List Word)) : Option Nat :=
  (x.instrs.zipIdx.find? (fun p => ciOp p.1 == 0x12 && fmtIsCb (ciFmt p.1) &&
    (if ciTab p.1 == 1 then t1 else t0).isNone)).map (fun p => p.2)

/-- The records of a CARD in element and instruction order (R188). -/
def cardRecs (s : State) (f : Fly) (row0 : Nat) (els : List (Nat × Nat × CardEl)) : List ExRec :=
  els.foldl (fun q p => match p with
    | (r, c, x) =>
      let q1 := x.evs.foldl (fun q e => addRec q (latheRec s f e.1 (row0 + r) c e.2) 1) q
      convRecs (fun cause rr cc ch => latheRec s f cause rr cc ch) q1
        (x.cvs.map (fun v => (⟨row0 + r, c, v.1, v.2, false⟩ : CvEl)))) []

/-- What a card leaves in a destination for one element. With both destinations bound to one register the last write stands
(R179), and D0 carries it. -/
def cardOut (same : Bool) (first : Bool) (x : CardEl) : Option Word :=
  if !same then (if first then x.d0 else x.d1)
  else if !first then none
  else if x.d1Last then x.d1 else x.d0

/-- CARD at its first pass. A fault of its card or bindings stands at the first active element (R188). -/
def cardCommit (s : State) (c k : Nat) (f : Fly) (op : CardOp) : Option State :=
  let key := op.key.toNat
  let row0 := op.rowoff.toNat
  match cardRead s c f.step op.slot.toNat with
  | none => some (faultFly s c k f (recOf s f 0x45 3 row0 0 0 key))
  | some x =>
    let t0 := cbtRead s c f.step 0
    let t1 := cbtRead s c f.step 1
    match (x.instrs.zipIdx.find? (fun p => bindBad op p.1)).map (fun p => p.2) with
    | some i => some (faultFly s c k f (recOf s f 0x45 3 row0 0 i key))
    | none =>
      if cardGrad x && f.late then some (faultFly s c k f (recOf s f 0x25 5 0 0 0 key))
      else match cardEmptyTab x t0 t1 with
        | some i => some (faultFly s c k f (recOf s f 0x44 3 row0 0 i key))
        | none =>
          let e : CardEnv := {
            f := op, card := x, srcs := (List.range 4).map (fun i => trRead s c f.step (cardSrcOf op i).reg.toNat)
            sct0 := sctRead s c f.step 0, sct1 := sctRead s c f.step 1, cbt0 := t0, cbt1 := t1
            sat := f.sat, rnd := rbits s f.step key }
          let els := (rect f.rl f.vl).map (fun p => (p.1, p.2, cardEl e p.1 p.2))
          let w (g : CardEl → Option Word) : Tab Word := els.filterMap (fun p => match p with
            | (r, cc, y) => (g y).map (fun v => (256 * r + cc, v)))
          let put (s : State) (d : CardDst) (ws : Tab Word) : State :=
            if isOne d.bound && !ws.isEmpty then trWrite s c f.step d.reg.toNat (inRect f.rl f.vl) ws else s
          let same := isOne op.d0.bound && isOne op.d1.bound && op.d0.reg == op.d1.reg
          let s1 := put (put s op.d0 (w (cardOut same true))) op.d1 (w (cardOut same false))
          let cvs := els.flatMap (fun p => match p with
            | (r, cc, y) => y.cvs.map (fun v => (⟨row0 + r, cc, v.1, v.2, false⟩ : CvEl)))
          let n := (els.map (fun p => p.2.2.dets)).sum
          let s2 := detect (convSticky (convTallies s1 c cvs) c k cvs) c key f.step n
          let per := if isOne op.prec then 8 else 4
          some (latheDone (bumpPasses s2 c (x.instrs.length * passes f.rl per)) c k f (cardRecs s f row0 els) [] (cardGrad x))

/-! Reductions (R184-R186). -/

/-- A line's values as (register row, register column), in ascending order. -/
def redLine (col : Bool) (f : Fly) (i : Nat) : List (Nat × Nat) :=
  if col then (List.range f.rl).map (fun r => (r, i)) else (List.range f.vl).map (fun c => (i, c))

/-- An addition of a reduction, with its events at a place: (cause, row, col, segment). -/
def redAdd (acc : Word) (v : XVal) (bad : Bool) (at_ : Nat × Nat) (g : Nat) : Word × List (Nat × Nat × Nat × Nat) :=
  let a := dec32 acc
  let y := xAdd a v
  let inv := bad || (xIsNan y && !xIsNan a && !xIsNan v)
  (enc32 y, (if inv then [(0x40, at_.1, at_.2, g)] else []) ++
    (if xFinite a && xFinite v && over32 y then [(0x41, at_.1, at_.2, g)] else []))

/-- A term of SUM, SUMSQ or DOT and whether it is 0 times infinity. -/
def redTerm (op : Nat) (x y : Word) : XVal × Bool :=
  match op with
  | 0 => (dec32 x, false)
  | 1 => (xMul (dec32 x) (dec32 x), false)
  | _ => let p := xMul (dec32 x) (dec32 y); (p, mulInvalid (dec32 x) (dec32 y) p)

/-- The segments of a line in order: the exact sum, whether infinities met, the terms' events, the place. -/
def redSegs (op : Nat) (src src2 : Tab Word) (line : List (Nat × Nat)) :
    List (XVal × Bool × List (Nat × Nat × Nat × Nat) × (Nat × Nat)) :=
  (chunks32 8 line).zipIdx.map (fun p =>
    let ts := p.1.map (fun q => (q, redTerm op (trVal src q.1 q.2) (trVal src2 q.1 q.2)))
    let vs := ts.map (fun t => t.2.1)
    (xSum vs, vs.any (fun v => v == .inf false) && vs.any (fun v => v == .inf true),
      (ts.filter (fun t => t.2.2)).map (fun t => (0x40, t.1.1, t.1.2, p.2)), p.1.headD (0, 0)))

/-- Where output g of line i goes (Table 6-6). -/
def redPlace (f : RedOp) (i g : Nat) : Nat :=
  256 * (f.drow.toNat + g) + (if isOne f.axis then i else f.dcol.toNat + i)

/-- SUM, SUMSQ and DOT of one line: the writes and the events. -/
def redSums (f : RedOp) (fl : Fly) (src src2 dst : Tab Word) (i : Nat) : Tab Word × List (Nat × Nat × Nat × Nat) :=
  let segs := redSegs f.op.toNat src src2 (redLine (isOne f.axis) fl i)
  let start (g : Nat) : Word := if isOne f.acc then tget 0#32 dst (redPlace f i g) else 0x80000000#32
  if isOne f.seg then
    (segs.zipIdx.map (fun p => (redPlace f i p.2, (redAdd (start p.2) p.1.1 p.1.2.1 p.1.2.2.2 p.2).1)),
      segs.zipIdx.flatMap (fun p => (redAdd (start p.2) p.1.1 p.1.2.1 p.1.2.2.2 p.2).2 ++ p.1.2.2.1))
  else
    let (acc, evs) := segs.zipIdx.foldl (fun (q : Word × List (Nat × Nat × Nat × Nat)) p =>
      let (w, e) := redAdd q.1 p.1.1 p.1.2.1 p.1.2.2.2 p.2
      (w, q.2 ++ e ++ p.1.2.2.1)) (start 0, [])
    ([(redPlace f i 0, acc)], evs)

/-- Does v replace m as the extremum: greater (less), or NaN where m is not (R185)? -/
def extWins (mx : Bool) (m v : XVal) : Bool :=
  if xIsNan m then false else if xIsNan v then true else if mx then xLtZ m v else xLtZ v m

/-- MAX, MIN and ARGMAX of one line: the writes. -/
def redExt (f : RedOp) (fl : Fly) (src dst : Tab Word) (i : Nat) : Tab Word :=
  let col := isOne f.axis
  let mx := f.op != 4#3
  let ix (q : Nat × Nat) : Nat := f.idxb.toNat + (if col then f.rowoff.toNat + q.1 else q.2)
  let d0 := redPlace f i 0
  let d1 := redPlace f i 1
  let init : Option (Word × Word) := if isOne f.acc then some (tget 0#32 dst d0, tget 0#32 dst d1) else none
  let out := (redLine col fl i).foldl (fun (m : Option (Word × Word)) q =>
    let v := trVal src q.1 q.2
    let nv := (v, enc32 (xInt (ix q : Int)))
    match m with
    | none => some nv
    | some y => if extWins mx (dec32 y.1) (dec32 v) then some nv else some y) init
  match out with
  | some (v, x) => (d0, enc32 (dec32 v)) :: (if f.op == 5#3 then [(d1, x)] else [])
  | none => []

/-- RED at its first pass. -/
def redCommit (s : State) (c k : Nat) (f : Fly) (op : RedOp) : Option State :=
  let src := trRead s c f.step op.src.toNat
  let src2 := trRead s c f.step op.src2.toNat
  let dst := trRead s c f.step op.dst.toNat
  let lines := List.range (if isOne op.axis then f.vl else f.rl)
  let res := lines.map (fun i => if op.op.toNat ≤ 2 then redSums op f src src2 dst i else (redExt op f src dst i, []))
  let ws := res.flatMap (fun p => p.1)
  let evs := res.flatMap (fun p => p.2)
  let evs := if isOne op.axis then
      -- lowest row first (R188): the lines are columns
      (List.range f.rl).flatMap (fun r => evs.filter (fun e => e.2.1 == r))
    else evs
  let rs := evs.foldl (fun q e => addRec q (latheRec s f e.1 (op.rowoff.toNat + e.2.1) e.2.2.1 e.2.2.2) 1) []
  let s1 := trWrite s c f.step op.dst.toNat (fun key => ws.any (fun p => p.1 == key)) ws
  some (latheDone (bumpPasses s1 c (passes f.rl 4)) c k f rs [] false)

/-! ZMAP and TBL (R180-R183, R187). -/

/-- Every active element of columns [c0, c1) and rows [r0, r1) is a zero. -/
def allZero (t : Tab Word) (r0 r1 c0 c1 : Nat) : Bool :=
  (List.range (r1 - r0)).all (fun r => (List.range (c1 - c0)).all (fun c => (trVal t (r0 + r) (c0 + c)).toNat % 2 ^ 31 == 0))

/-- The byte ZMAP forms from the byte already there (R187). -/
def zmapByte (t : Tab Word) (f : ZmapOp) (rl vl old : Nat) : Nat :=
  (List.range 8).foldl (fun b j =>
    let was := old / 2 ^ j % 2
    let wr := if isOne f.axis then decide (f.rowoff.toNat ≤ 32 * j ∧ 32 * j + 32 ≤ f.rowoff.toNat + rl) else true
    let v := if isOne f.axis then allZero t (32 * j - f.rowoff.toNat) (32 * j - f.rowoff.toNat + 32) 0 vl
      else decide (32 * j < vl) && allZero t 0 rl (32 * j) (min vl (32 * j + 32))
    let bit := if !wr then was else if v && (!isOne f.andb || was == 1) then 1 else 0
    b + bit * 2 ^ j) 0

/-- ZMAP at its first pass. -/
def zmapCommit (s : State) (c k : Nat) (f : Fly) (op : ZmapOp) : Option State :=
  let p := op.panel.toNat
  let b := zmapByte (trRead s c f.step op.src.toNat) op f.rl f.vl (zbufRead s c f.step p)
  let s1 := modCell s c (fun x => { x with zbuf := tset x.zbuf p (f.step, b) })
  some (latheDone (bumpPasses s1 c (passes f.rl 4)) c k f [] [] false)

/-- Bytes TBL moves. -/
def tblBytes (f : TblOp) : Nat :=
  match f.kind.toNat with
  | 0 => 256
  | 1 => if f.fmt == 0x0D#5 then 256 else 1024
  | 2 => if f.fmt == 0x0B#5 then 32 else 512
  | _ => 256

def tblRefuse (s : State) (c k : Nat) (f : Fly) (cause i : Nat) : State :=
  faultFly (bumpPerf s (0x3023 + 0x40 * c) 6 1) c k f (recOf s f cause 3 0 0 i 0)

/-- TBL's effect with its panel at a local address. -/
def tblDo (s : State) (c k : Nat) (f : Fly) (op : TblOp) (a : Nat) : State :=
  let i := op.index.toNat
  let go (x : State) : State := latheDone (bumpPasses x c 32) c k f [] [] false
  match op.kind.toNat with
  | 0 =>
    let ins := (List.range (op.len.toNat + 1)).map (fun j => BitVec.ofNat 32 (memLe s (a + 4 * j) 4))
    (match ins.findIdx? (fun w => !ciOk w) with
    | some j => tblRefuse s c k f 0x45 j
    | none =>
      let ks := (List.range 32).map (fun j => BitVec.ofNat 32 (memLe s (a + 128 + 4 * j) 4))
      go (modCell s c (fun x => { x with cards := tset x.cards i ⟨f.step, ins, ks⟩ })))
  | 1 =>
    let es := (List.range 256).map (fun j =>
      if op.fmt == 0x0D#5 then enc32 (decE8 (memGet s (a + j)).toNat) else enc32 (dec32 (BitVec.ofNat 32 (memLe s (a + 4 * j) 4))))
    go (modCell s c (fun x => { x with scts := tset x.scts i ⟨f.step, es⟩ }))
  | 2 =>
    let vs := (List.range (cbLen op.fmt.toNat)).map (fun j => decFlt bf16 (memLe s (a + 2 * j) 2))
    (match cbBadAt 0 vs with
    | some j => tblRefuse s c k f 0x44 j
    | none => go (modCell s c (fun x => { x with cbts := tset x.cbts i ⟨f.step, vs.map enc32⟩ })))
  | _ => go (memWrite s a ((List.range 256).map (fun p => BitVec.ofNat 8 (zbufRead s c f.step p))))

/-- TBL at its first pass. -/
def tblCommit (s : State) (c k : Nat) (f : Fly) (op : TblOp) : Option State :=
  match roleDesc s c f .hin 0 with
  | none => none
  | some d =>
    let a := gLocal (dAddr d)
    if dLay d == 1 then some (faultFly s c k f (recOf s f 1 5 0 0 0 0))
    else if !isLocalAddr s (dAddr d) || !inBench c a (tblBytes op) then some (faultFly s c k f (recOf s f 2 3 0 0 0 0))
    else
      match (if isOne op.dir then edgePoison s a (tblBytes op) else firstPoison s a (tblBytes op)) with
      | some p => some (faultPoison s c k f 3 0 p)
      | none => some (tblDo s c k f op a)

end Sys2Proof.Machine
end

