-- ==== Sys2Proof/Machine/Bank.lean ====
section
/-! DEFINITION. The fence of bank regions and journal, and the replica fold (R328, R334, R336). -/
namespace Sys2Proof.Machine

/-- What the fence says of a command's accesses. -/
inductive Fence
  | ok
  | wait
  | fault (cause a : Nat)
  /-- the write waits for the old contents of a unit (R359) -/
  | cow (unit : Nat)
  deriving DecidableEq, Repr

/-- The first of the writes that overlaps the journal or the copy the step reads (R328, R334). -/
def fenceFault (s : State) (step : Nat) : List (Nat × Nat) → Option (Nat × Nat)
  | [] => none
  | (a, n) :: t =>
    if inJournal s a n then some (0x81, max a (journalBase s))
    else match (bankRegions s).find? (fun k => inCopy s k (step % 2) a n) with
      | some k => some (0x80, max a (bankBase s k (step % 2)))
      | none => if inMirror s a n then some (0x90, max a (oget s 0x5801 3)) else fenceFault s step t

/-- A span meets a write that arrived before and still waits (R359): a command takes it in that order (R470). -/
def pendMeets (s : State) (sp : List (Nat × Nat)) : Bool := s.pendW.any (fun w => sp.any (fun p => overlaps w.a (pendLen w) p.1 p.2))

/-- R328, R334, R354, R359: a command of a step with these reads and writes. -/
def fenceOf (s : State) (step : Nat) (rd wr : List (Nat × Nat)) : Fence :=
  match fenceFault s step wr with
  | some (c, a) => .fault c a
  | none =>
    if pendMeets s (rd ++ wr) then .wait
    else if (rd ++ wr).all (fun p => !inBank s p.1 p.2) || step ≤ oget s 0x5401 1 || step ≤ s.released + 1 then
      match (cowUnits s wr).head? with
      | some u => .cow u
      | none => .ok
    else .wait

/-- A command's write begins to wait for a unit: the copy-on-write read is queued (R359, R360). -/
def cowWait (s : State) (u : Nat) : Option State :=
  if s.cowQ.contains u then none else some (cowEnter s u)

/-- A 32-byte word's lanes in the fold (R336). -/
def foldWord (r o : Nat) (lanes : List Nat) (poison : Bool) : BitVec 64 :=
  let h0 := kgFold ((BitVec.ofNat 64 o <<< 6) ^^^ BitVec.ofNat 64 r)
  let h := lanes.foldl (fun h l => kgFold (h ^^^ BitVec.ofNat 64 l)) h0
  if poison then kgFold (h ^^^ 0xA5A55A5AC3C33C3C#64) else h

/-- Adds the words that a write of n bytes at a put into a region's write copy to the step's fold. -/
def foldRegion (s : State) (step a n k : Nat) : State :=
  let b := bankBase s k ((step + 1) % 2)
  let ws := (List.range ((a + n - 1) / 32 + 1 - a / 32)).map (fun i => a / 32 + i)
  ws.foldl (fun s w =>
    if b ≤ 32 * w && 32 * w < b + bankSize s k then
      let h := foldWord k ((32 * w - b) / 32) ((List.range 4).map (fun j => memLe s (32 * w + 8 * j) 8)) (isPoison s (32 * w))
      modStep s step (fun t => { t with foldAcc := t.foldAcc + h, foldWords := t.foldWords + 1 })
    else s) s

/-- A write touches the fold of its step in every region whose write copy it meets. -/
def foldTouch (s : State) (step a n : Nat) : State :=
  ((bankRegions s).filter (fun k => inCopy s k ((step + 1) % 2) a n)).foldl (fun s k => foldRegion s step a n k) s

/-- A command of a step writes bytes. -/
def cmdWrite (s : State) (step a : Nat) (bs : List Byte) : State :=
  if bs.isEmpty then s else wtTouch (foldTouch (memWrite (cowNow s a bs.length) a bs) step a bs.length) step a bs.length

/-- A command of a step writes one word with its poison. -/
def cmdWriteWord (s : State) (step a : Nat) (w : DWord) : State := wtTouch (foldTouch (memWriteWord (cowNow s a 32) a w) step a 32) step a 32

/-- A record of causes 0x80, 0x81 and 0x90 (R350). -/
def fenceRec (s : State) (f : Fly) (cause a : Nat) : ExRec :=
  recOf s f cause (opUnit f.op) (a / 2 ^ 32) (a / 2 ^ 16) (a / 16) (keyTile f.op)

end Sys2Proof.Machine
end

