-- ==== Sys2Proof/Machine/Training.lean ====
section
/-! DEFINITION. Training commands (04, 05): the step a gated command names, UCOMMIT in its kinds and forms,
sparse and block copies, VPUB, VREL, UDONE, VOTE, and the rewrite of working copies at a rollback. -/
namespace Sys2Proof.Machine

/-! The gated step (R124, R129). -/

/-- The step a command's PAR names: the unsealed step of that parity; a stream still in a sealed step of
that parity keeps it (Table 4-5; assumption log 14). -/
def gateStep (s : State) (step par : Nat) : Option Nat :=
  if (getStep s step).isNone && step % 2 == par && s.past.any (fun p => p.1 == step) then some step
  else (stepOfPar s par).map (fun t => t.num)

/-- The verdict of a step: PASS, SKIP, or not yet (R129). -/
def verdictOf (s : State) (g : Nat) : Option Bool :=
  match getStep s g with
  | some t => t.verdict
  | none => (s.past.find? (fun p => p.1 == g)).map (fun p => p.2)

/-- The cell's UDONE of the step has passed. -/
def didUdone (s : State) (c g : Nat) : Bool :=
  match getStep s g with
  | some t => t.udones.contains c
  | none => true

/-- The command stands after a UDONE of its step in the stream (R124). -/
def afterUdone (s : State) (c k : Nat) (f : Fly) : Bool :=
  didUdone s c f.gstep || (getStrm s c k).fly.any (fun g => g.id < f.id && g.gstep == f.gstep && (match g.op with
    | .udone _ => true
    | _ => false))

/-! UCOMMIT. -/

/-- Rows and columns of a MASTER tile; bytes of a STATE region (Table 7-6). -/
def ucRows (f : UcommitOp) : Nat := f.dims.toNat % 256 + 1
def ucCols (f : UcommitOp) : Nat := f.dims.toNat / 256 + 1
def ucSize (f : UcommitOp) : Nat := (f.dims.toNat % 4096 + 1) * 4096

/-- The sparsity mode of a master descriptor: NONE, S24, S14, BLK in its LS field (R142; assumption log 15). -/
def spMode (d : Desc) : Nat := dLs d

/-- Local address of the mask plane: META counts words from ADDR (R142; assumption log 15). -/
def maskPlane (d : Desc) : Nat := gLocal (dAddr d) + 32 * dMeta d

/-- Mask word of block (r div 4, c div 4) of a tile with C columns. -/
def maskWord (s : State) (d : Desc) (cols r c : Nat) : Nat :=
  memLe s (maskPlane d + 2 * ((r / 4) * (cols / 4) + c / 4)) 2

/-- Element (r, c) of the master is kept: every element, the mask's, or those of present blocks. -/
def kept (s : State) (d : Desc) (cols r c : Nat) : Bool :=
  match spMode d with
  | 1 | 2 => maskWord s d cols r c / 2 ^ (4 * (r % 4) + c % 4) % 2 == 1
  | 3 => memLe s (maskPlane d) 8 / 2 ^ (8 * (r / 32) + c / 32) % 2 == 1
  | _ => true

/-- Ones of four bits of a mask word taken at a stride. -/
def ones4 (w start stride : Nat) : Nat := ((List.range 4).map (fun i => w / 2 ^ (start + stride * i) % 2)).sum

/-- R143: the first mask word, in row-major order, that fails its counts. A tile of R rows has ceil(R / 4) rows of words (R142). -/
def maskFails (s : State) (d : Desc) (rows cols : Nat) (wtSparse : Bool) : Option Nat :=
  let want := if spMode d == 1 then 2 else 1
  if spMode d != 1 && spMode d != 2 then none
  else (List.range (((rows + 3) / 4) * (cols / 4))).find? (fun i =>
    let w := memLe s (maskPlane d + 2 * i) 2
    (List.range 4).any (fun j => ones4 w (4 * j) 1 != want || (wtSparse && ones4 w j 4 != want)))

/-- A destination's format is one that a copy can have: not W48, not E8M0, and MX where it must be. -/
def copyDescBad (d : Desc) : Bool :=
  let m := dFmt d
  m == 0x0C || m == 0x0D || (dMx d && !fmtMxOk m) || (fmtMxAlways m && !dMx d)

def masterDescBad (d : Desc) : Bool := dFmt d != 0x0C || dMx d

/-- The learned scale of element (i, j) of a copy (R112). -/
def copyScale (s : State) (c : Nat) (d : Desc) (i j : Nat) : XVal :=
  match dLs d with
  | 1 => benchF32 s c (dLsa d + 4 * (i * dSpitch d + j / 32))
  | 2 => benchF32 s c (dLsa d + 4 * i)
  | 3 => benchF32 s c (dLsa d)
  | _ => xOne

/-- The codebook table of a copy (R112). -/
def copyTable (s : State) (c : Nat) (d : Desc) : List XVal :=
  if fmtIsCb (dFmt d) then cbTable s c (dCbt d) (cbLen (dFmt d)) else []

def copyTableBad (s : State) (c : Nat) (d : Desc) : Bool := fmtIsCb (dFmt d) && (cbBadAt 0 (copyTable s c d)).isSome

/-- One stored element of a copy: its position in the row, its master place and its value. -/
structure CopyEl where
  j   : Nat
  row : Nat
  col : Nat
  v   : XVal
  deriving DecidableEq, Repr

/-- The converted elements of one stored row i, block by block of 32 logical positions, and the scale codes
that were formed: (block, code). -/
def copyRow (s : State) (c : Nat) (d : Desc) (sat : Bool) (ci i : Nat) (els : List CopyEl) :
    List (CopyEl × CvEl) × List (Nat × Nat) :=
  let m := dFmt d
  let ls := dLs d != 0
  let q (e : CopyEl) : XVal := xDiv e.v (copyScale s c d i e.j)
  if dMx d then
    match fmtKind m with
    | some (.flt ff) =>
      let blks := (List.range 8).filterMap (fun b =>
        let g := els.filter (fun e => e.j / 32 == b)
        if g.isEmpty then none else some (b, g, mxComputed m ff sat ls .rne (g.map (fun e => (q e, 0)))))
      (blks.flatMap (fun p => (p.2.1.zip p.2.2.elems).map (fun x => (x.1, ⟨x.1.row, x.1.col, ci, x.2, false⟩))),
        blks.map (fun p => (p.1, p.2.2.scale)))
    | _ => ([], [])
  else
    let tbl := copyTable s c d
    let z := zpOf s c d i
    (els.map (fun e => (e, ⟨e.row, e.col, ci, convOne m sat .rne 0 ls (q e) z tbl, false⟩)), [])

/-- Packs element codes into bytes from a bit offset of zero (R53). -/
def packBytes (bits : Nat) (cs : List Nat) : List Byte :=
  natLe (cs.foldr (fun c acc => c % 2 ^ bits + 2 ^ bits * acc) 0) (packedBytes bits cs.length)

/-- Writes the codes of consecutive elements from element offset `off` of an array. -/
def codesWrite (s : State) (step base bits off : Nat) (cs : List Nat) : State :=
  if cs.isEmpty then s
  else if off * bits % 8 == 0 && cs.length * bits % 8 == 0 then cmdWrite s step (base + off * bits / 8) (packBytes bits cs)
  else
    let a := base + off * bits / 8
    let n := (off * bits % 8 + cs.length * bits + 7) / 8
    let s1 := cs.zipIdx.foldl (fun s p => elemSet s base bits (off + p.2) p.1) s
    cmdWrite s1 step a (memRead s1 a n)

/-- Groups consecutive stored offsets into runs: (first offset, codes). -/
def runsOf : List (Nat × Nat) → List (Nat × List Nat)
  | [] => []
  | (o, c) :: t =>
    match runsOf t with
    | (o', cs) :: r => if o' == o + 1 then (o, c :: cs) :: r else (o, [c]) :: (o', cs) :: r
    | [] => [(o, [c])]

/-- The metadata byte row of stored row i under a pattern: the fields of its groups (R138). -/
def metaBytes (pat : Nat) (kp : Nat → Bool) (len : Nat) : List Byte :=
  let fld (g : Nat) : Nat :=
    let ps := (List.range 4).filter (fun q => kp (4 * g + q))
    if pat == 24 then ps.headD 0 + 4 * (ps.getLastD 0) else ps.headD 0
  let groups := (len + 3) / 4
  let per := if pat == 24 then 2 else 4
  let w := if pat == 24 then 4 else 2
  (List.range ((groups + per - 1) / per)).map (fun b => BitVec.ofNat 8
    ((List.range per).foldl (fun acc t => acc + (if per * b + t < groups then fld (per * b + t) else 0) * 2 ^ (w * t)) 0))

/-- One copy of a master tile: where its rows go, and what each holds. -/
structure CopyPlan where
  d    : Desc
  base : Nat
  /-- the Wᵀ copy: stored rows run along the master's columns -/
  tr   : Bool
  /-- 0 dense, 24, 14 -/
  pat  : Nat

def copyPat (m : Desc) (tr : Bool) (d : Desc) : Nat :=
  if spMode m == 1 && (!tr || dMpitch d != 0) then 24
  else if spMode m == 2 && (!tr || dMpitch d != 0) then 14
  else 0

/-- Master element of stored row i, position j. -/
def srcOf (tr : Bool) (i j : Nat) : Nat × Nat := if tr then (j, i) else (i, j)

/-- The elements of stored row i that the copy converts: all of them, the kept ones, those of present blocks;
a dense Wᵀ of a masked master has +0 at its pruned places (R143, R144, R146). -/
def copyEls (s : State) (m : Desc) (p : CopyPlan) (rows cols i : Nat) : List CopyEl :=
  (List.range (if p.tr then rows else cols)).filterMap (fun j =>
    let (r, c) := srcOf p.tr i j
    let k := kept s m cols r c
    let v := let (h, t) := w48Read s m r c; dec48 h t
    if k then some ⟨j, r, c, v⟩
    else if p.pat == 0 && (spMode m == 1 || spMode m == 2) then some ⟨j, r, c, xPosZero⟩
    else none)

/-- Writes one stored row of a copy: elements, scales, metadata. The events come back. -/
def copyRowWrite (s0 s : State) (c step : Nat) (m : Desc) (p : CopyPlan) (sat : Bool) (rows cols i : Nat) :
    State × List CvEl :=
  let bits := fmtBits (dFmt p.d)
  let ci := if p.tr then 1 else 0
  let (els, scs) := copyRow s0 c p.d sat ci i (copyEls s0 m p rows cols i)
  let place (e : CopyEl) (ix : Nat) : Nat := i * dPitch p.d + (if p.pat == 0 then e.j else ix)
  let runs := runsOf (els.zipIdx.map (fun x => (place x.1.1 x.2, x.1.2.cv.code)))
  let s1 := runs.foldl (fun s r => codesWrite s step p.base bits r.1 r.2) s
  let s2 := scs.foldl (fun s x => cmdWrite s step (benchAddr c (dMxs p.d + i * dSpitch p.d + x.1)) [BitVec.ofNat 8 x.2]) s1
  let s3 := if p.pat == 0 then s2
    else cmdWrite s2 step (benchAddr c (dMeta p.d + i * dMpitch p.d))
      (metaBytes p.pat (fun j => let (r, cc) := srcOf p.tr i j; kept s0 m cols r cc) (if p.tr then rows else cols))
  (s3, els.map (fun x => x.2))

/-- Wᵀ's bitmap of a mask word: bit 8 c + r for each present block (r, c) (R146). -/
def bitT (w : Nat) : Nat :=
  (List.range 64).foldl (fun acc b => acc + (w / 2 ^ b % 2) * 2 ^ (8 * (b % 8) + b / 8)) 0

/-- Writes one copy of a master tile (R112, R143, R144, R146). -/
def copyWrite (s0 s : State) (c step : Nat) (m : Desc) (p : CopyPlan) (sat : Bool) (rows cols : Nat) : State × List CvEl :=
  let (s1, es) := (List.range (if p.tr then cols else rows)).foldl (fun (acc : State × List CvEl) i =>
    let (s', e) := copyRowWrite s0 acc.1 c step m p sat rows cols i
    (s', acc.2 ++ e)) (s, [])
  let s2 := if spMode m != 3 then s1
    else
      let w := memLe s0 (maskPlane m) 8
      cmdWrite s1 step (benchAddr c (dMapa p.d)) (natLe (if p.tr then bitT w else w) 8)
  -- lowest master row first, then lowest column (R135)
  (s2, (List.range rows).flatMap (fun r => es.filter (fun e => e.row == r)))

/-- Rows of a plane: heads at ADDR, tails at TADDR (R52). -/
def planeRows (d : Desc) (rows cols : Nat) : List (Nat × Nat) :=
  (List.range rows).map (fun r => (gLocal (dAddr d) + 4 * (r * dPitch d), 4 * cols)) ++
    (List.range rows).map (fun r => (gLocal (dTaddr d) + 2 * (r * dPitch d), 2 * cols))

/-- Bytes of a master's mask plane. -/
def maskLen (d : Desc) (rows cols : Nat) : Nat :=
  match spMode d with
  | 1 | 2 => 2 * (((rows + 3) / 4) * (cols / 4))
  | 3 => 8
  | _ => 0

def maskRow (d : Desc) (rows cols : Nat) : List (Nat × Nat) :=
  if maskLen d rows cols == 0 then [] else [(maskPlane d, maskLen d rows cols)]

/-- Elements a stored row of a copy holds at most: all of it, or the kept ones of its groups of four (R137). -/
def copyKeep (p : CopyPlan) (len : Nat) : Nat :=
  let groups := (len + 3) / 4
  if p.pat == 24 then min len (2 * groups) else if p.pat == 14 then groups else len

/-- Bytes of a stored row's metadata (R138). -/
def copyMeta (p : CopyPlan) (len : Nat) : Nat :=
  let groups := (len + 3) / 4
  if p.pat == 24 then (groups + 1) / 2 else (groups + 3) / 4

/-- What a copy writes and reads beside the master. -/
def copySpans (c : Nat) (p : CopyPlan) (rows cols : Nat) (mode : Nat) : List (Nat × Nat) × List (Nat × Nat) :=
  let bits := fmtBits (dFmt p.d)
  let nr := if p.tr then cols else rows
  let len := if p.tr then rows else cols
  let keep := copyKeep p len
  let row (i : Nat) : Nat × Nat := (p.base + i * dPitch p.d * bits / 8, packedBytes bits keep)
  let wr := (List.range nr).map row ++
    (if dMx p.d then [(benchAddr c (dMxs p.d), (nr - 1) * dSpitch p.d + (len + 31) / 32)] else []) ++
    (if p.pat == 0 then [] else [(benchAddr c (dMeta p.d), (nr - 1) * dMpitch p.d + copyMeta p len)]) ++
    (if mode == 3 then [(benchAddr c (dMapa p.d), 8)] else [])
  let rd := (match dLs p.d with
      | 1 => [(benchAddr c (dLsa p.d), 4 * ((nr - 1) * dSpitch p.d + (len + 31) / 32))]
      | 2 => [(benchAddr c (dLsa p.d), 4 * nr)]
      | 3 => [(benchAddr c (dLsa p.d), 4)]
      | _ => []) ++
    (if dZparr p.d && fmtIsInt (dFmt p.d) then [(benchAddr c (dZpa p.d), nr)] else []) ++
    (if fmtIsCb (dFmt p.d) then [(benchAddr c (dCbt p.d), 2 * cbLen (dFmt p.d))] else [])
  (rd, wr)

/-- What a copy writes row by row, for the words it only partly covers (R236). -/
def copyEdges (c : Nat) (p : CopyPlan) (rows cols : Nat) (mode : Nat) : List (Nat × Nat) :=
  let bits := fmtBits (dFmt p.d)
  let nr := if p.tr then cols else rows
  let len := if p.tr then rows else cols
  let keep := copyKeep p len
  (List.range nr).flatMap (fun i => (p.base + i * dPitch p.d * bits / 8, packedBytes bits keep) ::
    ((if dMx p.d then [(benchAddr c (dMxs p.d + i * dSpitch p.d), (len + 31) / 32)] else []) ++
      (if p.pat == 0 then [] else [(benchAddr c (dMeta p.d + i * dMpitch p.d), copyMeta p len)]))) ++
    (if mode == 3 then [(benchAddr c (dMapa p.d), 8)] else [])

/-- Bits of an address in a record (R135). -/
def ucRec (s : State) (f : Fly) (cause : Nat) (a : Nat) : ExRec :=
  recOf s f cause 5 (a / 2 ^ 32) (a / 2 ^ 16) (a / 16) (opTile f.op)

/-- The master tiles of two commits of one step overlap: some row of head plane B meets another (R116). DEDUCED: the tile is where
its bank-B heads stand, the address that R135 puts into the record; tail and mask planes are not compared (assumption log
108). -/
def tilesMeet (d : Desc) (rows cols : Nat) (e : CommitEnt) : Bool := rowsMeet d rows cols e.hbb (ucRows e.op) (ucCols e.op)

/-- Copies bytes from a to b. -/
def copyBytes (s : State) (step a b n : Nat) : State := cmdWrite s step b (memRead s a n)

/-- HOLD form of a MASTER tile: head, tail and mask planes from bank A to bank B (R112, R142). -/
def holdMaster (s : State) (step : Nat) (a b : Desc) (rows cols : Nat) : State :=
  let s1 := (List.range rows).foldl (fun s r =>
    copyBytes (copyBytes s step (gLocal (dAddr a) + 4 * (r * dPitch a)) (gLocal (dAddr b) + 4 * (r * dPitch b)) (4 * cols))
      step (gLocal (dTaddr a) + 2 * (r * dPitch a)) (gLocal (dTaddr b) + 2 * (r * dPitch b)) (2 * cols)) s
  if maskLen a rows cols == 0 then s1 else copyBytes s1 step (maskPlane a) (maskPlane b) (maskLen a rows cols)

/-- A UCOMMIT's fields. -/
def ucFields (op : UcommitOp) : List Nat :=
  [op.kind.toNat, op.par.toNat, op.rm.toNat, op.een.toNat, op.entry.toNat, op.hba.toNat, op.hbb.toNat, op.hw.toNat, op.hwt.toNat,
   op.dims.toNat, op.key.toNat]

/-- Adds a MASTER UCOMMIT to the commit list (R114). The 64 bytes of its journal entry are a free function of the command and its
descriptors, so that a replay writes the same ones (R554); a later step's entry takes none. -/
def addCommit (s : State) (c : Nat) (e : CommitEnt) : State :=
  let n := ((getCell s c).commits.filter (fun x => x.step == e.step)).length
  let s1 := modCell s c (fun x => { x with commits := x.commits ++ [e] })
  if !s.hasJournal || (tget {} s.jr (e.step % 2)).step != e.step then s1
  else otherWrite s1 (entryAddr s (e.step % 2) + 0x200000 + (c * 8192 + n) * 64)
    (natLe (Config.commitBytes (ucFields e.op ++ [e.hba.toNat, e.hbb.toNat, e.hw.toNat, e.hwt.toNat, if e.sat then 1 else 0])) 64)

/-- UCOMMIT is through: its pops happen and it is done. -/
def ucDone (s : State) (c k : Nat) (f : Fly) (rs : List ExRec) : State :=
  let (s1, f1) := popAll s c f
  putFly s1 c k { f1 with committed := true, done := true, recs := rs, waiting := false }

/-- The claim of a MASTER UCOMMIT in PASS form (R122, R124). -/
inductive ClaimRes
  | ok
  | wait
  | dead
  deriving DecidableEq, Repr

/-- DESIGN CHOICE: the spec says of no UCOMMIT that it looks at EN, so one that names an entry out of use claims and writes as if it
were in use (R122; assumption log 110). -/
def claimOf (s : State) (c : Nat) (op : UcommitOp) (g : Nat) (after : Bool) : ClaimRes :=
  if !isOne op.een then .ok
  else
    let e := getVt s c op.entry.toNat
    if e.claimed || vtClaimable e then .ok
    else if (vtHeld e (1 - e.cur)).contains (g % 2) && !after then .dead
    else .wait

/-- The slot the copies go to and the two copies' plans (R122). -/
def ucPlans (s : State) (c : Nat) (op : UcommitOp) (m w wt : Desc) : CopyPlan × CopyPlan :=
  let e := getVt s c op.entry.toNat
  let slot := 1 - e.cur
  let base (d : Desc) (copy : Nat) : Nat :=
    if isOne op.een then (vtBase e slot copy + dAddr d) % 2 ^ 48 else gLocal (dAddr d)
  (⟨w, base w 0, false, copyPat m false w⟩, ⟨wt, base wt 1, true, copyPat m true wt⟩)

/-- MASTER in PASS form past its checks: the claim, the list entry, the two copies (R112, R122). -/
def masterPass (s : State) (c k : Nat) (f : Fly) (op : UcommitOp) (a b w wt : Desc) : State :=
  let g := f.gstep
  let rows := ucRows op
  let cols := ucCols op
  let e := getVt s c op.entry.toNat
  let (pw, pt) := ucPlans s c op b w wt
  let s1 := if isOne op.een then
      let s0 := if e.claimed then s else vtChange s g c op.entry.toNat .claim
      vtMark s0 g c op.entry.toNat (1 - e.cur)
    else s
  let s2 := addCommit s1 c ⟨g, op, a, b, w, wt, f.sat⟩
  let (s3, e1) := copyWrite s2 s2 c f.step b pw f.sat rows cols
  let (s4, e2) := copyWrite s2 s3 c f.step b pt f.sat rows cols
  let es := e1 ++ e2
  let rs := convRecs (fun cause r cc ch => recOf s f cause 5 r cc ch op.key.toNat) [] es
  ucDone (convSticky (convTallies s4 c es) c k es) c k f rs

/-- All addresses of a list of spans are data memory. -/
def spansOk (s : State) (l : List (Nat × Nat)) : Bool := l.all (fun p => memOk s p.1 p.2)

/-- What a MASTER UCOMMIT reads and writes with its verdict, and the partly covered words among what it writes: PASS form reads bank B's
planes and writes the two copies, HOLD form copies bank A's planes (R112, R236). -/
def masterSpans (s : State) (c : Nat) (op : UcommitOp) (pass : Bool) (a b w wt : Desc) :
    List (Nat × Nat) × List (Nat × Nat) × List (Nat × Nat) :=
  let rows := ucRows op
  let cols := ucCols op
  let (pw, pt) := ucPlans s c op b w wt
  let (rw, ww) := copySpans c pw rows cols (spMode b)
  let (rt, wt') := copySpans c pt rows cols (spMode b)
  if pass then
    (planeRows b rows cols ++ maskRow b rows cols ++ rw ++ rt, ww ++ wt', copyEdges c pw rows cols (spMode b) ++ copyEdges c pt rows cols (spMode b))
  else
    let wr := planeRows b rows cols ++ (if maskLen a rows cols == 0 then [] else [(maskPlane b, maskLen a rows cols)])
    (planeRows a rows cols ++ maskRow a rows cols, wr, wr)

/-- MASTER with its verdict (R112-R116, R122, R143). DEDUCED: HOLD form writes no copy and loads no codebook table, so a refused table
faults PASS form only (R112; assumption log 107). PASS form checks the mask words before anything else of the copies (R143). -/
def masterCommit (s : State) (c k : Nat) (f : Fly) (op : UcommitOp) (pass : Bool) (a b w wt : Desc) : Option State :=
  let rows := ucRows op
  let cols := ucCols op
  let key := op.key.toNat
  let bl := gLocal (dAddr b)
  let mine := (getCell s c).commits.filter (fun e => e.step == f.gstep)
  let all := (List.range 64).flatMap (fun q => (getCell s q).commits.filter (fun e => e.step == f.gstep))
  let lcl (d : Desc) : Bool := isLocalAddr s (dAddr d) && isLocalAddr s (dTaddr d)
  if masterDescBad a || masterDescBad b || copyDescBad w || copyDescBad wt ||
      ((spMode b == 1 || spMode b == 2) && cols % 4 != 0) then
    some (faultFly s c k f (recOf s f 1 5 0 0 0 key))
  else if afterUdone s c k f && !isOne op.een then some (faultFly s c k f (ucRec s f 0x29 bl))
  else if all.any (tilesMeet b rows cols) then some (faultFly s c k f (ucRec s f 0x24 bl))
  else if mine.length ≥ 8192 then some (faultFly s c k f (ucRec s f 0x28 bl))
  else if !lcl a || !lcl b || (!isOne op.een && (!isLocalAddr s (dAddr w) || !isLocalAddr s (dAddr wt))) then
    some (faultFly s c k f (recOf s f 2 4 0 0 0 key))
  else
    let (rd, wr, edges) := masterSpans s c op pass a b w wt
    if !spansOk s rd || !spansOk s wr then some (faultFly s c k f (recOf s f 2 4 0 0 0 key))
    else match fenceOf s f.step rd wr with
      | .fault cause x => some (faultFly s c k f (fenceRec s f cause x))
      | .cow u => cowWait s u
      | .wait => none
      | .ok =>
        match (spansPoison s rd).orElse (fun _ => edgesPoison s edges) with
        | some p => some (faultPoison s c k f 4 key p)
        | none =>
          if !pass then
            let s1 := addCommit s c ⟨f.gstep, op, a, b, w, wt, f.sat⟩
            some (ucDone (holdMaster s1 f.step a b rows cols) c k f [])
          else match maskFails s b rows cols ((ucPlans s c op b w wt).2.pat != 0) with
            | some i => some (faultFly s c k f (recOf s f 0x2B 5 (bl / 2 ^ 32) (bl / 2 ^ 16) i key))
            | none =>
              if copyTableBad s c w then some (faultFly s c k f (recOf s f 0x44 5 0 0 0 key))
              else if copyTableBad s c wt then some (faultFly s c k f (recOf s f 0x44 5 0 0 1 key))
              else match claimOf s c op f.gstep (afterUdone s c k f) with
              | .ok => some (masterPass s c k f op a b w wt)
              | .wait =>
                if f.waiting then none
                else some (putFly (setVt s c op.entry.toNat { getVt s c op.entry.toNat with wait := true }) c k { f with waiting := true })
              | .dead =>
                some (endFly (raise s 0x0A21 ([c, k, 3, op.entry.toNat] ++ pb 1 4)) c k f
                  (recOf s f 7 5 op.entry.toNat 3 0 key))

/-- STATE with its verdict: PASS touches no memory, HOLD copies the region (R112, R130). -/
def stateCommit (s : State) (c k : Nat) (f : Fly) (op : UcommitOp) (pass : Bool) (a b : Desc) : Option State :=
  let n := ucSize op
  let al := gLocal (dAddr a)
  let bl := gLocal (dAddr b)
  if afterUdone s c k f then some (faultFly s c k f (ucRec s f 0x29 bl))
  else if pass then some (ucDone s c k f [])
  else if !isLocalAddr s (dAddr a) || !isLocalAddr s (dAddr b) || !memOk s al n || !memOk s bl n then
    some (faultFly s c k f (recOf s f 2 4 0 0 0 (opTile f.op)))
  else match fenceOf s f.step [(al, n)] [(bl, n)] with
    | .fault cause x => some (faultFly s c k f (fenceRec s f cause x))
    | .cow u => cowWait s u
    | .wait => none
    | .ok =>
      match (firstPoison s al n).orElse (fun _ => edgePoison s bl n) with
      | some p => some (faultPoison s c k f 4 0 p)
      | none => some (ucDone (copyBytes s f.step al bl n) c k f [])

/-- An earlier UCOMMIT or VPUB of the stream has not committed. -/
def gatedBehind (s : State) (c k : Nat) (f : Fly) : Bool :=
  (getStrm s c k).fly.any (fun g => g.id < f.id && !g.committed && (match g.op with
    | .ucommit _ => true
    | .vpub _ => true
    | _ => false))

/-- UCOMMIT at its commit point. -/
def ucommitCommit (s : State) (c k : Nat) (f : Fly) (op : UcommitOp) : Option State :=
  if gatedBehind s c k f then none
  else match roleDesc s c f .hba 0, roleDesc s c f .hbb 0 with
    | some a, some b =>
      match verdictOf s f.gstep with
      | none =>
        -- the wait for the verdict is timed from here (R131)
        if (getStep s f.gstep).any (fun t => !t.gatedW) then some (modStep s f.gstep (fun t => { t with gatedW := true })) else none
      | some pass =>
        if op.kind == 1#1 then stateCommit s c k f op pass a b
        else match roleDesc s c f .hw 0, roleDesc s c f .hwt 0 with
          | some w, some wt => masterCommit s c k f op pass a b w wt
          | _, _ => none
    | _, _ => none

/-- VPUB at its commit point (R123). -/
def vpubCommit (s : State) (c k : Nat) (f : Fly) (op : VerOp) : Option State :=
  if gatedBehind s c k f then none
  else match verdictOf s f.gstep with
    | none =>
      if (getStep s f.gstep).any (fun t => !t.gatedW) then some (modStep s f.gstep (fun t => { t with gatedW := true })) else none
    | some false => some (putFly s c k { f with committed := true, done := true })
    | some true =>
      let i := op.entry.toNat
      let e := getVt s c i
      if !e.claimed then some (faultFly s c k f (recOf s f 0x2A 5 i 0 0 0))
      else
        let s1 := vtMark (vtChange s f.gstep c i (.publish f.gstep)) f.gstep c i (1 - e.cur)
        some (putFly s1 c k { f with committed := true, done := true })

/-! VREL, UDONE, VOTE. -/

/-- VREL's effect: the tags it releases, or its count under cause 0x20 (R120). -/
def vrelDo (s : State) (c : Nat) (f : Fly) (op : VerOp) : State × List ExRec :=
  let i := op.entry.toNat
  let mine := (getVt s c i).tags.filter (fun t => t.2.2 % 2 == op.par.toNat)
  if mine.isEmpty then (s, addRec [] (recOf s f 0x20 5 i 0 0 0) 1)
  else (mine.foldl (fun s t => vtChange s f.step c i (.release t.1)) s, [])

/-- UDONE passes (R124). -/
def udoneDo (s : State) (c : Nat) (f : Fly) : State :=
  modStep s f.gstep (fun t => { t with udones := insertAsc c t.udones })

/-- A command in flight counts as a gradient conversion that a VOTE waits for (R128, R195). -/
def gradWaits (s : State) (c : Nat) (f : Fly) : Bool :=
  !f.late && (match f.op with
    | .stt o => isOne o.grad
    | .card o => if f.committed then f.grad else (match cardRead s c f.step o.slot.toNat with
      | some x => cardGrad x
      | none => true)
    | _ => false)

/-- VOTE at its commit point: every gradient conversion issued in the cell before it has completed. -/
def voteCommit (s : State) (c k : Nat) (f : Fly) : Option State :=
  if (List.range 4).any (fun q => (getStrm s c q).fly.any (fun g => g.step == f.step && gradWaits s c g)) then none
  else
    let voted := match getStep s f.step with
      | some t => t.votes.contains c
      | none => false
    let rs := if voted then addRec [] (recOf s f 0x26 5 0 0 0 0) 1 else []
    let s1 := if voted then s else modStep s f.step (fun t => { t with votes := insertAsc c t.votes })
    some (putFly s1 c k { f with committed := true, done := true, recs := rs })

/-- The cell's VOTE of a step has been issued (R128). -/
def voteIssued (s : State) (c step : Nat) : Bool :=
  (match getStep s step with
   | some t => t.votes.contains c
   | none => s.past.any (fun p => p.1 == step)) ||
  (getStrm s c 1).fly.any (fun g => g.step == step && (match g.op with
    | .vote => true
    | _ => false))

/-! The rewrite of working copies at a rollback (R115). -/

/-- The master tile of an entry in the bank that step m reads: step n reads copy n mod 2 and writes the other (R115, R333). -/
def rewriteSrc (m : Nat) (e : CommitEnt) : Desc := if e.step % 2 == m % 2 then e.hba else e.hbb

/-- Rewrites the copies of one commit-list entry from the bank that the replayed step m reads. -/
def rewriteEnt (s : State) (c m : Nat) (e : CommitEnt) : State :=
  if isOne e.op.een then s
  else
    let d := rewriteSrc m e
    let (pw, pt) := ucPlans s c e.op d e.hw e.hwt
    let rows := ucRows e.op
    let cols := ucCols e.op
    let s1 := (copyWrite s s c e.step d pw e.sat rows cols).1
    (copyWrite s s1 c e.step d pt e.sat rows cols).1

end Sys2Proof.Machine
end

