-- ==== Sys2Proof/Machine/Atom.lean ====
section
/-! DEFINITION. Larder atomics and windows (R239-R246): the operations, their checks at the target, and their
application word by word. -/
namespace Sys2Proof.Machine

/-- An atomic operation as its target sees it: AOP, window, rank, LAST, NODATA, target address, source words (for
a CAS one word holding the record's bytes 0-15), and who issued it: device, cell and stream (a remote
operation's header names the device only: cell 64). -/
structure AtomReq where
  aop    : Nat
  w      : Nat
  rank   : Nat
  last   : Bool
  nodata : Bool
  addr   : Nat
  words  : List DWord
  user   : Nat × Nat × Nat
  deriving DecidableEq, Repr

/-- Ordered by a window (Table 8-5). -/
def aopOrdered (a : Nat) : Bool := a == 0 || a == 1 || a == 8 || a == 9

def aopCas (a : Nat) : Bool := a == 8 || a == 9

/-- A vector operation. -/
def aopVector (a : Nat) : Bool := a < 8 || a == 0xB

/-! RATOM's OPERANDS (Table 8-6); bit 0 of the field is command bit 64. -/

def raW (o : Nat) : Nat := o % 16
def raRank (o : Nat) : Nat := o / 2 ^ 4 % 2 ^ 12
def raLast (o : Nat) : Bool := o / 2 ^ 16 % 2 == 1
def raFlag (o : Nat) : Nat := o / 2 ^ 17 % 2 ^ 6
def raSrc (o : Nat) : Nat := o / 2 ^ 17 % 2 ^ 24
def raCount (o : Nat) : Nat := o / 2 ^ 41 % 2 ^ 16 + 1
def raNodata (o : Nat) : Bool := o / 2 ^ 57 % 2 == 1

/-- Bits of OPERANDS that an AOP uses, as a mask. -/
def raMask (a : Nat) : Nat :=
  let win := 2 ^ 17 - 1
  let vec := (2 ^ 24 - 1) * 2 ^ 17 + (2 ^ 16 - 1) * 2 ^ 41
  if a == 0xA then 2 ^ 16 - 1 + (2 ^ 6 - 1) * 2 ^ 17
  else (if aopOrdered a then win else 0) + (if aopVector a then vec else 0) +
    (if aopCas a then (2 ^ 24 - 1) * 2 ^ 17 else 0) + (if aopOrdered a && aopVector a then 2 ^ 57 else 0)

/-- A reserved or unused operand field is set, or a vector operation's SRC is not on a word (R240). DESIGN CHOICE: Table 8-6 states that
alignment and no consequence; the command is malformed (assumption log 143). -/
def raBad (a o : Nat) : Bool :=
  o &&& (2 ^ 64 - 1 - raMask a) != 0 || (aopVector a && raSrc o % 32 != 0) ||
    (raNodata o && raMask a / 2 ^ 57 % 2 == 1 && (raSrc o != 0 || raCount o != 1))

/-- One element of a vector operation: codes of the target and the source to the new code. The unordered ones (2 to 7) are commutative
and associative on codes, so that a word's final value depends only on the set of operations (R245). -/
def atomEl (a t x : Nat) : Nat :=
  let f (n : Nat) : XVal := dec32 (BitVec.ofNat 32 n)
  match a with
  | 0 => (enc32 (xAdd (f t) (f x))).toNat
  | 0xB => (enc32 (xAdd (f t) (f x))).toNat
  | 1 => (toFlt bf16 false .rne 0 (xAdd (decFlt bf16 t) (decFlt bf16 x))).code
  | 2 => (t + x) % 2 ^ 32
  | 3 => (t + x) % 2 ^ 64
  | 4 => if sInt 32 x < sInt 32 t then x else t
  | 5 => if sInt 32 t < sInt 32 x then x else t
  | 6 => if xIsNan (f t) || xIsNan (f x) then 0x7FC00000 else if xLtZ (f x) (f t) then x else t
  | 7 => if xIsNan (f t) || xIsNan (f x) then 0x7FC00000 else if xLtZ (f t) (f x) then x else t
  | _ => t

/-- Bytes per element of a vector operation. -/
def atomWidth (a : Nat) : Nat := if a == 1 then 2 else if a == 3 then 8 else 4

/-- A target word combined with a source word. -/
def atomWord (a : Nat) (t x : List Byte) : List Byte :=
  let n := atomWidth a
  (List.range (32 / n)).flatMap (fun i => natLe (atomEl a (leNat (lslice t (n * i) n)) (leNat (lslice x (n * i) n))) n)

/-- Bytes the operation covers at its target. -/
def atomLen (r : AtomReq) : Nat :=
  if r.aop == 8 then 4 else if r.aop == 9 then 8 else 32 * r.words.length

/-- Bytes of its target that R241 checks: a NODATA operation writes nothing, and its target is the word at its address. -/
def atomSpan (r : AtomReq) : Nat := if atomLen r == 0 then 32 else atomLen r

/-- R241, R246: the target lies where the operation allows it, aligned. DESIGN CHOICE: R241 names alignment for the CAS operations alone; a
vector operation works on words of 32 bytes, and a target off that boundary is refused in the same way (assumption log 143). -/
def atomTargetOk (s : State) (aop addr n : Nat) : Bool :=
  let al := if aop == 8 then 4 else if aop == 9 then 8 else 32
  addr % al == 0 && (n == 0 || memOk s addr n) &&
    (match regionOf s addr, regionOf s (addr + n - 1) with
     | .larder k _, .larder k' _ => aop != 0xB && k == k'
     | .hbm, .hbm => aop == 0xB
     | _, _ => false)

/-- What the target says of an operation. -/
inductive AtomRes
  | go
  | retry
  | status (n : Nat)
  deriving DecidableEq, Repr

/-- R241-R246: the checks of check 4 of R276, also made for a local target. -/
def atomCheck (s : State) (r : AtomReq) : AtomRes :=
  if !atomTargetOk s r.aop r.addr (atomSpan r) then .status 1
  else if r.aop == 0xB then (if s.msadd then .go else .status 4)
  else if !aopOrdered r.aop then .go
  else
    match tfind s.wins r.w with
    | none => .status 2
    | some w =>
      if r.rank < w.rank then .status 2
      else if r.rank > w.rank then .retry
      else match w.user with
        | some u => if u == r.user then .go else .status 2
        | none => .go

/-- Applies the words in order. -/
def atomWords (s : State) (step aop addr : Nat) : List DWord → State
  | [] => s
  | x :: t => atomWords (cmdWrite s step addr (atomWord aop (memRead s addr 32) x.bytes)) step aop (addr + 32) t

/-- The first word of an operation that its target cannot use, as an index: poisoned itself, or with a poisoned source word (R249). -/
def atomStop (s : State) (r : AtomReq) : Option Nat :=
  match (firstPoison s r.addr (atomLen r)).map (fun p => (p - r.addr) / 32), r.words.findIdx? (fun w => w.poison) with
  | some i, some j => some (min i j)
  | some i, none => some i
  | none, j => j

/-- The window's rank rises; at N it completes and closes (R242). -/
def winAdvance (s : State) (i : Nat) (w : Win) : State :=
  if w.rank + 1 == w.n then
    let par := w.step % 2
    updFlag { s with wins := tdel s.wins i } 0 true true w.flag par 1#32
  else { s with wins := tset s.wins i { w with rank := w.rank + 1, user := none } }

/-- The operation that was let through, applied in full: the state, the old value and the swap bit of a CAS. It takes effect in memory
at once, so a read before the window completes sees a partial result (R245). -/
def atomApply (s : State) (step : Nat) (r : AtomReq) : State × Nat × Bool :=
  let st := if r.user.2.1 == 64 then evStep s else step
  let s0 := if r.aop == 0xB then raiseOnce s 0x0B13 st (pb st 8) else s
  let (s1, old, sw) :=
    if aopCas r.aop then
      let n := if r.aop == 8 then 4 else 8
      let old := memLe s0 r.addr n
      let rec0 := (r.words.head?.map (fun x => x.bytes)).getD []
      if old == leNat (lslice rec0 0 n) then (cmdWrite s0 step r.addr (lslice rec0 8 n), old, true) else (s0, old, false)
    else (atomWords s0 step r.aop r.addr r.words, 0, false)
  if aopOrdered r.aop then
    match tfind s1.wins r.w with
    | some w =>
      let s2 := { s1 with wins := tset s1.wins r.w { w with user := some r.user } }
      (if r.last then winAdvance s2 r.w { w with user := some r.user } else s2, old, sw)
    | none => (s1, old, sw)
  else (s1, old, sw)

/-- An operation that meets a poisoned word, as far as it goes: the words before it are applied, nothing after it is, and its LAST does not
count (R249). -/
def atomPart (s : State) (step : Nat) (r : AtomReq) (i : Nat) : State :=
  if aopCas r.aop then s else (atomApply s step { r with words := r.words.take i, last := false }).1

/-- An earlier message of the same rank and source has been answered RETRY and not come again: the words of a rank are applied in the
issue order of their stream (R242). -/
def heldBefore (s : State) (r : AtomReq) (e : Nat) : Bool :=
  aopOrdered r.aop && (match (tfind s.wins r.w).bind (fun w => w.held.find? (fun h => h.1 == r.rank && h.2.1 == r.user.1)) with
    | some h => h.2.2 != e
    | none => false)

/-- A message is answered RETRY, or is no longer waited for. -/
def holdAtom (s : State) (r : AtomReq) (e : Nat) (keep : Bool) : State :=
  match tfind s.wins r.w with
  | none => s
  | some w =>
    let h := (r.rank, r.user.1, e)
    let l := if keep then (if w.held.contains h then w.held else w.held ++ [h]) else w.held.filter (fun x => x ≠ h)
    if aopOrdered r.aop && l != w.held then { s with wins := tset s.wins r.w { w with held := l } } else s

/-- What the target says of a message of another device's: as `atomCheck`, in the order of its rank. -/
def atomTurn (s : State) (r : AtomReq) (e : Nat) : AtomRes :=
  match atomCheck s r with
  | .go => if heldBefore s r e then .retry else .go
  | x => x

/-- A retry is counted with the stack of its target (Table 8-9, 0B). -/
def countRetry (s : State) (addr : Nat) : State :=
  match regionOf s addr with
  | .larder k _ => bumpPerf s (0x4800 + 0x40 * k) 0x0B 1
  | _ => s

/-- Writes the answer of a CAS into its record (R240). -/
def casRecord (s : State) (step c rec old : Nat) (sw : Bool) : State :=
  cmdWrite (cmdWrite s step (benchAddr c rec + 16) (natLe old 8)) step (benchAddr c rec + 24) [if sw then 1#8 else 0#8]

/-- WOPEN on an unopened window (R242, R244): its step is that of its opener. -/
def winOpen (s : State) (step o : Nat) : State :=
  { s with wins := tset s.wins (raW o) { n := raRank o + 1, flag := raFlag o, step := step } }

/-- Windows of a step close without advancing their flags (R244). -/
def closeWins (s : State) (which : Nat → Bool) : State :=
  { s with wins := s.wins.filter (fun p => !which p.2.step) }

end Sys2Proof.Machine
end

