-- ==== Sys2Proof/Machine/Mover.lean ====
section
/-! DEFINITION. The carter (07, 08, 09): MOVE, RSIG and RATOM at their commit points, requests and the tracker
(R275, R280, R281), write-through (R355), and what ends a command with messages outstanding. -/
namespace Sys2Proof.Machine

/-- A carter's command. -/
def isCarter (op : Op) : Bool :=
  match op with
  | .move _ | .rsig _ | .ratom _ => true
  | _ => false

/-- A record of a carter's cause: Row the target device, Column the port, 0xFFFF when nothing left (R295); REMOTE_REFUSED has both 0
(R228). -/
def linkRec (s : State) (f : Fly) (cause dev port : Nat) : ExRec :=
  if cause == 8 then recOf s f cause (opUnit f.op) 0 0 0 (opTile f.op) else recOf s f cause (opUnit f.op) dev port 0 (opTile f.op)

/-! Sending (R275, R280). -/

/-- A shadow waits for the answers of READ and CAS alone (R371). -/
def shadowAcks (s : State) (m : Msg) : Bool :=
  isShadow s && m.mtype != 2 && !(m.mtype == 3 && (m.spec % 16 == 8 || m.spec % 16 == 9))

/-- A request that a shadow does not send is counted. -/
def shadowCount (s : State) : State :=
  if isShadow s then { s with rcv := { s.rcv with shCount := s.rcv.shCount + 1 } } else s

/-- Sends a command's messages; each takes a tracker entry or stalls. A shadow's count as acknowledged at once. -/
def sendFly (s0 : State) (c k : Nat) (f : Fly) : List Stall → State × Fly
  | [] => (s0, if isShadow s0 && f.remote == 0 && f.committed && isCarter f.op then { f with done := true, acked := true } else f)
  | w0 :: t =>
    let s := shadowCount s0
    if shadowAcks s w0.msg then sendFly s c k { f with ord := f.ord + 1 } t else
    let w := { w0 with ord := f.ord }
    let f1 := { f with remote := f.remote + 1, ord := f.ord + 1 }
    match (if f.stalled.isEmpty then sendReq s c k f.id w else none) with
    | some s1 => sendFly s1 c k f1 t
    | none => sendFly (trackFull s) c k { f1 with stalled := f.stalled ++ [w] } t

/-- Scrivener messages: each takes an entry of cell 64 or waits. -/
def sendScr (s : State) : List Stall → State
  | [] => s
  | w :: t =>
    match (if s.scrQ.isEmpty then sendReq s 64 w.kind 0 w else none) with
    | some s1 => sendScr s1 t
    | none => sendScr { trackFull s with scrQ := s.scrQ ++ [w] } t

/-- The first command, by cell, stream and age, that is stalled for a tracker entry. -/
def firstStalled (s : State) : Option (Nat × Nat × Fly) :=
  (List.range 64).findSome? (fun c => (List.range 4).findSome? (fun k =>
    ((getStrm s c k).fly.find? (fun f => !f.stalled.isEmpty)).map (fun f => (c, k, f))))

/-- One stalled message goes, if one waits and an entry is free. -/
def unstallOne (s : State) : Option State :=
  match firstStalled s with
  | some (c, k, f) =>
    (match f.stalled with
     | w :: t => (sendReq s c k f.id w).map (fun s1 => putFly s1 c k { f with stalled := t })
     | [] => none)
  | none =>
    match s.scrQ with
    | w :: t => (sendReq s 64 w.kind 0 w).map (fun s1 => { s1 with scrQ := t })
    | [] => none

def unstallN : Nat → State → State
  | 0, s => s
  | n + 1, s => match unstallOne s with
    | some s1 => unstallN n s1
    | none => s

/-- What the Ledger wrote is not all acknowledged (R355). -/
def ldgOut (s : State) : Bool :=
  s.trk.any (fun e => e.2.kind == 5) || s.scrQ.any (fun w => w.kind == 5) || s.pendW.any (fun w => inJournal s w.a (pendLen w))

/-- Restart records of released steps go. -/
def pruneRestarts (s : State) (n : Nat) : State :=
  { s with cells := s.cells.map (fun p => (p.1, { p.2 with
      streams := p.2.streams.map (fun q => (q.1, { q.2 with restarts := q.2.restarts.filter (fun r => r.step > n) })) })) }

/-- The end of seal action 8: the entry is FREE, the step RELEASED. -/
def releaseDone (s : State) (n : Nat) : State :=
  let j := tget {} s.jr (n % 2)
  signalVec (pruneRestarts { s with jr := tset s.jr (n % 2) { j with estate := 0 }, released := n } n) 1

/-- An entry whose header is written and acknowledged is POSTED (R327). -/
def postDone (s : State) (p : Nat) : State :=
  let j := tget {} s.jr p
  if j.posting then signalVec { s with jr := tset s.jr p { j with estate := 2, posting := false } } 1 else s

/-- Ledger actions complete once the holder has acknowledged what they wrote (R355). -/
def ledgerSettle (s : State) : State :=
  if ldgOut s then s
  else
    let s1 := postDone (postDone s 0) 1
    let s2 := if s1.steps.any (fun t => t.opening) then { s1 with steps := s1.steps.map (fun t => { t with opening := false }) } else s1
    s2.ldg.relWait.foldl (fun s w => releaseDone s w.1) { s2 with ldg := { s2.ldg with relWait := [] } }

/-- Entries have retired: stalled messages go while entries are free (R280), and Ledger actions may complete. -/
def unstall (s : State) : State := ledgerSettle (unstallN 8192 s)

/-- The words of one message, each with its poison. -/
def readWords (s : State) (w n : Nat) : List DWord := (List.range n).map (fun i => readWord s (w + i))

/-- A 32-byte word at any local address of memory, with its poison. -/
def wordAt (s : State) (a : Nat) : DWord := { bytes := memRead s a 32, poison := isPoison s a }

/-- WRITE messages of rb bytes, each word given by its offset, to a remote address (R275). -/
def wordWrites (s : State) (prio dev port : Nat) (dl : Bool) (word : Nat → DWord) (dst rb : Nat) : List Stall :=
  (wordGroups false (rb / 32) 0 (rb / 32)).map (fun g =>
    { port := port, dest := 0, kind := 0,
      msg := reqMsg s 1 prio dev dl (dst + 32 * g.1) 0 ((List.range g.2).map (fun i => word (32 * (g.1 + i)))) })

/-- WRITE messages of a local row of rb bytes at a to a remote address. -/
def rowWrites (s : State) (prio dev port : Nat) (dl : Bool) (a dst rb : Nat) : List Stall :=
  wordWrites s prio dev port dl (fun o => wordAt s (a + o)) dst rb

/-- READ messages of a remote row to a destination (R275). -/
def rowReads (s : State) (prio dev port : Nat) (dl : Bool) (src dst rb : Nat) : List Stall :=
  (wordGroups false (rb / 32) 0 (rb / 32)).map (fun g =>
    { port := port, dest := dst + 32 * g.1, kind := 0, msg := reqMsg s 2 prio dev dl (src + 32 * g.1) (g.2 - 1) [] })

/-! Ending a command with messages outstanding (R281, R206). -/

/-- Every tracker entry of a command retires. -/
def retireFly (s : State) (c k id : Nat) : State :=
  (s.trk.filter (fun p => p.2.cell == c && p.2.strm == k && p.2.fly == id && p.2.kind == 0)).foldl
    (fun s p => retireTrk s p.1) s

/-- The command ends with a cause: it records it and its stream halts; its entries retire. -/
def endRemote (s : State) (c k : Nat) (f : Fly) (r : ExRec) : State := endFly (retireFly s c k f.id) c k f r

/-! Write-through (R355, R357). -/

/-- MIRROR_STATE to the buddy: the state code stands in the GID field (Table 12-5). -/
def mirrorMsg (s : State) (b st : Nat) : Msg :=
  let rk := match jobGroup s with
    | some g => g.rank
    | none => 0
  { mtype := 0x57, vc := 5, part := ownPart s, src := ownId s, dst := b, spec := millSpec st rk 0 0 0 0 (evStep s) s.epoch }

/-- The mirror is lost: no stream halts, and MIRROR_STATE is sent while a route remains. -/
def mirrorLost (s : State) : State :=
  if !mirrorOn s then s
  else
    let s1 := raise (oset { s with fronts := s.fronts.filter (fun f => f.kind ≠ 0) } 0x5800 2 3) 0x0F12 []
    let s2 := oset s1 0x5800 4 0xFFFFFFFF
    match buddyOf s2 with
    | none => s2
    | some b => match liveRoute s2 b with
      | none => s2
      | some (port, _) => enqueue s2 port (mirrorMsg s2 b 3)

/-- The tee and its pass end on the pattern (R371). -/
def endTee (s : State) : State := { s with tee := none, fronts := s.fronts.filter (fun f => f.kind ≠ 1) }

/-- WRITE messages that carry words of a span to a holder. -/
def wtGroup (s : State) (kind dev port : Nat) (dl : Bool) (off : Nat → Option Nat) (a n : Nat) : List Stall :=
  let w0 := a / 32
  let cnt := (a + n - 1) / 32 + 1 - w0
  (wordGroups true cnt w0 cnt).filterMap (fun g =>
    (off (32 * g.1)).map (fun d => { port := port, dest := 0, kind := kind, msg := reqMsg s 1 2 dev dl d 0 (readWords s g.1 g.2) }))

/-- What the spans written so far have to send to the holder of the mirror and to a shadow: kind 1, 5 what the Ledger wrote, 6 a
stream's record. -/
def wtStalls (s : State) (kind : Nat) : List Stall :=
  let mir := match (if mirrorOn s then buddyOf s else none) with
    | none => []
    | some b => match liveRoute s b with
      | none => []
      | some (port, dl) => s.wtq.flatMap (fun r =>
          wtGroup s kind b port dl (fun a => (mirrorOff a (mirrorParts s) 0).map (fun o => oget s 0x5801 2 + o)) r.a r.n)
  let tee := match s.tee with
    | none => []
    | some t => match t.ports with
      | [] => []
      | port :: _ =>
        (s.wtq.filter (fun r => inJournal s r.a r.n || (match t.first with
          | some n => r.step < n
          | none => true))).flatMap (fun r => wtGroup s kind t.dev port false some r.a r.n)
  mir ++ tee

/-- No route to the holder is left (R357). -/
def wtUnroutable (s : State) : Bool :=
  mirrorOn s && !s.wtq.isEmpty && (match buddyOf s with
    | some b => (liveRoute s b).isNone
    | none => true)

/-- WRITE messages of a unit's words to the holder of the mirror or to the shadow (R358). -/
def unitMsgs (s : State) (f : Front) (u : Nat) (ws : List DWord) : List Stall :=
  let mk (port dev addr : Nat) (dl : Bool) : List Stall := (List.range 4096).map (fun i =>
    { port := port, dest := 0, kind := 2, msg := reqMsg s 1 3 dev dl (addr + 512 * i) 0 (lslice ws (16 * i) 16) })
  if f.kind == 0 then
    match liveRoute s f.dest, mirrorOff u (mirrorParts s) 0 with
    | some (port, dl), some o => mk port f.dest (oget s 0x5801 2 + o) dl
    | _, _ => []
  else match s.tee with
    | some t => (match t.ports with
      | port :: _ => mk port t.dev u false
      | [] => [])
    | none => []

/-- Old contents that a mirror or shadow front has taken ahead of a write go first (R359). -/
def flushCow (s : State) : State :=
  let ws := (s.fronts.filter (fun f => f.kind ≠ 2)).flatMap (fun f => f.data.flatMap (fun d => unitMsgs s f d.1 d.2))
  sendScr { s with fronts := s.fronts.map (fun f => if f.kind == 2 then f else { f with data := [] }) } ws

/-- Sends the write-through of what the command just wrote; the command waits for its acknowledgements. -/
def flushWt (s0 : State) (c k id : Nat) : State :=
  if s0.wtq.isEmpty then s0
  else
    let s := flushCow s0
    let ws := wtStalls s 1
    let s1 := { s with wtq := [] }
    let s2 := if wtUnroutable s then mirrorLost s1 else s1
    let s3 := bumpPerf s2 0x5800 0x0A ((ws.map (fun w => w.msg.data.length)).sum)
    match (getStrm s3 c k).fly.find? (fun f => f.id == id) with
    | some f =>
      let (s4, f4) := sendFly s3 c k f ws
      putFly s4 c k f4
    | none => sendScr s3 ws

/-- Write-through of writes that no command made, as messages of a kind and an ordinal. -/
def flushKind (s0 : State) (kind ord : Nat) : State :=
  if s0.wtq.isEmpty then s0
  else
    let s := flushCow s0
    let ws := (wtStalls s kind).map (fun w => { w with ord := ord })
    let s1 := { s with wtq := [] }
    let s2 := if wtUnroutable s then mirrorLost s1 else s1
    sendScr (bumpPerf s2 0x5800 0x0A ((ws.map (fun w => w.msg.data.length)).sum)) ws

def flushOther (s : State) : State := flushKind s 1 0

/-- Write-through of what the Ledger wrote. -/
def flushLdg (s : State) : State := flushKind s 5 0

/-- Write-through of the record of a stream that passed a STEPMARK. -/
def flushMark (s : State) (c k : Nat) : State := flushKind s 6 (1 + 4 * c + k)

/-- The stream's record is not acknowledged yet: it issues nothing (R355). -/
def markOut (s : State) (c k : Nat) : Bool :=
  s.trk.any (fun e => e.2.kind == 6 && e.2.ord == 1 + 4 * c + k) || s.scrQ.any (fun w => w.kind == 6 && w.ord == 1 + 4 * c + k)

/-! Register space (R29, R496). -/

/-- A BAR0 offset that a carter may reach: a block of Table 17-1, but not the host-only ranges. -/
def carterReg (off : Nat) : Bool :=
  (off < 0x1000000 && !(0x1000 ≤ off && off < 0x4000) && !(0x10000 ≤ off && off < 0x18100)) ||
    (0x1000000 ≤ off && off < 0x1400000) || (0x1800000 ≤ off && off < 0x1820000) ||
    (0x1A00000 ≤ off && off < 0x1A60000) || (0x1C00000 ≤ off && off < 0x1C50000)

def inRegs (a : Nat) : Bool := regBase ≤ a && a < regBase + 0x8000000

/-- A local span a carter may read or write: data memory, or registers. -/
def spanOk (s : State) (a n : Nat) : Bool :=
  if inRegs a then a % 8 == 0 && (List.range (n / 8)).all (fun i => inRegs (a + 8 * i) && carterReg (a + 8 * i - regBase))
  else memOk s a n

/-! MOVE (R206). -/

structure MoveRow where
  src : Nat
  dst : Nat
  deriving DecidableEq, Repr

/-- Byte pitch of a descriptor for the carter. -/
def bytePitch (d : Desc) : Nat := dPitch d * fmtBits (dFmt d) / 8

def moveRows (f : MoveOp) (a b : Desc) : List MoveRow :=
  (List.range (f.rows.toNat + 1)).map (fun i => ⟨dAddr a + i * bytePitch a, dAddr b + i * bytePitch b⟩)

def moveRb (f : MoveOp) : Nat := 32 * (f.rb.toNat + 1)

/-- Poisoned words that a row's copy would read: its source, and destination words that it only partly covers. -/
def rowPoison (s : State) (src dst rb : Nat) (srcL dstL : Bool) : Option Nat :=
  match (if srcL && !inRegs src then firstPoison s src rb else none) with
  | some p => some p
  | none =>
    if !dstL || inRegs dst || dst % 32 == 0 then none
    else if isPoison s dst then some dst
    else if isPoison s (dst + rb - 1) then some (dst + rb - 1) else none

/-- Registers from an offset of BAR0 as a carter reads them, in ascending order. -/
def regBytes (rr : State → Nat → Nat) (s : State) (off n : Nat) : List Byte :=
  (List.range (n / 8)).flatMap (fun i => natLe (rr s (off + 8 * i)) 8)

/-- A word of a carter's source: registers or memory (R29, R206). -/
def srcWord (rr : State → Nat → Nat) (s : State) (a : Nat) : DWord :=
  if inRegs a then { bytes := regBytes rr s (a - regBase) 32 } else wordAt s a

/-- Copies one local row; register words go one by one in ascending order (R496). -/
def copyRowLocal (rr : State → Nat → Nat) (rw : State → Nat → Nat → State) (s : State) (step src dst rb : Nat) : State :=
  let bs := if inRegs src then regBytes rr s (src - regBase) rb else memRead s src rb
  if inRegs dst then
    (List.range (rb / 8)).foldl (fun s i => rw s (dst - regBase + 8 * i) (leNat (lslice bs (8 * i) 8))) s
  else cmdWrite s step dst bs

/-- Runs local rows until one meets poison. -/
def localRows (rr : State → Nat → Nat) (rw : State → Nat → Nat → State) (s : State) (step rb : Nat) :
    List MoveRow → State × Option Nat
  | [] => (s, none)
  | r :: t =>
    let a := gLocal r.src
    let b := gLocal r.dst
    match rowPoison s a b rb true true with
    | some p => (s, some p)
    | none => localRows rr rw (copyRowLocal rr rw s step a b rb) step rb t

/-- HD's descriptor goes to HR when the copy is complete. -/
def moveOuts (f : Fly) (d : Desc) : List (Nat × Nat × Desc) :=
  match pushOf f .hr 0 with
  | some a => [(a.h, a.num, d)]
  | none => []

/-- The devices a MOVE's rows name that are not this one. -/
def farDevs (s : State) (l : List Nat) : List Nat := (l.map gDev).filter (fun d => d ≠ ownId s)

/-- Rows with a remote end: the messages of the rows before the first poisoned local source, and that word. -/
def farRows (rr : State → Nat → Nat) (s : State) (op : MoveOp) : List MoveRow → List Stall × Option Nat
  | [] => ([], none)
  | r :: t =>
    let rb := moveRb op
    let prio := op.prio.toNat
    let far (a : Nat) : Option (Nat × Bool) := if isLocalAddr s a then none else routeOf s (gDev a)
    let mine := match far r.src with
      | some (port, dl) => rowReads s prio (gDev r.src) port dl (gLocal r.src) r.dst rb
      | none => match far r.dst with
        | some (port, dl) => wordWrites s prio (gDev r.dst) port dl (fun o => srcWord rr s (gLocal r.src + o)) (gLocal r.dst) rb
        | none => []
    match rowPoison s (gLocal r.src) (gLocal r.dst) rb (isLocalAddr s r.src) (isLocalAddr s r.dst) with
    | some p => ([], some p)
    | none =>
      let (ws, p) := farRows rr s op t
      (mine ++ ws, p)

/-- MOVE at its commit point. `rr` and `rw` read and write a register of BAR0 as a carter does. -/
def moveCommit (rr : State → Nat → Nat) (rw : State → Nat → Nat → State) (s : State) (c k : Nat) (f : Fly) (op : MoveOp) :
    Option State :=
  match roleDesc s c f .hs 0, roleDesc s c f .hd 0 with
  | some a, some b =>
    let rows := moveRows op a b
    let rb := moveRb op
    let own (x : Nat) : Bool := isLocalAddr s x
    match (farDevs s (rows.map (fun r => r.src) ++ rows.map (fun r => r.dst))).find? (fun d => (routeOf s d).isNone) with
    | some d => some (faultFly s c k f (linkRec s f 0x60 d 0xFFFF))
    | none =>
      let rd := (rows.filter (fun r => own r.src)).map (fun r => (gLocal r.src, rb))
      let wr := (rows.filter (fun r => own r.dst)).map (fun r => (gLocal r.dst, rb))
      let badFar := rows.any (fun r => (!own r.src && (gLocal r.src % 32 != 0)) || (!own r.dst && (gLocal r.dst % 32 != 0)))
      if badFar || !(rd ++ wr).all (fun p => spanOk s p.1 p.2) then some (faultFly s c k f (recOf s f 2 4 0 0 0 0))
      else match fenceOf s f.step rd wr with
        | .fault cause x => some (faultFly s c k f (fenceRec s f cause x))
        | .cow u => cowWait s u
        | .wait => none
        | .ok =>
          let (s1, f1) := popAll s c f
          let f2 := { f1 with committed := true, outs := moveOuts f b }
          if rows.all (fun r => own r.src && own r.dst) then
            let s2 := putFly s1 c k f2
            let (s3, p) := localRows rr rw s2 f.step rb rows
            match p with
            | some x => some (faultPoison s3 c k f2 4 0 x)
            | none => some (flushWt (putFly s3 c k { f2 with done := true, acked := true }) c k f.id)
          else
            let (ws, p) := farRows rr s op rows
            let (s2, f3) := sendFly s1 c k f2 ws
            match p with
            | some x => some (faultPoison (retireFly (putFly s2 c k f3) c k f.id) c k f3 4 0 x)
            | none => some (putFly s2 c k f3)
  | _, _ => none

/-! RSIG and signals (R213-R215, R275, R276). -/

/-- What becomes of a signal at its target: applied, held until its step opens, left in its channel, or refused. -/
inductive SigRes
  | apply (par : Nat)
  | hold
  | full
  | refuse (status : Nat)
  deriving DecidableEq, Repr

/-- Checks 3 and 5 of R276 for a signal. -/
def sigCheck (s : State) (dev : Bool) (flag cell step32 : Nat) : SigRes :=
  if (dev && flag > 63) || (!dev && (flag < 224 || cell > 63)) then .refuse 1
  else if step32 == 0 then .apply 0
  else match s.steps.find? (fun t => t.num % 2 ^ 32 == step32) with
    | some t => if t.isOpen then .apply (t.num % 2) else if s.heldSig.length < 256 then .hold else .full
    | none =>
      let behind := (s.released + 2 ^ 32 - step32) % 2 ^ 32
      if s.released > 0 && behind < 2 ^ 31 then .refuse 6
      else if s.heldSig.length < 256 then .hold else .full

/-- SIGNAL's type-specific field (Table 9-9). -/
def sigSpec (dev add : Bool) (flag cell : Nat) (v : Word) (step : Nat) : Nat :=
  (if dev then 1 else 0) + (if add then 2 else 0) + 4 * (flag % 256) + 2 ^ 10 * (cell % 64) + 2 ^ 16 * v.toNat +
    2 ^ 48 * (step % 2 ^ 32)

def sgDev (m : Msg) : Bool := m.spec % 2 == 1
def sgAdd (m : Msg) : Bool := m.spec / 2 % 2 == 1
def sgFlag (m : Msg) : Nat := m.spec / 4 % 256
def sgCell (m : Msg) : Nat := m.spec / 2 ^ 10 % 64
def sgVal (m : Msg) : Word := BitVec.ofNat 32 (m.spec / 2 ^ 16)
def sgStep (m : Msg) : Nat := m.spec / 2 ^ 48 % 2 ^ 32

def sigApply (s : State) (m : Msg) (par : Nat) : State :=
  updFlag s (sgCell m) (sgDev m) (sgAdd m) (sgFlag m) par (sgVal m)

/-- An earlier MOVE, RSIG or RATOM of the stream is not acknowledged (R195). -/
def carterBehind (s : State) (c k : Nat) (f : Fly) : Bool :=
  (getStrm s c k).fly.any (fun g => g.id < f.id && isCarter g.op && !g.acked)

/-- In place of a link: a held signal that came from the device's own RSIG, which ADDR and TRK name. -/
def localSig : Nat := 0x8000

/-- A held signal's step has opened: it takes effect, and then it is acknowledged (R276). -/
def releaseSig (s : State) (n : Nat) (q : Nat × Msg) : State :=
  let s1 := sigApply s q.2 (n % 2)
  if q.1 != localSig then respond s1 q.1 q.2 8 0 []
  else match findFly (getStrm s1 (q.2.addr / 4) (q.2.addr % 4)) q.2.trk with
    | some f => putFly s1 (q.2.addr / 4) (q.2.addr % 4) { f with done := true, acked := true }
    | none => s1

/-- RSIG at its commit point. -/
def rsigCommit (s : State) (c k : Nat) (f : Fly) (op : RsigOp) : Option State :=
  if carterBehind s c k f then none
  else
    let dev := op.device.toNat
    let m := { reqMsg s 4 0 dev false 0 (sigSpec (isOne op.scope) (isOne op.op) op.flag.toNat op.cell.toNat op.value f.step) []
               with par := f.step % 2 }
    if dev == ownId s then
      match sigCheck s (isOne op.scope) op.flag.toNat op.cell.toNat (f.step % 2 ^ 32) with
      | .apply par => some (putFly (sigApply s m par) c k { f with committed := true, done := true, acked := true })
      | .hold => some (putFly { s with heldSig := s.heldSig ++ [(localSig, { m with addr := 4 * c + k, trk := f.id })] } c k
          { f with committed := true })
      | .full => none
      | .refuse _ => some (endFly s c k { f with committed := true } (linkRec s f 8 dev 0xFFFF))
    else
      match routeOf s dev with
      | none => some (faultFly s c k f (linkRec s f 0x60 dev 0xFFFF))
      | some (port, dl) =>
        let w : Stall := { port := port, dest := 0, kind := 0, msg := { m with vc := if dl then 1 else 0 } }
        let (s1, f1) := sendFly s c k { f with committed := true } [w]
        some (putFly s1 c k f1)

/-! RATOM (R239-R246). -/

/-- A record of causes 0x51 to 0x53: Unit 4, Row W (R256). -/
def winRec (s : State) (f : Fly) (cause w : Nat) : ExRec := recOf s f cause 4 w 0 0 0

/-- The cause a response status gives (Table 9-10). -/
def statusCause (n : Nat) : Nat :=
  match n with
  | 2 => 0x51
  | 3 => 0x52
  | 5 => 0x60
  | _ => 8

/-- ATOMIC's type-specific field (Table 9-9). -/
def atomSpec (aop w rank : Nat) (last nodata : Bool) : Nat :=
  aop % 16 + 16 * (w % 16) + 2 ^ 8 * (rank % 4096) + (if last then 2 ^ 20 else 0) + (if nodata then 2 ^ 21 else 0)

/-- The words an operation reads at its source. -/
def ratomWords (s : State) (c : Nat) (op : RatomOp) : List DWord :=
  let a := op.aop.toNat
  let o := op.opnds.toNat
  if aopCas a then [dword (memRead s (benchAddr c (raSrc o)) 16)]
  else if raNodata o && aopOrdered a then []
  else (List.range (raCount o)).map (fun i => readWord s (benchAddr c (raSrc o) / 32 + i))

def ratomReq (s : State) (c k : Nat) (op : RatomOp) (t : Nat) : AtomReq :=
  let a := op.aop.toNat
  let o := op.opnds.toNat
  { aop := a, w := if aopOrdered a then raW o else 0, rank := raRank o, last := raLast o,
    nodata := aopVector a && aopOrdered a && raNodata o, addr := t, words := ratomWords s c op, user := (ownId s, c, k) }

/-- Span the operation reads in the bench, and the CAS record it also writes. -/
def ratomSpan (c : Nat) (op : RatomOp) : Nat × Nat :=
  let a := op.aop.toNat
  let o := op.opnds.toNat
  if aopCas a then (benchAddr c (raSrc o), 32)
  else if raNodata o && aopOrdered a then (benchAddr c 0, 0)
  else (benchAddr c (raSrc o), 32 * raCount o)

/-- ATOMIC messages of an operation for a remote target (R275). -/
def ratomMsgs (s : State) (r : AtomReq) (dev port : Nat) (dl : Bool) : List Stall :=
  let mk (addr : Nat) (last : Bool) (ws : List DWord) : Stall :=
    { port := port, dest := 0, kind := 0,
      msg := reqMsg s 3 1 dev dl addr (atomSpec r.aop r.w r.rank last r.nodata) ws }
  if r.words.isEmpty then [mk r.addr r.last []]
  else
    let gs := wordGroups false r.words.length 0 r.words.length
    gs.map (fun g => mk (r.addr + 32 * g.1) (r.last && g.1 + g.2 == r.words.length) (lslice r.words g.1 g.2))

/-- HT's descriptor goes to HR when the operation is acknowledged. -/
def ratomOuts (f : Fly) (d : Option Desc) : List (Nat × Nat × Desc) :=
  match pushOf f .hr 0, d with
  | some a, some x => [(a.h, a.num, x)]
  | _, _ => []

/-- An older ordered operation of the stream with the same window and rank has not been sent, or, for a local one, not been accepted: the
words of one rank are applied in the issue order of their stream (R242). -/
def ratomBehind (s : State) (c k id : Nat) (r : AtomReq) (local_ : Bool) : Bool :=
  aopOrdered r.aop && (getStrm s c k).fly.any (fun g => g.id < id && !g.done && (match g.op with
    | .ratom o => aopOrdered o.aop.toNat && raW o.opnds.toNat == r.w && raRank o.opnds.toNat == r.rank &&
      (!g.committed || (local_ && (g.stalled.any (fun w => w.port == 0xFF) ||
        s.trk.any (fun e => e.2.port == 0xFF && e.2.cell == c && e.2.strm == k && e.2.fly == g.id))))
    | _ => false))

/-- A local operation whose turn has not come takes a tracker entry and is asked again, or waits for an entry (R243, R280). -/
def ratomWait (s : State) (c k : Nat) (f : Fly) (r : AtomReq) : State :=
  let w : Stall := { port := 0xFF, ord := 0, dest := 0, kind := 0,
                     msg := reqMsg s 3 1 (ownId s) false r.addr (atomSpec r.aop r.w r.rank r.last r.nodata) [] }
  let f1 := { f with committed := true, remote := 1 }
  match sendReq s c k f.id w with
  | some s1 => putFly s1 c k f1
  | none => putFly (trackFull s) c k { f1 with stalled := [w] }

/-- A local operation that was let through takes effect. -/
def ratomLocal (s : State) (c k : Nat) (f : Fly) (op : RatomOp) (r : AtomReq) : State :=
  let (s1, old, sw) := atomApply s f.step r
  let s2 := if aopCas r.aop then casRecord s1 f.step c (raSrc op.opnds.toNat) old sw else s1
  flushWt (putFly s2 c k { f with committed := true, done := true, acked := true }) c k f.id

/-- RATOM at its commit point: when it is sent. -/
def ratomCommit (s : State) (c k : Nat) (f : Fly) (op : RatomOp) : Option State :=
  let a := op.aop.toNat
  let o := op.opnds.toNat
  if a == 0xA then
    if (tfind s.wins (raW o)).isSome then some (faultFly s c k f (winRec s f 0x51 (raW o)))
    else
      let outs := match pushOf f .hr 0 with
        | some x => [(x.h, x.num, (0#512 : Desc))]
        | none => []
      some (putFly (winOpen s f.step o) c k { f with committed := true, done := true, acked := true, outs := outs })
  else
    match roleDesc s c f .ht 0 with
    | none => none
    | some d =>
      let g := dAddr d
      let (sa, sn) := ratomSpan c op
      if !inBench c sa sn then some (faultFly s c k f (recOf s f 2 4 0 0 0 0))
      else
        let r := ratomReq s c k op (gLocal g)
        if ratomBehind s c k f.id r (isLocalAddr s g) then none
        else if !isLocalAddr s g then
          match routeOf s (gDev g) with
          | none => some (faultFly s c k f (linkRec s f 0x60 (gDev g) 0xFFFF))
          | some (port, dl) =>
            match firstPoison s sa sn with
            | some p => some (faultPoison s c k f 4 0 p)
            | none =>
              let (s1, f1) := popAll s c f
              let (s2, f2) := sendFly s1 c k { f1 with committed := true, outs := ratomOuts f (some d) } (ratomMsgs s r (gDev g) port dl)
              some (putFly s2 c k f2)
        else
          match atomCheck s r with
          | .status 1 => some (faultFly s c k f (recOf s f 2 4 0 0 0 0))
          | .status 4 => some (faultFly s c k f (winRec s f 0x53 0))
          | .status n =>
            -- refused at its target: it has been sent (R244)
            let (s1, f1) := popAll s c f
            some (endFly s1 c k { f1 with committed := true } (winRec s f (statusCause n) r.w))
          | .retry =>
            let (s1, f1) := popAll s c f
            some (ratomWait (countRetry s1 r.addr) c k { f1 with outs := ratomOuts f (some d) } r)
          | .go =>
            match fenceOf s f.step [] (if aopOrdered a || a == 0xB || aopVector a then [(r.addr, atomLen r)] else []) with
            | .fault cause x => some (faultFly s c k f (fenceRec s f cause x))
            | .cow u => cowWait s u
            | .wait => none
            | .ok =>
              match firstPoison s sa sn with
              | some p => some (faultPoison s c k f 4 0 p)
              | none => match firstPoison s r.addr (atomLen r) with
                | some p => some (faultPoison s c k f 4 0 p)
                | none =>
                  let (s1, f1) := popAll s c f
                  some (ratomLocal s1 c k { f1 with outs := ratomOuts f (some d) } op r)

/-! Acknowledgement of a command's messages. -/

/-- One of the command's messages has been answered OK; a carter command whose last one is in is done. -/
def ackOne (s : State) (c k : Nat) (f : Fly) : State :=
  let f1 := { f with remote := f.remote - 1 }
  if f1.remote == 0 && isCarter f.op then putFly s c k { f1 with done := true, acked := true } else putFly s c k f1

/-- The command that waits on a tracker entry. -/
def trkFly (s : State) (t : Trk) : Option Fly := if t.cell ≥ 64 then none else findFly (getStrm s t.cell t.strm) t.fly

/-- Ends whatever waits on an entry with a cause: the command, or the mirror for write-through (R281, R357). The entries of a command
that a target refused stay until they are answered, and a further refusal raises COUNT in its record (R227). -/
def trkFail (s : State) (e : Nat) (t : Trk) (cause : Nat) : State :=
  let s1 := retireTrk s e
  if t.kind != 0 then
    let s2 := if t.kind == 3 || t.kind == 4 then s1
      else if t.msg.dst == ownId s1 then endTee s1 else mirrorLost s1
    match trkFly s2 t with
    | some f => unstall (ackOne s2 t.cell t.strm f)
    | none => unstall s2
  else
    match trkFly s1 t with
    | none => unstall (lateCount s1 t.cell t.strm t.fly cause)
    | some f =>
      let r0 := match f.op with
        | .ratom op => if cause == 0x51 || cause == 0x52 then winRec s1 f cause (raW op.opnds.toNat)
            else linkRec s1 f cause t.msg.dst t.port
        | _ => linkRec s1 f cause t.msg.dst t.port
      let r := { r0 with own := some f.id }
      unstall (if cause == 0x61 || cause == 0x62 then endRemote s1 t.cell t.strm f r else endFly s1 t.cell t.strm f r)

/-- REMOTE_RESEND: 1 µs after a RETRY the message goes again; a local target is asked again (R243). -/
def remoteResend (s : State) (e : Nat) : State :=
  match tfind s.trk e with
  | none => s
  | some t =>
    if !t.retry && t.port != 0xFF then s
    else if t.port != 0xFF then
      enqueue { s with trk := tset s.trk e { t with retry := false } } t.port t.msg
    else match trkFly s t with
      | none => s
      | some f => match f.op with
        | .ratom op =>
          let r := ratomReq s t.cell t.strm op t.msg.addr
          let (sa, sn) := ratomSpan t.cell op
          (match atomCheck s r with
           | .go =>
             if ratomBehind s t.cell t.strm f.id r true then countRetry s r.addr else
             (match (firstPoison s sa sn).orElse (fun _ => firstPoison s r.addr (atomLen r)) with
              | some p => faultPoison (retireTrk s e) t.cell t.strm f 4 0 p
              | none => unstall (ratomLocal (retireTrk s e) t.cell t.strm { f with remote := 0 } op r))
           | .retry => countRetry s r.addr
           | .status n => trkFail s e t (statusCause n))
        | _ => s

end Sys2Proof.Machine
end

