-- ==== Sys2Proof/Machine/Drover.lean ====
section
/-! DEFINITION. The Drover (R153-R165): sessions, the layer descriptor, selection and capacity, the count phase
and the payload exchange. -/
namespace Sys2Proof.Machine

/-- A record of a Drover cause: Unit 8, Tile MB (R164). -/
def drvRec (s : State) (f : Fly) (cause row col : Nat) : ExRec := recOf s f cause 8 row col 0 (opTile f.op)

def drvFault (s : State) (c k : Nat) (f : Fly) (cause : Nat) : State := faultFly s c k f (drvRec s f cause 0 0)

/-! The layer descriptor (R155, Table 5-3). -/

/-- Byte i of a list. -/
def nth (bs : List Byte) (i : Nat) : Nat := (bs.getD i 0#8).toNat

def leAt (bs : List Byte) (i n : Nat) : Nat := leNat (lslice bs i n)

/-- No element twice. -/
def noRepeat : List (Nat × Nat) → Bool
  | [] => true
  | x :: t => !t.contains x && noRepeat t

def ascending : List Nat → Bool
  | a :: b :: t => decide (a < b) && ascending (b :: t)
  | _ => true

/-- The expert and group tables that a descriptor's bytes name. -/
def tableSpans (bs : List Byte) : List (Nat × Nat) := [(leAt bs 16 8, 2 * (nth bs 0 + 1)), (leAt bs 24 8, 2 * (nth bs 3 + 1))]

/-- Reads and checks the descriptor at a local address; none when a check of R155 fails. DEDUCED: a table that lies outside memory fails
them too, since no entry of it can pass (assumption log 139). -/
def readDDesc (s : State) (a : Nat) : Option DDesc :=
  let bs := memRead s a 32
  let e := nth bs 0 + 1
  let k := nth bs 1
  let pol := nth bs 2
  let g := nth bs 3 + 1
  let cap := leAt bs 4 2
  let t := leAt bs 6 2
  let flag := nth bs 8
  let et := leAt bs 16 8
  let gt := leAt bs 24 8
  let depth := pol / 2 % 8
  if k < 1 || k > 8 || k > e || pol ≥ 16 || k + depth > e || cap < 1 || cap > 4096 || t < 1 || t > 16384 || flag > 63 ||
      (lslice bs 9 7).any (fun b => b != 0#8) || et ≥ 2 ^ 48 || gt ≥ 2 ^ 48 || et % 32 != 0 || gt % 32 != 0 ||
      !memOk s et (2 * e) || !memOk s gt (2 * g) then none
  else
    let ents := (List.range e).map (fun i => memLe s (et + 2 * i) 2)
    let experts := ents.map (fun v => (v % 256, v / 256 % 64))
    let group := (List.range g).map (fun i => memLe s (gt + 2 * i) 2)
    if ents.any (fun v => v / 2 ^ 14 != 0) || experts.any (fun p => p.1 ≥ g) || !noRepeat experts || !ascending group ||
        (group.filter (fun d => d == ownId s)).length != 1 then none
    else some { e := e, k := k, spill := pol % 2 == 1, depth := depth, g := g, cap := cap, t := t, flag := flag,
                experts := experts, group := group, crc := crc32 (bs.take 9 ++ memRead s et (2 * e)) }

/-- Bytes of the list of a session. -/
def listBytes (d : DDesc) : Nat := 8 * (d.t * d.k)

/-- Offset in the session region of the row counts, and of the incoming map (R160). -/
def countsOff (d : DDesc) : Nat := (listBytes d + 31) / 32 * 32

def mapOff (d : DDesc) : Nat := countsOff d + 256

/-- Bytes of the session region. -/
def regionLen (d : DDesc) : Nat := mapOff d + 4 * (64 * d.g * d.cap)

/-- The device's own rank in the group. -/
def drvRank (s : State) (d : DDesc) : Nat := d.group.findIdx (fun x => x == ownId s)

/-! Sessions. -/

def sessIx (s : State) (desc mb step : Nat) : Option Nat :=
  s.sess.findIdx? (fun x => x.desc == desc && x.mb == mb && x.step == step && x.closing.isNone)

/-- The session that a DRV_SEND finds: one that a DRV_CLOSE behind it in its stream has begun to close is still its own. -/
def sendIx (s : State) (c : Nat) (f : Fly) (desc mb : Nat) : Option Nat :=
  s.sess.findIdx? (fun x => x.desc == desc && x.mb == mb && x.step == f.step && (match x.closing with
    | some q => q.1 == c && f.id < q.2
    | none => true))

def setSess (s : State) (i : Nat) (x : Sess) : State := { s with sess := s.sess.set i x }

/-- The first fault of a session raises DROVER_FAULT (R163). -/
def sessFault (s : State) (i : Nat) : State :=
  match s.sess[i]? with
  | some x => if x.faultEv then s else raise (setSess s i { x with faultEv := true }) 0x0A40 []
  | none => s

/-- Sessions of some steps are discarded and counted (R154). -/
def discardSess (s : State) (which : Nat → Bool) : State :=
  let gone := s.sess.filter (fun x => which x.step)
  bumpPerf { s with sess := s.sess.filter (fun x => !which x.step) } 0x2400 6 gone.length

/-! DRV_SUBMIT (R153-R155). -/

/-- Scores of one submission, row by row. -/
def readScores (s : State) (d : Desc) (t e : Nat) : List Word :=
  (List.range t).flatMap (fun r => (List.range e).map (fun n =>
    BitVec.ofNat 32 (memLe s (gLocal (dAddr d) + 4 * (r * dPitch d + n)) 4)))

/-- Tokens of submission i. -/
def subTokens (d : DDesc) (i : Nat) : Nat := min 256 (d.t - 256 * i)

/-- Rows of a score tile as spans. -/
def scoreSpans (d : Desc) (t e : Nat) : List (Nat × Nat) :=
  (List.range t).map (fun r => (gLocal (dAddr d) + 4 * (r * dPitch d), 4 * e))

/-- A submission joins its session. -/
def submitTo (s : State) (c k : Nat) (f : Fly) (op : DrvSubmitOp) (i : Nat) (x : Sess) (sc : Desc) : State :=
  let n := op.sub.toNat
  let u : DSub := { idx := n, cell := c, pos := f.pos, scores := readScores s sc (subTokens x.d n) x.d.e }
  let s1 := setSess s i { x with subs := x.subs ++ [u], cell := c, pos := f.pos }
  let (s2, f1) := popAll s1 c f
  putFly s2 c k { f1 with committed := true, done := true, waiting := false }

/-- DRV_SUBMIT at its commit point. DESIGN CHOICE: R155 names no consequence of a submission index beyond the session's tokens; it
faults with 0x30, as an invalid session (assumption log 139). -/
def submitCommit (s : State) (c k : Nat) (f : Fly) (op : DrvSubmitOp) : Option State :=
  match roleDesc s c f .hin 0 with
  | none => none
  | some sc =>
    let da := 32 * op.desc.toNat
    let ra := 32 * op.region.toNat
    let mb := op.mb.toNat
    let n := op.sub.toNat
    let tileBad (d : DDesc) : Bool := !isLocalAddr s (dAddr sc) || !spansOk s (scoreSpans sc (subTokens d n) d.e)
    if dFmt sc != 0 || dLay sc != 0 then some (faultFly s c k f (recOf s f 1 5 0 0 0 mb))
    else match sessIx s da mb f.step with
      | some i =>
        (match s.sess[i]? with
         | none => none
         | some x =>
           if x.region != ra || x.subs.any (fun u => u.idx == n) || 256 * n ≥ x.d.t then
             some (drvFault (sessFault s i) c k f 0x30)
           else if tileBad x.d then some (faultFly s c k f (recOf s f 2 8 0 0 0 mb))
           else match fenceOf s f.step (scoreSpans sc (subTokens x.d n) x.d.e) [] with
             | .ok =>
               (match spansPoison s (scoreSpans sc (subTokens x.d n) x.d.e) with
                | some p => some (faultPoison s c k f 8 0 p)
                | none => some (submitTo s c k f op i x sc))
             | _ => none)
      | none =>
        if s.sess.length ≥ 8 then
          (if f.waiting then none else some (putFly s c k { f with waiting := true }))
        else if !memOk s da 32 then some (faultFly s c k f (recOf s f 2 8 0 0 0 mb))
        else if fenceOf s f.step [(da, 32)] [] == .wait then none
        else match firstPoison s da 32 with
          | some p => some (faultPoison s c k f 8 0 p)
          | none =>
            let bs := memRead s da 32
            if fenceOf s f.step (tableSpans bs) [] == .wait then none
            else match readDDesc s da with
            | none => some (drvFault s c k f 0x30)
            | some d =>
              let tabs := spansPoison s (tableSpans bs)
              if tabs.isSome then some (faultPoison s c k f 8 0 (tabs.getD 0))
              else if 256 * n ≥ d.t then some (drvFault s c k f 0x30)
              else if tileBad d || !memOk s ra (regionLen d) then some (faultFly s c k f (recOf s f 2 8 0 0 0 mb))
              else match fenceOf s f.step (scoreSpans sc (subTokens d n) d.e) [(ra, regionLen d)] with
                | .fault cause x => some (faultFly s c k f (fenceRec s f cause x))
                | .cow u => cowWait s u
                | .wait => none
                | .ok =>
                  match spansPoison s (scoreSpans sc (subTokens d n) d.e) with
                  | some p => some (faultPoison s c k f 8 0 p)
                  | none =>
                    let x : Sess := { desc := da, mb := mb, step := f.step, region := ra, d := d }
                    some (submitTo { s with sess := s.sess ++ [x] } c k f op s.sess.length x sc)

/-! Selection and capacity (R156-R158). -/

/-- A score's place in the order of R156 as a number, higher first: NaN below everything, zeros equal. -/
def scoreKey (w : Word) : Int :=
  let m : Nat := w.toNat % 2 ^ 31
  if m > 0x7F800000 then -4294967296 else if w.toNat ≥ 2 ^ 31 then -(m : Int) else (m : Int)

/-- Inserts expert e with its key into a list ordered highest key first; equal keys keep the lower index first. -/
def rankInsert (e : Nat) (key : Int) : List (Nat × Int) → List (Nat × Int)
  | [] => [(e, key)]
  | (x, y) :: t => if y < key then (e, key) :: (x, y) :: t else (x, y) :: rankInsert e key t

/-- The experts of one token from first rank to last. -/
def rankToken (sc : List Word) : List Nat :=
  (sc.zipIdx.foldl (fun l p => rankInsert p.2 (scoreKey p.1) l) []).map (fun p => p.1)

/-- Scores of token t. -/
def tokenScores (x : Sess) (t : Nat) : List Word :=
  match x.subs.find? (fun u => u.idx == t / 256) with
  | some u => lslice u.scores (t % 256 * x.d.e) x.d.e
  | none => []

/-- One token's ranking with its scores. -/
structure TokRank where
  ranks  : List Nat
  scores : List Word
  deriving DecidableEq, Repr

/-- State of the assignment: slots taken by expert, and the slots t K + r that are decided. -/
structure Assign where
  cnt   : Tab Nat := []
  slots : Tab DSlot := []

def full (a : Assign) (cap e : Nat) : Bool := tget 0 a.cnt e ≥ cap

def assignTo (a : Assign) (key e : Nat) (sp : Bool) (gate : Word) : Assign :=
  { cnt := tset a.cnt e (tget 0 a.cnt e + 1), slots := tset a.slots key ⟨e, true, sp, gate⟩ }

/-- The pass of rank r over token t (R157): a slot is assigned, dropped, or left waiting. -/
def passSlot (d : DDesc) (tk : TokRank) (t r : Nat) (a : Assign) : Assign :=
  let e := tk.ranks.getD r 0
  if !full a d.cap e then assignTo a (t * d.k + r) e false (tk.scores.getD e 0#32)
  else if !d.spill then { a with slots := tset a.slots (t * d.k + r) ⟨e, false, false, 0#32⟩ }
  else a

/-- Takes untried candidates until one is not full: what it took, and those left. -/
def takeCand (a : Assign) (cap : Nat) : List Nat → Option Nat × List Nat
  | [] => (none, [])
  | e :: t => if full a cap e then takeCand a cap t else (some e, t)

/-- The spill pass over one token's waiting slots in ascending rank (R157). -/
def spillToken (d : DDesc) (tk : TokRank) (t : Nat) : List Nat → List Nat → Assign → Assign
  | [], _, a => a
  | r :: rs, cands, a =>
    if (tfind a.slots (t * d.k + r)).isSome then spillToken d tk t rs cands a
    else
      let (e, rest) := takeCand a d.cap cands
      let a1 := match e with
        | some x => assignTo a (t * d.k + r) x true (tk.scores.getD x 0#32)
        | none => { a with slots := tset a.slots (t * d.k + r) ⟨tk.ranks.getD r 0, false, false, 0#32⟩ }
      spillToken d tk t rs rest a1

/-- The whole assignment of R157. -/
def assignAll (d : DDesc) (tks : List TokRank) : List DSlot :=
  let a1 := (List.range d.k).foldl (fun a r => tks.zipIdx.foldl (fun a p => passSlot d p.1 p.2 r a) a) {}
  let a2 := tks.zipIdx.foldl (fun a p =>
    spillToken d p.1 p.2 (List.range d.k) (lslice p.1.ranks d.k d.depth) a) a1
  (List.range (d.t * d.k)).map (fun i => tget ⟨0, false, false, 0#32⟩ a2.slots i)

def isNanWord (w : Word) : Bool := w.toNat % 2 ^ 31 > 0x7F800000

/-- The first NaN among a token's ranked candidates. -/
def nanExpert (d : DDesc) (tk : TokRank) : Option Nat :=
  (tk.ranks.take (d.k + d.depth)).find? (fun e => isNanWord (tk.scores.getD e 0#32))

/-- The 8 bytes of a list entry (R158); a NaN gate is the canonical one (R36). -/
def listEntry (x : DSlot) : List Byte :=
  natLe (x.expert % 256 + (if x.kept then 256 else 0) + (if x.spilled then 512 else 0)) 4 ++ natLe (enc32 (dec32 x.gate)).toNat 4

/-- DRV_NAN: recorded once for the session in the C stream of the submission, with its INVALID bit (R156). -/
def selectNan (s : State) (x : Sess) (tks : List TokRank) : State :=
  match tks.zipIdx.find? (fun p => (nanExpert x.d p.1).isSome) with
  | none => s
  | some (tk, t) =>
    let e := (nanExpert x.d tk).getD 0
    match x.subs.find? (fun u => u.idx == t / 256) with
    | none => s
    | some u =>
      let s1 := stamp (setSticky s u.cell 3 true false)
      logRec s1 u.cell 3 { cause := 0x31, unit := 8, row := t % 65536, col := e, tile := x.mb, pos := u.pos,
                           step := x.step % 2 ^ 32, time := s1.now }

/-- All submissions of a session have arrived. -/
def submitted (x : Sess) : Bool := x.subs.length == (x.d.t + 255) / 256

/-- DROVER_SELECTION: the session ranks, assigns, writes its list and advances its flag. -/
def droverSelection (s : State) (i : Nat) : State :=
  match s.sess[i]? with
  | none => s
  | some x =>
    if x.selected || !submitted x then s
    else
      let tks := (List.range x.d.t).map (fun t => let sc := tokenScores x t; (⟨rankToken sc, sc⟩ : TokRank))
      let slots := assignAll x.d tks
      let s1 := selectNan s x tks
      let s2 := flushOther (cmdWrite s1 x.step x.region (slots.flatMap listEntry))
      let kept := (slots.filter (fun q => q.kept)).length
      let sp := (slots.filter (fun q => q.spilled)).length
      let s3 := bumpPerf (bumpPerf (bumpPerf s2 0x2400 1 kept) 0x2400 2 sp) 0x2400 3 (slots.length - kept)
      let s4 := bumpPerf s3 0x2400 4 (tks.filter (fun tk => (nanExpert x.d tk).isSome)).length
      updFlag (setSess s4 i { x with selected := true, list := slots }) 0 true true x.d.flag (x.step % 2) 1#32

/-! The count phase (R159). -/

/-- Where a kept slot goes: rank and local slot of its expert. -/
def slotDest (d : DDesc) (q : DSlot) : Nat × Nat := d.experts.getD q.expert (0, 0)

/-- Row counts of this device for the 64 local slots of a member. -/
def rowCounts (x : Sess) (rank : Nat) : List Nat :=
  (List.range 64).map (fun j => (x.list.filter (fun q => q.kept && slotDest x.d q == (rank, j))).length)

/-- A DRV_COUNT message to a member: 64 U16 counts in four words, MB and the CRC (Table 9-9). -/
def countMsg (s : State) (x : Sess) (rank : Nat) : Option Stall :=
  let dev := x.d.group.getD rank 0
  (routeOf s dev).map (fun p =>
    let bs := (rowCounts x rank).flatMap (fun n => natLe n 2)
    { port := p.1, dest := 0, kind := 0,
      msg := { reqMsg s 0x28 0 dev false 0 (x.mb + 2 ^ 6 * x.d.crc)
                 ((List.range 4).map (fun i => dword (lslice bs (32 * i) 32))) with vc := 5 } })

/-- The members of the group other than this device, from its own rank + 1 on (R162). -/
def otherRanks (s : State) (d : DDesc) : List Nat := (List.range (d.g - 1)).map (fun i => (drvRank s d + 1 + i) % d.g)

/-- Ends a command in flight with its stream halting, its record standing in another log (R163). -/
def dropFly (s : State) (c k : Nat) (f : Fly) (cause : Nat) : State :=
  let s1 := releaseAcc (retireFly s c k f.id) c false f.acc
  let s2 := modStrm s1 c k (fun x => { x with fly := x.fly.filter (fun g => g.id ≠ f.id) })
  drained (beginHalt s2 c k cause f.pos f.id) c k

/-- The session faults with DRV_TABLE: recorded in the log of the last DRV_SUBMIT's stream; its DRV_SEND ends. -/
def sessTable (s : State) (i : Nat) : State :=
  match s.sess[i]? with
  | none => s
  | some x =>
    if x.faulted then s
    else
      let s1 := stamp (sessFault s i)
      let s2 := logRec s1 x.cell 3 { cause := 0x32, unit := 8, faulted := true, tile := x.mb, pos := x.pos,
                                     step := x.step % 2 ^ 32, time := s1.now }
      let s3 := setSess s2 i { x with faulted := true, faultEv := true, send := none }
      match x.send with
      | none => s3
      | some d => match findFly (getStrm s3 d.cell 3) d.fly with
        | some f => dropFly s3 d.cell 3 f 0x32
        | none => s3

/-! The payload phase (R160-R162). -/

/-- One row of this device's payload: source address, rank and slot it goes to, its index there, t K + r. -/
structure PayRow where
  src  : Nat
  rank : Nat
  slot : Nat
  q    : Nat
  ix   : Nat
  deriving DecidableEq, Repr

/-- Kept slots for one (rank, local slot), in ascending (t, r). -/
def keptFor (x : Sess) (rank j : Nat) : List Nat :=
  (List.range x.list.length).filter (fun i => match x.list[i]? with
    | some q => q.kept && slotDest x.d q == (rank, j)
    | none => false)

/-- Rows of a FWD send in the order of R162. -/
def fwdRows (s : State) (x : Sess) (z : DSend) : List PayRow :=
  (otherRanks s x.d ++ [drvRank s x.d]).flatMap (fun g => (List.range 64).flatMap (fun j =>
    (keptFor x g j).zipIdx.map (fun p => ⟨z.src + p.1 / x.d.k * z.rb, g, j, p.2, p.1⟩)))

/-- P(j, s) on this device: rows of slot j from sources of a lower rank (R160). -/
def rowsBelow (x : Sess) (j src : Nat) : Nat := ((List.range src).map (fun r => (tget [] x.counts r).getD j 0)).sum

def rowsOf (x : Sess) (j : Nat) : Nat := rowsBelow x j x.d.g

/-- Index of position (j, p) among a device's positions. -/
def posIx (d : DDesc) (j p : Nat) : Nat := j * d.g * d.cap + p

/-- Sends one row to a member, or copies it when the member is this device. -/
def payRow (s : State) (f : Fly) (x : Sess) (rb src rank dst : Nat) : State × Fly :=
  if rank == drvRank s x.d then (cmdWrite s f.step dst (memRead s src rb), f)
  else
    let dev := x.d.group.getD rank 0
    match routeOf s dev with
    | none => (s, f)
    | some (port, dl) => sendFly s (match x.send with
        | some z => z.cell
        | none => 0) 3 f (rowWrites s 0 dev port dl src dst rb)

/-- What names a session's lists: the session, and its own list. -/
def listName (x : Sess) : List Nat :=
  [x.desc, x.mb, x.step, x.d.crc] ++ x.list.map (fun q => q.expert + (if q.kept then 256 else 0))

/-- FWD: the position of this device's row at another member starts at a base that only the members' own counts
give (R160): a free value of the session, member and slot, at most CAP rows for each lower rank (assumption log 21). -/
def fwdPos (s : State) (x : Sess) (r : PayRow) : Nat :=
  let own := drvRank s x.d
  (if r.rank == own then rowsBelow x r.slot own else Config.drvBelow (listName x) r.rank r.slot % (own * x.d.cap + 1)) + r.q

/-- t K + r of row q of n that another member sends for slot j: they ascend (R160), and only its own list gives them (assumption
log 21). -/
def farIndex (x : Sess) (src j n q : Nat) : Nat :=
  q + ((List.range (q + 1)).map (fun i => Config.drvIndex (listName x) src j i % (x.d.t * x.d.k - n + 1))).foldl max 0

def fwdOne (acc : State × Fly × Bool) (x : Sess) (z : DSend) (fr : State) (r : PayRow) : State × Fly × Bool :=
  let (s, f, ok) := acc
  if !ok then (s, f, false)
  else if (firstPoison s r.src z.rb).isSome then (s, f, false)
  else
    let (s1, f1) := payRow s f x z.rb r.src r.rank (z.dst + posIx x.d r.slot (fwdPos fr x r) * z.rb)
    (s1, f1, true)

/-- The row counts and the incoming map a FWD send writes (R160): the index of another member's row is not in
what it sends before the payload: a free value (assumption log 21). -/
def fwdMap (s : State) (x : Sess) : State :=
  let own := drvRank s x.d
  let base := x.region + mapOff x.d
  let s1 := cmdWrite s x.step (x.region + countsOff x.d) ((List.range 64).flatMap (fun j => natLe (rowsOf x j) 4))
  (List.range 64).foldl (fun s j => (List.range x.d.g).foldl (fun s src =>
    let n := (tget [] x.counts src).getD j 0
    (List.range n).foldl (fun s q =>
      let ix := if src == own then (keptFor x own j).getD q 0 else farIndex x src j n q
      cmdWrite s x.step (base + 4 * posIx x.d j (rowsBelow x j src + q)) (natLe (src + 256 * ix) 4)) s) s) s1

/-- BACK: the incoming-map entries of this device's positions in the order of R162: source rank, position, index. -/
def backRows (s : State) (x : Sess) : List PayRow :=
  let ents := (List.range 64).flatMap (fun j => (List.range (rowsOf x j)).map (fun p =>
    let v := memLe s (x.region + mapOff x.d + 4 * posIx x.d j p) 4
    (⟨p, v % 256, j, p, v / 256⟩ : PayRow)))
  (otherRanks s x.d ++ [drvRank s x.d]).flatMap (fun g => ents.filter (fun r => r.rank == g))

def backOne (acc : State × Fly × Bool) (x : Sess) (z : DSend) (r : PayRow) : State × Fly × Bool :=
  let (s, f, ok) := acc
  let src := z.src + posIx x.d r.slot r.q * z.rb
  if !ok then (s, f, false)
  else if (firstPoison s src z.rb).isSome then (s, f, false)
  else
    let (s1, f1) := payRow s f x z.rb src r.rank (z.dst + r.ix * z.rb)
    (s1, f1, true)

/-- BACK: rows of +0 bytes for the device's own dropped slots (R161). -/
def backZeros (s : State) (x : Sess) (z : DSend) : State :=
  (List.range x.list.length).foldl (fun s i => match x.list[i]? with
    | some q => if q.kept then s else cmdWrite s x.step (z.dst + i * z.rb) (List.replicate z.rb 0#8)
    | none => s) s

/-- The incoming-map entries of the rows this device holds or will hold, as spans. -/
def mapEnts (x : Sess) : List (Nat × Nat) :=
  (List.range 64).flatMap (fun j => (List.range (rowsOf x j)).map (fun p => (x.region + mapOff x.d + 4 * posIx x.d j p, 4)))

/-- The payload of a send goes out. -/
def sendPayload (s : State) (i : Nat) : State :=
  match s.sess[i]? with
  | none => s
  | some x => match x.send with
    | none => s
    | some z => match findFly (getStrm s z.cell 3) z.fly with
      | none => s
      | some f =>
        match spansPoison s (mapEnts x) with
        | some p => faultPoison (setSess (retireFly s z.cell 3 f.id) i { x with send := none }) z.cell 3 f 8 0 p
        | none =>
        let s0 := setSess s i { x with send := some { z with payload := true } }
        let m := if z.back then backZeros s0 x z else fwdMap s0 x
        let (s1, f1, ok) :=
          if z.back then (backRows s0 x).foldl (fun a r => backOne a x z r) (m, f, true)
          else (fwdRows s0 x z).foldl (fun a r => fwdOne a x z m r) (m, f, true)
        let s2 := putFly s1 z.cell 3 f1
        if ok then flushWt s2 z.cell 3 z.fly
        else
          let p := (if z.back then ((backRows s x).map (fun r => z.src + posIx x.d r.slot r.q * z.rb))
            else (fwdRows s x z).map (fun r => r.src)).findSome? (fun a => firstPoison s a z.rb)
          faultPoison (setSess (retireFly s2 z.cell 3 f.id) i { x with send := none }) z.cell 3 f1 8 0 (p.getD 0)

/-- Every count message has been sent, acknowledged and received: the payload begins (R159). -/
def countsDone (s : State) (i : Nat) : State :=
  match s.sess[i]? with
  | some x => (match x.send with
    | some z => if !z.payload && z.unsent.isEmpty && x.counts.length == x.d.g then sendPayload s i else s
    | none => s)
  | none => s

/-- Where a FWD send's own rows can come to lie: of each local slot that holds some, the positions up to them behind the rows of lower
ranks, whose counts are not known yet (assumption log 21). -/
def ownFill (s : State) (x : Sess) (z : DSend) : List (Nat × Nat) :=
  let own := drvRank s x.d
  (List.range 64).filterMap (fun j =>
    let n := (keptFor x own j).length
    if n == 0 then none else some (z.dst + posIx x.d j 0 * z.rb, (own * x.d.cap + n) * z.rb))

/-- Local spans a send reads and writes. -/
def sendSpans (s : State) (x : Sess) (z : DSend) : List (Nat × Nat) × List (Nat × Nat) :=
  if z.back then
    ((backRows s x).map (fun r => (z.src + posIx x.d r.slot r.q * z.rb, z.rb)),
     (List.range x.list.length).map (fun i => (z.dst + i * z.rb, z.rb)))
  else
    ((fwdRows s x z).map (fun r => (r.src, z.rb)), ownFill s x z)

/-- DRV_SEND at its commit point: the count phase begins. -/
def sendCommit (s : State) (c k : Nat) (f : Fly) (op : DrvSendOp) : Option State :=
  match roleDesc s c f .hs 0, roleDesc s c f .hd 0 with
  | some a, some b =>
    let mb := op.mb.toNat
    match sendIx s c f (32 * op.desc.toNat) mb with
    | none => some (drvFault s c k f 0x34)
    | some i => match s.sess[i]? with
      | none => none
      | some x =>
        if x.faulted then some (drvFault (sessFault s i) c k f 0x32)
        else if !x.selected || x.send.isSome then none
        else if isOne op.dir && !x.fwdDone then some (drvFault (sessFault s i) c k f 0x33)
        else
          let z : DSend := { cell := c, fly := f.id, back := isOne op.dir, src := gLocal (dAddr a), dst := gLocal (dAddr b),
                             rb := 32 * (op.rb.toNat + 1), unsent := if isShadow s then [] else otherRanks s x.d }
          let (rd, wr) := sendSpans s x z
          match (otherRanks s x.d).find? (fun r => (routeOf s (x.d.group.getD r 0)).isNone) with
          | some r => some (faultFly s c k f (linkRec s f 0x60 (x.d.group.getD r 0) 0xFFFF))
          | none =>
            if !isLocalAddr s (dAddr a) || !isLocalAddr s (dAddr b) || !spansOk s rd || !spansOk s wr then
              some (faultFly s c k f (recOf s f 2 8 0 0 0 mb))
            else match fenceOf s f.step rd wr with
              | .fault cause y => some (faultFly s c k f (fenceRec s f cause y))
              | .cow u => cowWait s u
              | .wait => none
              | .ok =>
                let own := drvRank s x.d
                let (s1, f1) := popAll s c f
                let s2 := setSess s1 i { x with send := some z, counts := [(own, rowCounts x own)] }
                let (s3, f2) := sendFly s2 c k { f1 with committed := true } ((otherRanks s x.d).filterMap (countMsg s2 x))
                some (countsDone (putFly s3 c k f2) i)
  | _, _ => none

/-- The session counts, and has no count of this member for its send yet. -/
def countOpen (x : Sess) (src : Nat) : Bool :=
  !x.faulted && (tfind x.counts (x.d.group.findIdx (fun d => d == src))).isNone && (match x.send with
    | some z => !z.payload
    | none => false)

/-- The session that a count message from a device belongs to. DESIGN CHOICE: the message names MB and a CRC only, so of the open sessions
of that MB with the device in their group, those with that CRC come first, or all where none has it; the oldest of them that counts
and has no count of this device takes it, and it stays in its channel while there is none (assumption log 140). -/
def countSess (s : State) (mb src crc : Nat) : Option Nat :=
  let fits (x : Sess) : Bool := x.mb == mb && x.d.group.contains src
  let same := s.sess.any (fun x => fits x && !x.faulted && x.d.crc == crc)
  s.sess.findIdx? (fun x => fits x && countOpen x src && (!same || x.d.crc == crc))

def cntMb (m : Msg) : Nat := m.spec % 64
def cntCrc (m : Msg) : Nat := m.spec / 64 % 2 ^ 32

/-- The counts of a message's four words. -/
def cntRows (m : Msg) : List Nat :=
  let bs := m.data.flatMap (fun w => w.bytes)
  (List.range 64).map (fun j => leAt bs (2 * j) 2)

/-- A count message that its session accepts (R159). -/
def takeCounts (s : State) (i : Nat) (m : Msg) : State :=
  match s.sess[i]? with
  | some x =>
    let r := x.d.group.findIdx (fun d => d == m.src)
    countsDone (setSess s i { x with counts := tset x.counts r (cntRows m) }) i
  | none => s

/-- A count message of this device has been accepted by a member. -/
def countAck (s : State) (cell fly dev : Nat) : State :=
  match s.sess.findIdx? (fun x => match x.send with
      | some z => z.cell == cell && z.fly == fly
      | none => false) with
  | none => s
  | some i => match s.sess[i]? with
    | some x => (match x.send with
      | some z =>
        let r := x.d.group.findIdx (fun d => d == dev)
        countsDone (setSess s i { x with send := some { z with unsent := z.unsent.filter (fun q => q ≠ r) } }) i
      | none => s)
    | none => s

/-- A count message of this device has been refused: its session faults (R159). -/
def countRefused (s : State) (cell fly : Nat) : State :=
  match s.sess.findIdx? (fun x => match x.send with
      | some z => z.cell == cell && z.fly == fly
      | none => false) with
  | none => s
  | some i => sessTable s i

/-- Rows that other members send: the member's rank, and the row's place in the destination (R160, R161). -/
def owedRows (s : State) (x : Sess) (z : DSend) : List (Nat × Nat) :=
  let own := drvRank s x.d
  let others := (List.range x.d.g).filter (fun r => r != own)
  if z.back then
    (x.list.zipIdx.filter (fun p => p.1.kept && (slotDest x.d p.1).1 != own)).map (fun p => ((slotDest x.d p.1).1, p.2))
  else others.flatMap (fun r => (List.range 64).flatMap (fun j =>
    (List.range ((tget [] x.counts r).getD j 0)).map (fun q => (r, posIx x.d j (rowsBelow x j r + q)))))

/-- The words of those rows, each with the rank that writes it. -/
def owedWords (s : State) (x : Sess) (z : DSend) : List (Nat × Nat) :=
  (owedRows s x z).flatMap (fun p => (List.range (z.rb / 32)).map (fun i => (p.1, (z.dst + p.2 * z.rb) / 32 + i)))

/-- Words that a group member writes into the destination of a send are remembered: its rows may come before this device has every count
(R159). -/
def rowsArrive (s : State) (dev a n : Nat) : State :=
  { s with sess := s.sess.map (fun x => match x.send with
      | some z =>
        let span := if z.back then x.d.t * x.d.k * z.rb else 64 * x.d.g * x.d.cap * z.rb
        if x.d.group.contains dev && z.dst ≤ a && a < z.dst + span then
          let ws := (List.range n).map (fun i => (x.d.group.findIdx (fun d => d == dev), a / 32 + i))
          { x with send := some { z with got := z.got ++ ws.filter (fun w => !z.got.contains w) } }
        else x
      | none => x) }

/-- DRV_SEND_DONE: every outgoing row is acknowledged and every incoming row is in (R162). -/
def drvSendDone (s : State) (i : Nat) : State :=
  match s.sess[i]? with
  | none => s
  | some x => match x.send with
    | none => s
    | some z => match findFly (getStrm s z.cell 3) z.fly with
      | none => s
      | some f =>
        if !z.payload || f.remote != 0 || !(owedWords s x z).all (fun w => z.got.contains w) then s
        else
          let s1 := setSess s i { x with send := none, fwdDone := x.fwdDone || !z.back }
          let s2 := updFlag s1 0 true true x.d.flag (x.step % 2) 1#32
          putFly s2 z.cell 3 { f with done := true, acked := true }

/-- A DRV_SEND of the session stands before a DRV_CLOSE in its stream and has not committed. -/
def sendBefore (s : State) (c : Nat) (f : Fly) (x : Sess) : Bool :=
  (getStrm s c 3).fly.any (fun g => g.id < f.id && !g.committed && g.step == x.step && (match g.op with
    | .drvSend o => 32 * o.desc.toNat == x.desc && o.mb.toNat == x.mb
    | _ => false))

/-- DRV_CLOSE: commits at issue; the session ends once the sends before it have (assumption log 22). -/
def closeCommit (s : State) (c k : Nat) (f : Fly) (op : DrvCloseOp) : Option State :=
  let found := if f.committed then s.sess.findIdx? (fun x => x.closing == some (c, f.id))
    else sessIx s (32 * op.desc.toNat) op.mb.toNat f.step
  match found.bind (fun i => (s.sess[i]?).map (fun x => (i, x))) with
  | none => if f.committed then some (putFly s c k { f with done := true }) else some (drvFault s c k f 0x34)
  | some (i, x) =>
    if x.send.isSome || sendBefore s c f x then
      if f.committed then none
      else some (putFly (setSess s i { x with closing := some (c, f.id) }) c k { f with committed := true })
    else some (putFly (bumpPerf { s with sess := s.sess.eraseIdx i } 0x2400 5 1) c k { f with committed := true, done := true })

end Sys2Proof.Machine
end

