-- ==== Sys2Proof/Machine/Mill.lean ====
section
/-! DEFINITION. The Mill (R296-R322): collectives on rings and trees, their messages, the vote and the verdict. -/
namespace Sys2Proof.Machine

/-! Elements and words (R300, R312). -/

/-- Bytes of n elements of a Mill format. -/
def millBytes (fmt n : Nat) : Nat := if fmt == 0x0C then 4 * n + 2 * n else if fmt == 1 then 2 * n else 4 * n

/-- Where element i of a vector of n at a base lies, and its tail: a W48 vector's tail plane follows its head plane. -/
def elAddr (base fmt n i : Nat) : Nat × Option Nat :=
  if fmt == 0x0C then (base + 4 * i, some (base + (4 * n + 31) / 32 * 32 + 2 * i))
  else (base + (if fmt == 1 then 2 else 4) * i, none)

/-- Element i of a vector of n at a base. -/
def elRead (s : State) (base fmt n i : Nat) : MEl :=
  match elAddr base fmt n i with
  | (a, some t) => { fmt := fmt, code := memLe s a 4 + 2 ^ 32 * memLe s t 2, bad := isPoison s a, badT := isPoison s t }
  | (a, none) => { fmt := fmt, code := memLe s a (if fmt == 1 then 2 else 4), bad := isPoison s a }

/-- An element stands in a poisoned word. -/
def elBad (e : MEl) : Bool := e.bad || e.badT

def elsRead (s : State) (base fmt n i cnt : Nat) : List MEl := (List.range cnt).map (fun j => elRead s base fmt n (i + j))

/-- The exact value of an element (R308). -/
def elVal (e : MEl) : XVal :=
  if e.fmt == 0x0C then dec48 (BitVec.ofNat 32 e.code) (e.code / 2 ^ 32)
  else if e.fmt == 1 then decFlt bf16 e.code else dec32 (BitVec.ofNat 32 e.code)

/-- Marks the words of a span that hold elements of poisoned words, with the check symbols of those that came whole. -/
def poisonEls (s : State) (base w : Nat) (els : List (Bool × List Byte)) : State :=
  let s1 := els.zipIdx.foldl (fun s p => if p.1.1 then setPoison s (base + w * p.2) true else s) s
  els.zipIdx.foldl (fun s p => if p.1.1 && !p.1.2.isEmpty && (base + w * p.2) % 32 == 0 then
    { s with pchk := tset s.pchk ((base + w * p.2) / 32) p.1.2 } else s) s1

/-- Writes elements i, i+1, … of a vector of n (R197). -/
def elsWrite (s : State) (step base fmt n i : Nat) (els : List MEl) : State :=
  if els.isEmpty then s
  else if fmt == 0x0C then
    let t := base + (4 * n + 31) / 32 * 32
    let s1 := cmdWrite s step (base + 4 * i) (els.flatMap (fun e => natLe (e.code % 2 ^ 32) 4))
    let s2 := cmdWrite s1 step (t + 2 * i) (els.flatMap (fun e => natLe (e.code / 2 ^ 32) 2))
    poisonEls (poisonEls s2 (base + 4 * i) 4 (els.map (fun e => (e.bad, e.chk)))) (t + 2 * i) 2 (els.map (fun e => (e.badT, e.chkT)))
  else
    let w := if fmt == 1 then 2 else 4
    poisonEls (cmdWrite s step (base + w * i) (els.flatMap (fun e => natLe e.code w))) (base + w * i) w (els.map (fun e => (e.bad, e.chk)))

/-- A list in pieces of n. -/
def pieces {α : Type} (n : Nat) : Nat → List α → List (List α)
  | 0, _ => []
  | fuel + 1, l => if l.isEmpty then [] else l.take n :: pieces n fuel (l.drop n)

/-- A data word of element codes of w bytes each; a poisoned word that is passed on whole keeps its check symbols (R312). -/
def elWord (w : Nat) (els : List (Nat × Bool × List Byte)) : DWord :=
  let c := (els.head?.map (fun e => e.2.2)).getD []
  { bytes := (els.flatMap (fun e => natLe e.1 w) ++ List.replicate 32 0#8).take 32, poison := els.any (fun e => e.2.1),
    chk := if els.length * w == 32 && els.all (fun e => e.2.1 && e.2.2 == c) then c else [] }

/-- Data words of elements in order: 8 FP32, 16 BF16, or runs of 64 W48 as 8 head words and 4 tail words. -/
def millWords (fmt : Nat) (els : List MEl) : List DWord :=
  let n := els.length
  if fmt == 0x0C then
    (pieces 64 n els).flatMap (fun r =>
      (pieces 8 64 (r.map (fun e => (e.code % 2 ^ 32, e.bad, e.chk)))).map (elWord 4) ++
        (pieces 16 64 (r.map (fun e => (e.code / 2 ^ 32, e.badT, e.chkT)))).map (elWord 2))
  else if fmt == 1 then (pieces 16 n (els.map (fun e => (e.code, e.bad, e.chk)))).map (elWord 2)
  else (pieces 8 n (els.map (fun e => (e.code, e.bad, e.chk)))).map (elWord 4)

/-- Elements of one data word at w bytes each. -/
def wordEls (w : Nat) (x : DWord) : List (Nat × Bool × List Byte) :=
  (List.range (32 / w)).map (fun i => (leNat (lslice x.bytes (w * i) w), x.poison, x.chk))

/-- The elements that a message's words carry. -/
def millEls (fmt : Nat) (ws : List DWord) : List MEl :=
  if fmt == 0x0C then
    (pieces 12 ws.length ws).flatMap (fun r =>
      let hs := (r.take 8).flatMap (wordEls 4)
      let ts := (r.drop 8).flatMap (wordEls 2)
      (hs.zip ts).map (fun p => { fmt := fmt, code := p.1.1 + 2 ^ 32 * p.2.1, bad := p.1.2.1, badT := p.2.2.1,
                                  chk := p.1.2.2, chkT := p.2.2.2 }))
  else ws.flatMap (fun x => (wordEls (if fmt == 1 then 2 else 4) x).map (fun p => { fmt := fmt, code := p.1, bad := p.2.1, chk := p.2.2 }))

/-- Elements of a full message of a format (R312). -/
def perMsg (fmt : Nat) : Nat := if fmt == 0x0C then 64 else if fmt == 1 then 256 else 128

/-- WIDX of element offset i, and back. -/
def widxOf (fmt i : Nat) : Nat := if fmt == 0x0C then i / 64 * 12 else if fmt == 1 then i / 16 else i / 8

def offOf (fmt w : Nat) : Nat := if fmt == 0x0C then w / 12 * 64 else if fmt == 1 then 16 * w else 8 * w

/-! Groups and runs. -/

/-- S, the elements of a segment. -/
def millS (op : MillOp) : Nat := 64 * (op.seg.toNat + 1)

/-- Elements of one part: a segment split over the rails; S on a tree (R306). -/
def partLen (g : MGroup) (op : MillOp) : Nat := if g.ring then millS op / g.rails else millS op

def isMill (op : Op) : Bool :=
  match op with
  | .millRs _ | .millAg _ | .millAr _ | .millBc _ => true
  | _ => false

/-- The runs whose command is still in flight. -/
def liveRun (s : State) (r : MillRun) : Bool := (findFly (getStrm s r.cell 3) r.fly).isSome

def pruneMill (s : State) : State := { s with mill := s.mill.filter (liveRun s) }

def runOf (s : State) (c id : Nat) : Option MillRun := s.mill.find? (fun r => r.cell == c && r.fly == id)

def putRun (s : State) (r : MillRun) : State :=
  { s with mill := s.mill.map (fun q => if q.cell == r.cell && q.fly == r.fly then r else q) }

def runFly (s : State) (r : MillRun) : Option Fly := findFly (getStrm s r.cell 3) r.fly

/-- A record of a Mill cause (R319). -/
def millRec (s : State) (f : Fly) (cause row col : Nat) : ExRec := recOf s f cause 9 row col 0 (opTile f.op)

/-- A Mill command in progress ends with a cause. -/
def millEnd (s : State) (r : MillRun) (cause row col : Nat) : State :=
  match runFly s r with
  | none => pruneMill s
  | some f => pruneMill (endFly s r.cell 3 f (millRec s f cause row col))

/-- Non-finite elements at this device: storm state, the record of cause 0x75, the tally (R310). -/
def millNonfin (s : State) (r : MillRun) (rank seg n : Nat) : State :=
  if n = 0 then s
  else
    let key := r.op.keyb.toNat * 65536 + r.op.cseq.toNat
    let s1 := modStep s r.step (fun t => { t with storm := true, det := detMin t.det 0xFF key })
    let s2 := bumpPerf s1 0x2410 5 n
    match runFly s2 r with
    | some f => putFly s2 r.cell 3 { f with recs := addRec f.recs (millRec s2 f 0x75 seg rank) n }
    | none => s2

/-! Sending. -/

/-- A Mill data message. -/
def millMsg (s : State) (g : MGroup) (r : MillRun) (mtype seg off fmt rail : Nat) (fin : Bool) (els : List MEl) : Msg :=
  { mtype := mtype, vc := 4, prio := 1, part := ownPart s, src := ownId s,
    addr := widxOf fmt off + 2 ^ 31 * fmt + 2 ^ 36 * seg,
    spec := millSpec g.gid g.rank (if stepStorm s r.step then 1 else 0) (if fin then 1 else 0) rail r.op.cseq.toNat r.step r.epoch,
    data := millWords fmt els }

/-- Elements of a part from an offset, in messages of the full size, to some links. -/
def sendEls (s : State) (g : MGroup) (r : MillRun) (links : List MLink) (mtype seg rail fmt off total : Nat) (els : List MEl) : State :=
  (pieces (perMsg fmt) els.length els).zipIdx.foldl (fun s p =>
    let o := off + perMsg fmt * p.2
    let m := millMsg s g r mtype seg o fmt rail (o + p.1.length == total) p.1
    links.foldl (fun s l => sendLink s l m) s) s

/-- The link to rank + 1 of a rail. -/
def nextLink (g : MGroup) (rail : Nat) : List MLink :=
  match g.links[rail]? with
  | some p => [p.1]
  | none => []

/-! Arithmetic (R304, R305, R308-R310). -/

/-- One rounding under ARITH, and whether it sets OVERFLOW: a W48 sum at the threshold does (R49). -/
def millAdd (w48 : Bool) (a b : MEl) : MEl × Bool :=
  let v := xAdd (elVal a) (elVal b)
  if w48 then
    let (h, t, ovf) := enc48 v
    ({ fmt := 0x0C, code := h.toNat + 2 ^ 32 * t }, ovf)
  else ({ fmt := 0, code := (enc32 v).toNat }, false)

/-- Contributions added one after another to the first, and how many additions set OVERFLOW. -/
def addLanes (w48 : Bool) (own : List MEl) (lanes : List (List MEl)) : List MEl × Nat :=
  lanes.foldl (fun acc l =>
    let r := (acc.1.zip l).map (fun p => millAdd w48 p.1 p.2)
    (r.map (fun q => q.1), acc.2 + (r.filter (fun q => q.2)).length)) (own, 0)

/-- A sum in the output's format as it is written: NaN canonical, the tail of ∞ and NaN zero (R36, R50). -/
def millKeep (out code : Nat) : Nat :=
  let h := code % 2 ^ 32
  if xIsNan (dec32 (BitVec.ofNat 32 h)) then 0x7FC00000
  else if out == 0x0C && !xFinite (dec32 (BitVec.ofNat 32 h)) then h else code

/-- The output conversion of element i of the output, and whether it sets OVERFLOW (R308, R309). Table 10-5 leaves a sum in the
output's format unchanged; FP32 becomes W48 as it stands, and BF16 becomes FP32 exactly (R51). -/
def millOut (s : State) (r : MillRun) (i : Nat) (e : MEl) : MEl × Bool :=
  let out := r.op.ofmt.toNat
  if out == 1 then
    let rb := if r.op.rm == 2#2 then rbits s r.step (r.op.keyb.toNat * 65536 + i / 65536) (i % 65536) else 0
    let c := toFlt bf16 false (rmMode r.op.rm) rb (elVal e)
    ({ fmt := out, code := c.code }, c.ovf)
  else if e.fmt == out || out == 0x0C then ({ fmt := out, code := millKeep out e.code }, false)
  else
    let c := toFlt fp32 false .rne 0 (elVal e)
    ({ fmt := out, code := c.code }, c.ovf)

/-- OVERFLOW events of a Mill command: the issuing stream's flag, the record, the cell's tally (R67, R68). -/
def millOvf (s : State) (r : MillRun) (rank seg n : Nat) : State :=
  if n = 0 then s
  else
    let s1 := bumpPerf (setSticky s r.cell 3 false true) (0x3020 + 0x40 * r.cell) 4 n
    match runFly s1 r with
    | some f => putFly s1 r.cell 3 { f with recs := addRec f.recs (millRec s1 f 0x42 seg rank) n }
    | none => s1

def elNonfin (e : MEl) : Bool := !xFinite (elVal e)

/-- The format partial sums of more than one contribution travel in (Table 10-5). -/
def sumFmt (op : MillOp) : Nat := if op.arith == 1#2 then 0x0C else 0

/-- Elements of HS and HD of a run (Table 10-3). -/
def srcLen (g : MGroup) (code : Nat) (op : MillOp) : Nat :=
  if g.ring && (code == 0x70 || code == 0x72) then g.size * millS op else millS op

def dstLen (g : MGroup) (code : Nat) (op : MillOp) : Nat :=
  if g.ring && (code == 0x71 || code == 0x72) then g.size * millS op else millS op

/-- Own elements of a part of a segment. -/
def ownEls (s : State) (g : MGroup) (r : MillRun) (seg rail off n : Nat) : List MEl :=
  let base := if g.ring && (r.code == 0x70 || r.code == 0x72) then seg * millS r.op else 0
  elsRead s r.src r.op.ifmt.toNat (srcLen g r.code r.op) (base + rail * partLen g r.op + off) n

/-- The first poisoned word among those own elements. -/
def ownPoison (s : State) (g : MGroup) (r : MillRun) (seg rail off n : Nat) : Option Nat :=
  if s.poison.isEmpty then none
  else
    let b := (if g.ring && (r.code == 0x70 || r.code == 0x72) then seg * millS r.op else 0) + rail * partLen g r.op + off
    (List.range n).findSome? (fun i =>
      let (a, t) := elAddr r.src r.op.ifmt.toNat (srcLen g r.code r.op) (b + i)
      if isPoison s a then some a else t.bind (fun x => if isPoison s x then some x else none))

/-- Where the own element lies that a poisoned word from a link was to be added to. -/
def besidePoison (g : MGroup) (r : MillRun) (seg rail off : Nat) (lanes : List (List MEl)) : Option Nat :=
  let b := (if g.ring && (r.code == 0x70 || r.code == 0x72) then seg * millS r.op else 0) + rail * partLen g r.op + off
  (lanes.filterMap (fun l => l.findIdx? elBad)).head?.map (fun i => (elAddr r.src r.op.ifmt.toNat (srcLen g r.code r.op) (b + i)).1)

/-- Where a result element of (segment, rail, offset) lies in this device's output. -/
def outIx (g : MGroup) (r : MillRun) (seg rail off : Nat) : Nat :=
  (if g.ring && (r.code == 0x71 || r.code == 0x72) then seg * millS r.op else 0) + rail * partLen g r.op + off

def writeOut (s : State) (g : MGroup) (r : MillRun) (seg rail off : Nat) (els : List MEl) : State :=
  elsWrite s r.step r.dst r.op.ofmt.toNat (dstLen g r.code r.op) (outIx g r seg rail off) els

/-- Takes n elements off the todo count; at zero the command's output is complete. -/
def took (s : State) (r : MillRun) (n : Nat) : State :=
  let r1 := { r with todo := r.todo - n }
  let s1 := putRun s r1
  if r1.todo != 0 then s1
  else match runFly s1 r1 with
    | some f => putFly s1 r.cell 3 { f with done := true, outs := moveOuts f r.hd }
    | none => s1

/-- A formed block of results: converted once, written, and passed on under MILL_AR (R307). -/
def formBlock (s : State) (g : MGroup) (r : MillRun) (seg rail off : Nat) (accs : List MEl) : State :=
  let ix := outIx g r seg rail off
  let cvs := accs.zipIdx.map (fun p => millOut s r (ix + p.2) p.1)
  let outs := cvs.map (fun q => q.1)
  let bad := ((accs.zip outs).filter (fun p => !elNonfin p.1 && elNonfin p.2)).length
  let s0 := millOvf s r g.rank seg (cvs.filter (fun q => q.2)).length
  let s1 := millNonfin (writeOut s0 g r seg rail off outs) r g.rank seg bad
  if r.code != 0x72 then s1
  else
    let links := if g.ring then (if g.size > 1 then nextLink g rail else []) else g.kids
    sendEls s1 g r links 0x31 seg rail r.op.ofmt.toNat off (partLen g r.op) outs

/-- One block of n elements of a reduction: this device's own elements and those of its lanes, in order. -/
def reduceBlock (s : State) (g : MGroup) (r : MillRun) (seg rail off n : Nat) (lanes : List (List MEl)) : State :=
  let own := ownEls s g r seg rail off n
  let w48 := r.op.arith == 1#2
  -- R304's add(acc, own) and R305's add(own, child) are one sum: add is commutative
  let (accs, ovf) := addLanes w48 own lanes
  let bad := ((List.range n).filter (fun i =>
    (own[i]?.map elNonfin).getD false || lanes.any (fun l => (l[i]?.map elNonfin).getD false) ||
      (accs[i]?.map elNonfin).getD false)).length
  let s1 := bumpPerf (millNonfin (millOvf s r g.rank seg ovf) r g.rank seg bad) 0x2410 3 (n * lanes.length)
  if g.ring && seg != g.rank then
    sendEls s1 g r (nextLink g rail) 0x30 seg rail (sumFmt r.op) off (partLen g r.op) accs
  else if !g.ring && g.rank != 0 then
    sendEls s1 g r [g.parent] 0x30 0 0 (if lanes.isEmpty then r.op.ifmt.toNat else sumFmt r.op) off (partLen g r.op) accs
  else formBlock s1 g r seg rail off accs

/-- Keys of the lanes of a block: the rail on a ring, the children on a tree. -/
def laneKeys (g : MGroup) (seg rail : Nat) : List Nat :=
  if g.ring then [64 * seg + rail] else List.range g.kids.length

/-- Reduces every complete block that the lanes hold, 256 elements at a time or the rest of the part (R312). -/
def pump (g : MGroup) (seg rail c id : Nat) : Nat → State → State
  | 0, s => s
  | fuel + 1, s =>
    match runOf s c id with
    | none => s
    | some r =>
      let keys := laneKeys g seg rail
      let off := tget 0 r.prog (64 * seg + rail)
      let n := min 256 (partLen g r.op - off)
      let lanes := keys.map (fun k => (tget [] r.recv k).take n)
      if n = 0 || lanes.any (fun l => l.length < n) then s
      else match (ownPoison s g r seg rail off n).orElse (fun _ => besidePoison g r seg rail off lanes), runFly s r with
      | some a, some f => pruneMill (faultPoison s c 3 f 9 (keyTile f.op) a)
      | some _, none => s
      | none, _ =>
        let r1 := { r with recv := keys.foldl (fun t k => tset t k ((tget [] t k).drop n)) r.recv,
                           prog := tset r.prog (64 * seg + rail) (off + n) }
        let s1 := reduceBlock (putRun s r1) g r1 seg rail off n lanes
        let s2 := match runOf s1 c id with
          | some r2 => took s1 r2 (n * keys.length)
          | none => s1
        pump g seg rail c id fuel s2

/-! Starting a command (R299-R303). -/

/-- Elements a command takes in before it is done. -/
def todoOf (g : MGroup) (code : Nat) (op : MillOp) : Nat :=
  let n := millS op
  if g.ring then
    match code with
    | 0x72 => 2 * (g.size - 1) * n
    | 0x73 => if g.rank == op.root.toNat then 0 else n
    | _ => (g.size - 1) * n
  else
    match code with
    | 0x73 => if g.rank == 0 then 0 else n
    | _ => g.kids.length * n + (if g.rank == 0 then 0 else n)

/-- The whole of a part as this device's own elements. -/
def ownPart' (s : State) (g : MGroup) (r : MillRun) (seg rail : Nat) : List MEl := ownEls s g r seg rail 0 (partLen g r.op)

/-- Rails of a group. -/
def railsOf (g : MGroup) : List Nat := if g.ring then List.range g.rails else [0]

/-- The device sends its own contribution alone (R304, R305). -/
def sendOwn (s : State) (g : MGroup) (r : MillRun) (links : List MLink) (seg rail : Nat) : State :=
  let els := ownPart' s g r seg rail
  let s1 := millNonfin s r g.rank seg (els.filter elNonfin).length
  sendEls s1 g r links 0x30 seg rail r.op.ifmt.toNat 0 (partLen g r.op) els

/-- The device is the only contributor: its own elements are the result. -/
def formOwn (s : State) (g : MGroup) (r : MillRun) (seg rail : Nat) : State :=
  let els := ownPart' s g r seg rail
  formBlock (millNonfin s r g.rank seg (els.filter elNonfin).length) g r seg rail 0 els

/-- Copies the source to the output and passes it on (MILL_AG, MILL_BC). -/
def spread (s : State) (g : MGroup) (r : MillRun) (seg rail : Nat) : State :=
  let els := ownPart' s g r seg rail
  let links := if g.ring then (if g.size > 1 then nextLink g rail else []) else g.kids
  sendEls (writeOut s g r seg rail 0 els) g r links 0x31 seg rail r.op.ofmt.toNat 0 (partLen g r.op) els

/-- What a command does when the Mill begins to read its source. -/
def startRun (s : State) (g : MGroup) (r : MillRun) : State :=
  let s1 := (railsOf g).foldl (fun s k =>
    match r.code with
    | 0x71 => spread s g r g.rank k
    | 0x73 => if g.rank == r.op.root.toNat then spread s g r 0 k else s
    | _ =>
      if g.ring then
        (if g.size == 1 then formOwn s g r 0 k else sendOwn s g r (nextLink g k) ((g.rank + g.size - 1) % g.size) k)
      else if g.kids.isEmpty then
        (if g.rank == 0 then formOwn s g r 0 0 else sendOwn s g r [g.parent] 0 0)
      else s) s
  match runOf s1 r.cell r.fly with
  | some r1 => if r1.todo == 0 then took s1 r1 0 else s1
  | none => s1

/-- Next CSEQ of a group in a step (R302). -/
def nextSeq (s : State) (step gid : Nat) : Nat :=
  match getStep s step with
  | some t => tget 0 t.mseq gid
  | none => tget 0 s.mseq0 gid

def bumpSeq (s : State) (step gid : Nat) : State :=
  match getStep s step with
  | some _ => modStep s step (fun t => { t with mseq := tset t.mseq gid ((tget 0 t.mseq gid + 1) % 65536) })
  | none => { s with mseq0 := tset s.mseq0 gid ((tget 0 s.mseq0 gid + 1) % 65536) }

/-- R301: the group does not fit the command. -/
def groupBad (g : MGroup) (code : Nat) (op : MillOp) : Bool :=
  ((code == 0x70 || code == 0x71) && !g.ring) || op.root.toNat ≥ g.size || (!g.ring && op.root != 0#12) ||
    (g.ring && (op.seg.toNat + 1) % g.rails != 0)

/-- An uncommitted Mill command of the same group stands before it in the stream. -/
def millBehind (s : State) (c : Nat) (f : Fly) (gix : Nat) : Bool :=
  (getStrm s c 3).fly.any (fun q => q.id < f.id && !q.committed && (match millFields q.op with
    | some o => o.group.toNat == gix
    | none => false))

/-- A fault before the commit point. -/
def millRefuse (s : State) (c k : Nat) (f : Fly) (cause : Nat) : State := faultFly s c k f (millRec s f cause 0 0)

/-- The first command of a step on a TREE group with FORERUNNER set raises MILL_NOT_REPLAY_SAFE (R321). -/
def noteUnsafe (s : State) (step : Nat) (g : MGroup) : State :=
  if g.ring || !g.fore then s
  else match getStep s step with
    | some t => if t.notSafe then s else raise (modStep s step (fun x => { x with notSafe := true })) 0x0E12 []
    | none => if s.notSafe0 then s else raise { s with notSafe0 := true } 0x0E12 []

/-- A Mill command at its commit point; a non-root MILL_BC begins here and commits at its first result word. -/
def millCommit (s0 : State) (c k : Nat) (f : Fly) (op : MillOp) (code : Nat) : Option State :=
  let s1 := pruneMill s0
  match millGroup s1 op.group.toNat with
  | none => some (millRefuse s1 c k f 0x70)
  | some g =>
    let s := noteUnsafe s1 f.step g
    if (runOf s c f.id).isSome || millBehind s c f op.group.toNat then none
    else if groupBad g code op then some (millRefuse s c k f 0x70)
    else if op.cseq.toNat != nextSeq s f.step g.gid then some (millRefuse s c k f 0x71)
    else if (code == 0x70 || code == 0x72) && (match getStep s f.step with
        | some t => t.cast
        | none => false) then some (millRefuse s c k f 0x76)
    else
      let needSrc := code != 0x73 || g.rank == op.root.toNat
      match (if needSrc then roleDesc s c f .hs 0 else some 0#512), roleDesc s c f .hd 0 with
      | some a, some b =>
        if s.mill.any (fun r => r.group == op.group.toNat) || s.mill.length ≥ 16 then none
        else
          let rd := if needSrc then [(gLocal (dAddr a), millBytes op.ifmt.toNat (srcLen g code op))] else []
          let wr := [(gLocal (dAddr b), millBytes op.ofmt.toNat (dstLen g code op))]
          if (needSrc && !isLocalAddr s (dAddr a)) || !isLocalAddr s (dAddr b) || !spansOk s (rd ++ wr) then
            some (faultFly s c k f (recOf s f 2 9 0 0 0 (opTile f.op)))
          else match fenceOf s f.step rd wr with
            | .fault cause x => some (faultFly s c k f (fenceRec s f cause x))
            | .cow u => cowWait s u
            | .wait => none
            | .ok =>
              match (spansPoison s rd).orElse (fun _ => edgesPoison s wr) with
              | some p => some (faultPoison s c k f 9 (keyTile f.op) p)
              | none =>
                let r : MillRun := { cell := c, fly := f.id, op := op, code := code, group := op.group.toNat, step := f.step, epoch := s.epoch,
                                     src := gLocal (dAddr a), dst := gLocal (dAddr b), hd := b, todo := todoOf g code op }
                let (s1, f1) := if needSrc then popAll s c f else (s, f)
                -- a command takes its CSEQ at its commit point (R196, R302)
                let s2 := if needSrc then bumpSeq s1 f.step g.gid else s1
                let s3 := putFly { s2 with mill := s2.mill ++ [r] } c k { f1 with committed := needSrc }
                some (flushWt (startRun s3 g r) c k f.id)
      | _, _ => none

/-! The vote and the verdict (R126-R132, R315). -/

/-- A detection record word (R312). -/
def detWord (dev cell key : Nat) : List Byte := natLe dev 2 ++ natLe cell 1 ++ natLe 0 1 ++ natLe key 4

/-- The record with the lowest device ID; 0xFFFF is none. -/
def lowestRec (l : List (Nat × Nat × Nat)) : Nat × Nat × Nat :=
  l.foldl (fun m x => if x.1 < m.1 then x else m) (0xFFFF, 0, 0)

/-- The verdict of a step arrives: the objects of Table 4-6 and the gated commands see it (R129, R132). -/
def setVerdict (s : State) (step : Nat) (pass : Bool) (vrec : Nat × Nat × Nat) : State :=
  let s1 := modStep s step (fun t => { t with verdict := some pass, vrec := vrec })
  let s2 := oset (oset s1 0x5480 1 (if pass then 1 else 2)) 0x5480 2 step
  if pass then s2 else oset (oset (oset s2 0x5480 3 vrec.1) 0x5480 4 vrec.2.2) 0x5480 5 vrec.2.1

/-- A verdict goes to the children and then to the device's own gated commands (R315). -/
def passVerdict (s : State) (step : Nat) (pass : Bool) (vrec : Nat × Nat × Nat) : State :=
  let m := jobMsg s 0x33 step (!pass) (detWord vrec.1 vrec.2.1 vrec.2.2)
  setVerdict (toKids s m (jobKids s)) step pass vrec

/-- A committed MILL_RS or MILL_AR of the step has not completed, or never will. -/
def reducing (s : State) (step : Nat) : Bool :=
  (match getStep s step with
    | some t => t.redLost
    | none => false) ||
  (List.range 64).any (fun c => (getStrm s c 3).fly.any (fun f => f.step == step && f.committed && isReduce f.op))

/-- The device's vote goes up, or rank 0 forms the verdict, once everything R315 names is in. -/
def voteAdvance (s : State) (step : Nat) : State :=
  match getStep s step with
  | none => s
  | some t =>
    if !t.cast || t.voteSent || t.kidVotes.length < (jobKids s).length || reducing s step then s
    else
      let storm := t.storm || t.kidVotes.any (fun v => v.2.1)
      let mine := match t.det with
        | some d => [(ownId s, d.1, d.2)]
        | none => []
      let vrec := lowestRec (mine ++ t.kidVotes.map (fun v => v.2.2))
      let s1 := modStep s step (fun u => { u with voteSent := true })
      if isRank0 s then passVerdict s1 step (!storm) vrec
      else toParent s1 (jobMsg s1 0x32 step storm (detWord vrec.1 vrec.2.1 vrec.2.2))

/-- When all 64 cells have issued VOTE, the device casts its vote (R128). -/
def castVote (s : State) (step : Nat) : State :=
  match getStep s step with
  | none => s
  | some t =>
    if t.cast || t.votes.length < 64 then s
    else voteAdvance (modStep s step (fun u => { u with cast := true })) step

/-- A Mill command has completed (COMMAND_COMPLETE): it leaves the Mill, and a vote may go. -/
def millLeave (s : State) (f : Fly) : State := voteAdvance (bumpPerf (pruneMill s) 0x2410 2 1) f.step

/-- Every message a command sends has been placed in a frame or handed on (R303). -/
def millSent (s : State) (r : MillRun) : Bool :=
  match millGroup s r.group with
  | none => true
  | some g =>
    let mine (m : Msg) : Bool := (m.mtype == 0x30 || m.mtype == 0x31) && mGid m == g.gid && mStep m == r.step % 2 ^ 32 && mCseq m == r.op.cseq.toNat
    s.txq.all (fun q => q.2.all (fun m => !mine m)) && s.ports.all (fun p => match p.2.txCur with
      | some m => !mine m
      | none => true)

/-! Receiving (R313, R314). -/

/-- Slots that a handled message frees are returned as credit by a Sweul port (R270). -/
def giveCredit (s : State) (key : Nat) (m : Msg) : State :=
  if key < 32 then
    let p := tget {} s.ports key
    { s with ports := tset s.ports key { p with give := tset p.give m.vc (tget 0 p.give m.vc + 1 + m.data.length) } }
  else s

/-- A message that stays keeps its slots: their credit is withheld (R313). -/
def withhold (s : State) (key : Nat) (m : Msg) : State :=
  if key < 32 then
    let p := tget {} s.ports key
    { s with ports := tset s.ports key { p with give := tset p.give m.vc (tget 0 p.give m.vc - (1 + m.data.length)) } }
  else s

/-- A message stands in its channel's buffer. -/
def putRx (s : State) (key : Nat) (m : Msg) : State :=
  let q := tget [] s.rxq key
  if q.contains m then s else { s with rxq := tset s.rxq key (q ++ [m]) }

/-- A message that was taken stays in its channel's buffer after all. -/
def stayRx (s : State) (key : Nat) (m : Msg) : State := putRx (withhold s key m) key m

/-- A message is taken out of its buffer; its slots become free. -/
def takeRx (s : State) (key : Nat) (m : Msg) : State :=
  let q := tget [] s.rxq key
  giveCredit (if q.contains m then { s with rxq := tset s.rxq key (q.erase m) } else s) key m

/-- The device has released, sealed or skipped the step a message names. -/
def stepGone (s : State) (step32 : Nat) : Bool :=
  s.released > 0 && (s.released + 2 ^ 32 - step32) % 2 ^ 32 < 2 ^ 31 && !s.steps.any (fun t => t.num % 2 ^ 32 == step32)

def staleMill (s : State) : State := raiseOnce (bumpErr s 0x2410 6 1 0x0E13) 0x0E11 s.epoch []

def findGid (s : State) (gid : Nat) : Option MGroup :=
  match s.plan with
  | some p => p.groups.find? (fun g => g.gid == gid)
  | none => none

/-- MILL_NAK to the sender of a refused message: its GID, RAIL, CSEQ and STEP, and this device's rank in the group (0 where it is in
none), storm state and epoch (R311, R313). -/
def nakMsg (s : State) (key : Nat) (m : Msg) (reason : Nat) : State :=
  let rk := match findGid s (mGid m) with
    | some g => g.rank
    | none => 0
  let storm := s.steps.any (fun t => t.num % 2 ^ 32 == mStep m && t.storm)
  enqueue s key { mtype := 0x36, vc := 4, prio := 1, part := ownPart s, src := ownId s, dst := m.src, addr := reason * 2 ^ 36,
                  spec := millSpec (mGid m) rk (if storm then 1 else 0) 0 (mRail m) (mCseq m) (mStep m) s.epoch, data := [] }

/-- What R313's first three checks and HOLDING make of a Mill message: its group entry, or it is gone. -/
inductive MillRx
  | gone (s : State)
  | wait (s : State)
  | group (g : MGroup)

def millChecks (s : State) (key : Nat) (m : Msg) : MillRx :=
  if mEpoch m < s.epoch || stepGone s (mStep m) then .gone (staleMill s)
  else if mEpoch m > s.epoch then .gone { withhold s key m with later := s.later ++ [(key, m)] }
  else if s.holding then .gone s
  else match findGid s (mGid m) with
    | none => .gone (nakMsg s key m 2)
    | some g => .group g

/-- A link entry is reached by a link key. -/
def linkIs (l : MLink) (key : Nat) : Bool := l.link != 0xFF && linkKey l == key

/-- Where the rank of a TREE neighbour is kept. -/
def rankKey (g : MGroup) (key : Nat) : Nat := g.gid * 2 ^ 18 + key

/-- Check 4 on a TREE, whose entry names no rank of a neighbour: rail 0, and the rank that this neighbour's messages name; the first one
names any rank but this device's own and another neighbour's (assumption log 117). -/
def treeRankOk (s : State) (g : MGroup) (key : Nat) (m : Msg) : Bool :=
  mRail m == 0 && mSrank m < g.size && mSrank m != g.rank &&
    (match tfind s.ranks (rankKey g key) with
     | some n => n == mSrank m
     | none => !s.ranks.any (fun e => e.1 / 2 ^ 18 == g.gid && e.2 == mSrank m))

/-- A TREE message comes from the parent. -/
def fromUp (s : State) (g : MGroup) (key : Nat) (m : Msg) : Bool :=
  linkIs g.parent key && m.src == g.parent.nid && treeRankOk s g key m

/-- A TREE message from a child: the child's place. -/
def kidIx (s : State) (g : MGroup) (key : Nat) (m : Msg) : Option Nat :=
  if treeRankOk s g key m then g.kids.findIdx? (fun l => linkIs l key && m.src == l.nid) else none

/-- A message that is used fixes its neighbour's rank, and a shadow gets it too. -/
def useMsg (s : State) (g : MGroup) (key : Nat) (m : Msg) : State :=
  teeMsg (if g.ring then s else { s with ranks := tset s.ranks (rankKey g key) (mSrank m) }) m

/-- The rank of the neighbour that a link serves, where it is known. -/
def linkRank (s : State) (g : MGroup) (key : Nat) : Option Nat :=
  if g.ring then some (if g.links.any (fun p => linkIs p.1 key) then (g.rank + 1) % g.size else (g.rank + g.size - 1) % g.size)
  else tfind s.ranks (rankKey g key)

/-- A command ends by what a neighbour or its link did; a rank that no message has named is a free value. -/
def endByLink (s : State) (g : MGroup) (key cause : Nat) (r : MillRun) : State :=
  match linkRank s g key with
  | some n => millEnd s r cause 0 n
  | none => let (n, s1) := draw s; millEnd s1 r cause 0 (n % 4096)

/-- The lane a PART comes on and whether its sender's rank is the neighbour's there. -/
def partLane (s : State) (g : MGroup) (key : Nat) (m : Msg) : Option Nat :=
  if g.ring then
    match g.links[mRail m]? with
    | some p => if linkIs p.2 key && mSrank m == (g.rank + g.size - 1) % g.size && m.src == p.2.nid then some (mRail m) else none
    | none => none
  else kidIx s g key m

def resLane (s : State) (g : MGroup) (key : Nat) (m : Msg) : Option Nat :=
  if g.ring then partLane s g key m
  else if fromUp s g key m then some 0 else none

/-- A MILL_NAK comes from a neighbour in the group: on a RING by its rail's links with that neighbour's rank, which a refusal for an
unknown GID does not carry. -/
def nakFrom (s : State) (g : MGroup) (key : Nat) (m : Msg) : Bool :=
  if g.ring then
    match g.links[mRail m]? with
    | some p =>
      (linkIs p.1 key && m.src == p.1.nid && (mSeg m == 2 || mSrank m == (g.rank + 1) % g.size)) ||
        (linkIs p.2 key && m.src == p.2.nid && (mSeg m == 2 || mSrank m == (g.rank + g.size - 1) % g.size))
    | none => false
  else (linkIs g.parent key && m.src == g.parent.nid || g.kids.any (fun l => linkIs l key && m.src == l.nid)) &&
    (mSeg m == 2 || treeRankOk s g key m)

/-- The run that a message belongs to. -/
def matchRun (s : State) (g : MGroup) (m : Msg) : Option MillRun :=
  s.mill.find? (fun r => (millGroup s r.group).map (fun x => x.gid) == some g.gid && r.step % 2 ^ 32 == mStep m &&
    r.op.cseq.toNat == mCseq m && r.epoch == s.epoch && liveRun s r)

/-- A mismatch: the NAK, and the end of the command here (R314). -/
def mismatch (s : State) (key : Nat) (m : Msg) (r : Option MillRun) : State :=
  let s1 := nakMsg s key m 1
  match r with
  | some r => millEnd s1 r 0x72 (mSeg m) (mSrank m)
  | none => s1

/-- MILL_PART's form against its command. -/
def partFits (g : MGroup) (r : MillRun) (lane n : Nat) (m : Msg) : Bool :=
  let seg := mSeg m
  let key := if g.ring then 64 * seg + lane else lane
  let off := tget 0 r.prog (64 * seg + (if g.ring then lane else 0)) + (tget [] r.recv key).length
  let fmtOk := if g.ring then mWfmt m == (if mSrank m == (seg + 1) % g.size then r.op.ifmt.toNat else sumFmt r.op)
    else mWfmt m == r.op.ifmt.toNat || mWfmt m == sumFmt r.op
  (r.code == 0x70 || r.code == 0x72) && fmtOk && (if g.ring then seg < g.size && seg != (g.rank + g.size - 1) % g.size else seg == 0) &&
    offOf (mWfmt m) (mWidx m) == off && off + n ≤ partLen g r.op && (mFinal m == (off + n == partLen g r.op)) && n > 0

/-- Elements of a message, cut at the end of its part. -/
def msgEls (g : MGroup) (r : MillRun) (m : Msg) : List MEl :=
  (millEls (mWfmt m) m.data).take (partLen g r.op - offOf (mWfmt m) (mWidx m))

def stormIn (s : State) (r : MillRun) (m : Msg) : State :=
  if mStorm m then modStep s r.step (fun t => { t with storm := true }) else s

/-- MILL_PART: the partial joins the own contribution and is passed on (R304, R305). -/
def millPart (s0 : State) (key : Nat) (m : Msg) : State :=
  let s := takeRx s0 key m
  match millChecks s key m with
  | .gone s1 => s1
  | .wait s1 => s1
  | .group g =>
    match matchRun s g m with
    | none => if (partLane s g key m).isNone then nakMsg s key m 1 else stayRx s key m
    | some r =>
      match partLane s g key m with
      | none => mismatch s key m (some r)
      | some lane =>
        let els := msgEls g r m
        if !partFits g r lane els.length m then mismatch s key m (some r)
        else
          let k := if g.ring then 64 * mSeg m + lane else lane
          let r1 := { r with recv := tset r.recv k (tget [] r.recv k ++ els) }
          let rail := if g.ring then lane else 0
          flushWt (pump g (mSeg m) rail r.cell r.fly (els.length + 1) (putRun (stormIn (useMsg s g key m) r m) r1)) r.cell 3 r.fly

/-- MILL_RES's form against its command. -/
def resFits (g : MGroup) (r : MillRun) (rail n : Nat) (m : Msg) : Bool :=
  let seg := mSeg m
  let off := tget 0 r.res (64 * seg + rail)
  (r.code == 0x71 || r.code == 0x72 || r.code == 0x73) && mWfmt m == r.op.ofmt.toNat &&
    (if g.ring && r.code != 0x73 then seg < g.size && seg != g.rank else seg == 0) &&
    !(r.code == 0x73 && g.rank == r.op.root.toNat) &&
    offOf (mWfmt m) (mWidx m) == off && off + n ≤ partLen g r.op && (mFinal m == (off + n == partLen g r.op)) && n > 0

/-- Links a result goes on by. -/
def resLinks (g : MGroup) (r : MillRun) (seg rail : Nat) : List MLink :=
  if g.ring then
    let origin := if r.code == 0x73 then r.op.root.toNat else seg
    if (g.rank + 1) % g.size == origin then [] else nextLink g rail
  else g.kids

/-- MILL_RES: the result is written and passed on (R307). -/
def millRes (s0 : State) (key : Nat) (m : Msg) : State :=
  let s := takeRx s0 key m
  match millChecks s key m with
  | .gone s1 => s1
  | .wait s1 => s1
  | .group g =>
    match matchRun s g m with
    | none => if (resLane s g key m).isNone then nakMsg s key m 1 else stayRx s key m
    | some r =>
      match resLane s g key m with
      | none => mismatch s key m (some r)
      | some rail =>
        let els := msgEls g r m
        if !resFits g r rail els.length m then mismatch s key m (some r)
        else
          let seg := mSeg m
          let off := tget 0 r.res (64 * seg + rail)
          let s1 := stormIn (useMsg s g key m) r m
          -- a non-root MILL_BC commits when its first result word is written
          let s2 := match runFly s1 r with
            | some f => if f.committed then s1 else
                let (sp, fp) := popAll s1 r.cell f
                putFly (bumpSeq sp r.step g.gid) r.cell 3 { fp with committed := true }
            | none => s1
          let r1 := { r with res := tset r.res (64 * seg + rail) (off + els.length) }
          let s3 := writeOut (putRun s2 r1) g r1 seg rail off els
          let s4 := sendEls s3 g r1 (resLinks g r1 seg rail) 0x31 seg rail r1.op.ofmt.toNat off (partLen g r1.op) els
          flushWt (took s4 r1 els.length) r.cell 3 r.fly

/-- MILL_NAK, checked as every message, ends the matching command on the sender; one for an ended command is counted (R313, R314). -/
def millNak (s0 : State) (key : Nat) (m : Msg) : State :=
  let s := takeRx s0 key m
  match millChecks s key m with
  | .gone s1 => s1
  | .wait s1 => s1
  | .group g =>
    if !nakFrom s g key m then nakMsg s key m 1
    else match matchRun s g m with
      | some r => if mSeg m == 2 then endByLink (teeMsg s m) g key 0x72 r else millEnd (useMsg s g key m) r 0x72 0 (mSrank m)
      | none => bumpErr s 0x2410 6 1 0x0E13

/-- MILL_VOTE: a child's vote is in (R315). -/
def millVote (s0 : State) (key : Nat) (m : Msg) : State :=
  let s := takeRx s0 key m
  match millChecks s key m with
  | .gone s1 => s1
  | .wait s1 => s1
  | .group g =>
    match kidIx s g key m with
    | none => nakMsg s key m 1
    | some i =>
      match s.steps.find? (fun t => t.num % 2 ^ 32 == mStep m && t.isOpen) with
      | none => stayRx s key m
      | some t =>
        if t.kidVotes.any (fun v => v.1 == i) then s
        else
          let v := (i, mStorm m, mLe m 0 2, mByte m 2, mLe m 4 4)
          voteAdvance (modStep (useMsg s g key m) t.num (fun u => { u with kidVotes := u.kidVotes ++ [v] })) t.num

/-- MILL_VERDICT: forwarded to the children and delivered (R315). -/
def millVerdict (s0 : State) (key : Nat) (m : Msg) : State :=
  let s := takeRx s0 key m
  match millChecks s key m with
  | .gone s1 => s1
  | .wait s1 => s1
  | .group g =>
    if !fromUp s g key m then nakMsg s key m 1
    else match s.steps.find? (fun t => t.num % 2 ^ 32 == mStep m && t.isOpen) with
      | none => stayRx s key m
      | some t => if t.verdict.isSome then s else passVerdict (useMsg s g key m) t.num (!mStorm m) (mLe m 0 2, mByte m 2, mLe m 4 4)

/-- MILL_TIMEOUT: the running command of a group neither sent nor received a word for the Mill timeout. -/
def millTimeout (s : State) (group : Nat) : State :=
  match s.mill.find? (fun r => r.group == group && liveRun s r) with
  | none => s
  | some r => millEnd s r 0x73 0 0

/-- A link goes DOWN or its peer is lost: every running command of its groups ends (R319). A TREE's entries name no rank of a
neighbour: the record has the one that its messages of the command named, or a free value (assumption log 117). -/
def millLinkDown (s : State) (key : Nat) : State :=
  (s.mill.filter (fun r => match millGroup s r.group with
    | some g => g.links.any (fun p => linkIs p.1 key || linkIs p.2 key) || linkIs g.parent key || g.kids.any (fun l => linkIs l key)
    | none => false)).foldl (fun s r =>
      match millGroup s r.group with
      | some g => endByLink s g key 0x74 r
      | none => millEnd s r 0x74 0 0) s

/-- R320: a rollback drops the commands of the replayed steps that are in flight in the C streams: what the Mill runs, and what
waits for it. -/
def dropMillCmds (s : State) (which : Nat → Bool) : State :=
  (List.range 64).foldl (fun s c =>
    let gone := (getStrm s c 3).fly.filter (fun f => isMill f.op && which f.step)
    gone.foldl (fun s f =>
      modStrm (releaseAcc s c false f.acc) c 3 (fun x => { x with fly := x.fly.filter (fun q => q.id ≠ f.id) })) s) s

/-- A message that waits to leave belongs to a command, a vote or a partial seal of a replayed step. A FAULT and a decision stay. -/
def millUnsent (which : Nat → Bool) (steps : List Nat) (m : Msg) : Bool :=
  0x30 ≤ m.mtype && m.mtype ≤ 0x34 && (m.mtype != 0x34 || mByte m 0 == 1) && steps.any (fun n => which n && n % 2 ^ 32 == mStep m)

/-- R320: the Mill drops the commands of the replayed steps, what it would still send for them, and the messages of an older epoch
that wait, in a device that will hold those of its epoch too (R345); their slots become free. -/
def dropMill (s0 : State) (hold : Bool) (which : Nat → Bool) : State :=
  let s := dropMillCmds s0 which
  let gone (m : Msg) : Bool := 0x30 ≤ m.mtype && m.mtype < 0x40 && mEpoch m < s.epoch + (if hold then 1 else 0)
  let s1 := s.rxq.foldl (fun s q => (q.2.filter gone).foldl (fun s m => giveCredit s q.1 m) s) s
  let ns := s.steps.map (fun t => t.num)
  { s1 with
    mill := s1.mill.filter (fun r => !which r.step)
    rxq := s1.rxq.map (fun q => (q.1, q.2.filter (fun m => !gone m)))
    txq := s1.txq.map (fun q => (q.1, q.2.filter (fun m => !millUnsent which ns m))) }

end Sys2Proof.Machine
end

