-- ==== Sys2Proof/Machine/Ports.lean ====
section
/-! DEFINITION. Sweul ports (R257-R262, R281-R287, R428): states, going down, training, lanes, the hello exchange and
the entry into the plan. -/
namespace Sys2Proof.Machine

/-- Index of a port's objects (Table 9-18). -/
def setPortState (s : State) (p v : Nat) : State := oset s (portIdx p) 2 v

def getPort (s : State) (p : Nat) : Port := tget {} s.ports p

def setPort (s : State) (p : Nat) (x : Port) : State := { s with ports := tset s.ports p x }

def modPort (s : State) (p : Nat) (f : Port → Port) : State := setPort s p (f (getPort s p))

/-- The plan's entry of a port. -/
def planPort (s : State) (p : Nat) : PlanPort :=
  match s.plan with
  | some q => q.ports.getD p {}
  | none => {}

def usedPort (s : State) (p : Nat) : Bool := s.plan.isSome && (planPort s p).used

/-- A step is open. -/
def stepOpen (s : State) : Bool := s.steps.any (fun t => t.isOpen)

/-- A link fault of an open step (R273, R287): reason 3. -/
def linkFault (s : State) : State := if stepOpen s then faultUp s 3 else s

/-- The device enters the plan once every used port is ACTIVE (R286). Discovery has found its result once no used port is still
training or exchanging HELLOs (Table 9-20). -/
def enterPlan (s : State) : State :=
  if s.plan.isNone then s
  else
    let all (f : Nat → Bool) : Bool := (List.range 32).all (fun p => !usedPort s p || f (portState s p))
    { s with inPlan := s.inPlan || all (fun v => v == 3), found := s.found || all (fun v => v != 1 && v != 2) }

/-- Writes of a transfer spread evenly over its ports (R366). -/
def xferSpread (ports : List Nat) (ms : List Msg) : List Stall :=
  ms.zipIdx.map (fun q => { port := ports.getD (q.2 % ports.length) 0, dest := 0, kind := 3, msg := q.1 })

/-- A transfer's writes that a lost port carried, or that wait for it, go on the remaining TRANSFER ports; when none remains, the
transfer stops (R366). -/
def xferResend (s : State) (p : Nat) (lost : List Msg) : State :=
  match s.rcv.xfer with
  | none => s
  | some x =>
    let rest := x.ports.filter (fun q => q ≠ p)
    if rest.isEmpty then { s with rcv := { s.rcv with xfer := none }, scrQ := s.scrQ.filter (fun w => w.kind ≠ 3) }
    else
      let here (w : Stall) : Bool := w.kind == 3 && w.port == p
      let s1 := { s with rcv := { s.rcv with xfer := some { x with ports := rest } }, scrQ := s.scrQ.filter (fun w => !here w) }
      sendScr s1 (xferSpread rest (lost ++ (s.scrQ.filter here).map (fun w => w.msg)))

/-- The repair of a unit has failed (R369, R115): a device fault; the device does not resume (Table 12-1). -/
def repairFailed (s : State) (u : Nat) : State :=
  match s.roll with
  | none => s
  | some r =>
    if !r.units.contains u then s
    else
      let asked := match r.asked with
        | some (v, n) => if v == u then none else some (v, n)
        | none => none
      let s1 := { s with roll := some { r with failed := true, hold := true, asked := asked, units := r.units.filter (fun v => v ≠ u) } }
      faultUp (raise (raise s1 0x0F14 []) 0x0F10 []) 2

/-- The unit that an answer to a repair's READ belongs to. -/
def repairUnit (t : Trk) : Nat := t.dest / 0x200000 * 0x200000

/-- Every tracker entry whose message left by a port ends with LINK_DOWN (R281). -/
def portLost (s : State) (p : Nat) : State :=
  let mine := s.trk.filter (fun e => e.2.port == p)
  let again := (mine.filter (fun e => e.2.kind == 3)).map (fun e => e.2.msg)
  let s1 := mine.foldl (fun s e =>
    if tfind s.trk e.1 != some e.2 then s
    else if e.2.kind == 3 then retireTrk s e.1 else trkFail s e.1 e.2 0x62) s
  let s2 := match mine.find? (fun e => e.2.kind == 4) with
    | some e => repairFailed s1 (repairUnit e.2)
    | none => s1
  xferResend s2 p again

/-- A port's keys are about to go. Groups received under them that it has not verified never will be: a step that is not COMPUTED and
still needs one does not become COMPUTED before it is rolled back (R273, assumption log 126). -/
def dropRxGroups (s : State) (p : Nat) : State :=
  let x := getPort s p
  let need (t : StepSt) : Nat := match t.rxNeed with
    | some l => tget 0 l p
    | none => x.rxCount
  if x.keyRx.isEmpty then s
  else { s with steps := s.steps.map (fun t =>
    if t.isOpen && !t.computed then
      { t with unver := t.unver || decide (128 * x.verified < need t), rxNeed := t.rxNeed.map (fun l => tdel l p) } else t) }

/-- A port goes DOWN (R261): its event, the end of what left by it, and the Mill's commands on it; discovery may have its result
then (R286). -/
def portDown (s0 : State) (p : Nat) : State :=
  if portState s0 p == 0 then s0
  else
    let s := dropRxGroups s0 p
    let s1 := oset (oset (setPortState s p 0) (portIdx p) 3 0) (portIdx p) 4 0
    let s2 := modPort s1 p (fun x => { x with unack := [], replay := 0, txWords := [], txCur := none, rxWords := [], rxHello := [],
                                              cred := [], give := [], keyTx := [], keyRx := [], helloIn := false, helloOut := false,
                                              suspect := [], corr := [], quietTrain := false, carries := false })
    let s3 := raise (enterPlan { s2 with txq := tset s2.txq p [] }) 0x0D10 []
    millLinkDown (portLost s3 p) p

/-- Training begins: the generations allowed are those that sub-index 01 holds now (R294). -/
def startTrain (s : State) (p : Nat) : State :=
  setPortState (modPort s p (fun x => { x with gens := oget s (portIdx p) 1 })) p 1

/-- The port has been trained and still sees its neighbour: its cable is present and signal is there (R512, R536). -/
def linked (s : State) (p : Nat) : Bool :=
  let x := getPort s p
  portState s p != 0 && x.pres && x.signal && !x.cred.isEmpty

/-- Full training: what an earlier one agreed is gone (R259, R270). -/
def fullTrain (s : State) (p : Nat) : State := startTrain (modPort s p (fun x => { x with cred := [] })) p

/-- A retrain, fast or full, of a port that may train: counted, and followed by a new hello exchange (R259). A quarantined port shows
QUARANTINE throughout (R287, assumption log 114). Suspect lanes stay so until the seal (R260). -/
def retrain (s : State) (p : Nat) : State :=
  if portState s p == 0 || !(getPort s p).pres then s
  else
    let s0 := if portState s p == 5 then modPort s p (fun x => { x with quietTrain := true }) else startTrain s p
    modPort (baroAdd (bumpErr s0 (portIdx p) 0x0D 1 0x0D1A) 3 1) p (fun x =>
      { x with helloIn := false, helloOut := false, nakDue := false, nakSent := false, replay := x.unack.length, badRun := 0, rxHello := [] })

/-- A physical lane goes out of service (R260): it is suspect no more. -/
def spareLane (s : State) (p lane : Nat) : State :=
  if oget s (portIdx p) 5 != 0xFF then portDown (raise s 0x0D12 []) p
  else
    let s1 := modPort s p (fun x => { x with suspect := x.suspect.filter (fun l => l ≠ lane) })
    retrain (baroAdd (raise (oset s1 (portIdx p) 5 lane) 0x0D11 []) 4 1) p

/-! The hello exchange (R283, R284, R428). -/

/-- Bytes 0-143 of a HELLO of a port with its ephemeral key. -/
def helloBody (s : State) (p eph : Nat) : List Byte :=
  let pl := match s.plan with
    | some q => (1, q.dev, q.part, q.planId)
    | none => (0, 0, 0, 0)
  natLe 1 1 ++ natLe p 1 ++ natLe (getPort s p).gens 1 ++ natLe pl.1 1 ++ natLe pl.2.1 2 ++ natLe pl.2.2.1 2 ++
    natLe pl.2.2.2 8 ++ idKey s ++ p256Pub eph

/-- A port's HELLO message of its 224 bytes (Table 9-8): the sender's IDs with a plan in force. -/
def helloMsg (s : State) (p : Nat) (bs : List Byte) : Msg :=
  { mtype := 0x20, vc := 5, part := ownPart s, src := ownId s, dst := (planPort s p).nid, data := (List.range 7).map (fun i => dword (lslice bs (32 * i) 32)) }

/-- Puts a message of this port's HELLO behind what waits there, once. -/
def queueHello (s : State) (p : Nat) (bs : List Byte) : State :=
  if (tget [] s.txq p).any (fun m => m.mtype == 0x20) then s else enqueue s p (helloMsg s p bs)

/-- Sends a new HELLO with a fresh ephemeral key of the DRBG, signed with IDK. -/
def sendHello (s : State) (p : Nat) : State :=
  let (eph, s1) := drbgKey s
  let body := helloBody s1 p eph
  let (sig, s2) := idkSign s1 body
  let bs := body ++ sig ++ List.replicate 16 0#8
  let s3 := modPort s2 p (fun x => { x with hello := { x.hello with eph := eph, mine := bs }, helloOut := true, helloEnd := false })
  queueHello { s3 with txq := tset s3.txq p ((tget [] s3.txq p).filter (fun m => m.mtype ≠ 0x20)) } p bs

/-- HELLO_RESEND: every 1 ms until the far end's HELLO has come, for up to 100 ms (R284). -/
def helloResend (s : State) (p : Nat) : State :=
  let x := getPort s p
  if x.helloOut && !x.helloIn && !x.helloEnd && portState s p != 0 then queueHello s p x.hello.mine else s

/-- A byte string as an unsigned number, byte 0 most significant. -/
def digestNum (bs : List Byte) : Nat := beNat bs

/-- R428: the keys of the two directions, own sending key first; none when the far key is no point of the curve. -/
def linkKeys (p : Nat) (mine far : List Byte) (eph : Nat) : Option (List Byte × List Byte) :=
  (ecdh eph (lslice far 80 64)).map (fun z =>
    let dm := digestNum (sha256 (lslice mine 16 64))
    let df := digestNum (sha256 (lslice far 16 64))
    let low := if dm == df then decide (p < (far.getD 1 0#8).toNat) else decide (dm < df)
    let salt := sha256 (if low then mine.take 144 ++ far.take 144 else far.take 144 ++ mine.take 144)
    let okm := hkdf salt z (ascii "RLM4-SWEUL-LINK") 64
    if low then (okm.take 32, okm.drop 32) else (okm.drop 32, okm.take 32))

/-- A frame body that carries a HELLO: its first slot is a message header of that type. -/
def helloFrame (body : List Byte) : Bool := leNat (body.take 12) / 2 ^ 26 % 2 == 1 && body.getD 12 0#8 == 0x20#8

/-- The same frame without messages: its SEQ and ACK, every slot zero. -/
def idleBody (body : List Byte) : List Byte :=
  let b := natLe (leNat (body.take 12) % 2 ^ 24) 12 ++ List.replicate 900 0#8
  b ++ natLe (crc32 b) 4

/-- A port that ends in QUARANTINE or ABSENT carries no message (R262): a message under way ends, and the frames that it would send
again carry HELLOs alone (assumption log 127). -/
def muzzle (s : State) (p : Nat) : State :=
  modPort s p (fun x => { x with carries := false, txWords := [], txCur := none, rxWords := [],
                                 unack := x.unack.map (fun f => if helloFrame f.body then f else ({ f with body := idleBody f.body } : TxFrame)) })

/-- A port is quarantined with a reason: 1 EXTRA, 2 WRONG, 3 FOREIGN, 4 AUTH. -/
def quarantine (s : State) (p reason : Nat) : State :=
  raise (oset (setPortState (muzzle s p) p 5) (portIdx p) 4 reason) 0x0D15 []

/-- A used port finds nobody (Table 9-13). -/
def markAbsent (s : State) (p : Nat) : State := raise (setPortState (muzzle s p) p 4) 0x0D16 []

/-- What a port does with a HELLO under a plan (Table 9-13). A neighbour that has no plan names PARTITION and PLAN_ID 0, which are not
the plan's: it does not match. `ok`: the exchange has formed keys. -/
def planOutcome (s : State) (q : Plan) (p : Nat) (bs : List Byte) (ok : Bool) : State :=
  let e := q.ports.getD p {}
  let gen := oget s (portIdx p) 3
  let dev := leNat (lslice bs 4 2)
  let part := leNat (lslice bs 6 2)
  let plan := leNat (lslice bs 8 8)
  if !e.used then quarantine s p 1
  else if gen < e.gen then markAbsent s p
  else if part != q.part || plan != q.planId then quarantine s p 3
  else if dev != e.nid || (bs.getD 1 0#8).toNat != e.nport || sha256 (lslice bs 16 64) != e.ndigest || gen != e.gen then
    quarantine s p 2
  else
    if !ok then quarantine s p 4 else setPortState (modPort s p (fun x => { x with carries := true })) p 3

/-- A HELLO's form (R5): version, flag bits, and reserved bytes. -/
def helloBad (bs : List Byte) : Bool :=
  bs.length != 224 || (bs.getD 0 0#8) != 1#8 || (bs.getD 1 0#8).toNat > 31 || (bs.getD 2 0#8).toNat > 7 || (bs.getD 3 0#8).toNat > 1 ||
    (lslice bs 208 16).any (fun b => b != 0#8)

/-- A port's neighbour is checked against the plan, where there is one (R284-R286). -/
def judge (s : State) (p : Nat) (bs : List Byte) (ok : Bool) : State :=
  match s.plan with
  | none => setPortState s p 2
  | some q => enterPlan (planOutcome s q p bs ok)

/-- The exchange ends: the port's keys are set, its frames are counted anew, and the ephemeral private key is erased (R272, R428); none
where the far key is no point of the curve. -/
def formKeys (s : State) (p : Nat) (far : List Byte) : State × Bool :=
  let x := getPort s p
  let done (y : Port) : Port := { y with hello := { y.hello with eph := 0 } }
  match linkKeys p x.hello.mine far x.hello.eph with
  | none => (setPort s p (done x), false)
  | some (kt, kr) =>
    (setPort (dropRxGroups s p) p (done { x with keyTx := kt, keyRx := kr, txCount := 0, rxCount := 0, txGrp := [], txPrev := [],
                                                 rxGrp := [], rxPrev := [], verified := 0 }), true)

/-- HELLO: the far end's words have come (R284, R285). One that has come before is a resend and changes nothing; another one, after an
exchange, begins a new exchange, and the port answers it with a HELLO of its own (assumption log 35). A quarantined port ends its
exchange and stays so (R287). A used port of a device in its plan that does not match faults the open step. -/
def helloRx (s0 : State) (p : Nat) (bs : List Byte) : State :=
  let s := giveCredit { s0 with rxq := tset s0.rxq p ((tget [] s0.rxq p).filter (fun m => m.mtype ≠ 0x20)) } p (helloMsg s0 p bs)
  let watch (t : State) : State := if s.inPlan && usedPort t p && portState t p != 3 then linkFault t else t
  if portState s p == 0 || !(getPort s p).helloOut then s
  else if (getPort s p).helloIn && (getPort s p).hello.far == bs then s
  else if helloBad bs then bumpErr s (portIdx p) 0x0F 1 0x0D1A
  else if !ecdsaOk (lslice bs 16 64) (bs.take 144) (lslice bs 144 64) then
    (let s1 := logRefusal s 5 4 p
     if portState s p == 5 then s1 else watch (enterPlan (quarantine s1 p 4)))
  else
    let s1 := oset (oset (oset s (portIdx p) 6 (leNat (lslice bs 4 2))) (portIdx p) 7 (bs.getD 1 0#8).toNat) (portIdx p) 8
      (leNat (lslice bs 8 8))
    let again := (getPort s p).helloIn
    let s2 := modPort s1 p (fun x => { x with helloIn := true, hello := { x.hello with far := bs, digest := sha256 (lslice bs 16 64) } })
    let (s3, ok) := formKeys (if again then sendHello s2 p else s2) p bs
    if portState s p == 5 then s3 else watch (judge s3 p bs ok)

/-- HELLO_TIMEOUT: 100 ms without the far end's HELLO: it is resent no more, and a used port is ABSENT (R284, R285). -/
def helloTimeout (s : State) (p : Nat) : State :=
  let x := getPort s p
  if !x.helloOut || x.helloIn || portState s p == 0 then s
  else
    let s0 := modPort s p (fun x => { x with helloEnd := true })
    if !usedPort s p || portState s p == 4 || portState s p == 5 then s0
    else
      let s1 := enterPlan (markAbsent s0 p)
      if s.inPlan then linkFault s1 else s1

/-- Discovery begins on a port (R285, R287, R288): a new exchange where it is trained; where no neighbour is seen, its outcome at
once. A quarantined port that trains goes on as a port that trains. -/
def discover (s : State) (p : Nat) : State :=
  let s1 := oset (modPort s p (fun x => { x with helloIn := false, quietTrain := false, carries := false })) (portIdx p) 4 0
  if portState s p == 1 then s1
  else if !linked s p then (if usedPort s1 p then markAbsent s1 p else setPortState s1 p 0)
  else if (getPort s p).quietTrain then startTrain s1 p
  else sendHello (setPortState s1 p 2) p

def discoverAll (s : State) : State := enterPlan ((List.range 32).foldl discover { s with found := false })

/-! Training (R259, R536). -/

/-- PORT_SIGNAL_DETECT: signal on all lanes of a DOWN (or ABSENT) port whose presence pin is low; full training begins. -/
def portSignal (s : State) (p : Nat) : State :=
  let s1 := modPort s p (fun x => { x with signal := true })
  if (getPort s p).pres && (portState s p == 0 || portState s p == 4) then fullTrain s1 p else s1

/-- The receive buffers of Table 9-7, granted as credit at full training (R270). -/
def fullCredit : Tab Nat := [(0, 8192), (1, 2048), (2, 4096), (3, 1024), (4, 8192), (5, 256)]

/-- A port's role allows a generation (Table 9-1): ports 28-31 every one, the others not Sweul-1. -/
def genAllowed (p gen : Nat) : Bool := p ≥ 28 || gen ≥ 2

/-- A generation at which the port can train: allowed by its role and by its object (R259). -/
def mayTrainAt (s : State) (p gen : Nat) : Bool :=
  1 ≤ gen && gen ≤ 3 && genAllowed p gen && (getPort s p).gens / 2 ^ (gen - 1) % 2 == 1

/-- PORT_TRAINED: training has ended, at a generation with a measured round trip, or has failed. It cannot have ended at a generation
that is not allowed: such a report changes nothing. A first training starts the sequence numbers and credits; a fast retrain keeps
them and the generation, changes the lane map or the alignment alone, and replays (R259, R268-R270). -/
def portTrained (s : State) (p gen rtt tx : Nat) (ok : Bool) : State :=
  let quiet := portState s p == 5 && (getPort s p).quietTrain
  if portState s p != 1 && !quiet then s
  else if !ok then portDown s p
  else if !mayTrainAt s p gen then s
  else
    let full := (getPort s p).cred.isEmpty
    let s1 := if full then oset s (portIdx p) 3 gen else s
    let s2 := modPort s1 p (fun x =>
      if full then { x with rtt := rtt, spareTx := tx % 8, txSeq := 0, rxSeq := 0, unack := [], replay := 0, resent := 0, cred := fullCredit, give := [] }
      else { x with rtt := rtt, spareTx := tx % 8, quietTrain := false })
    sendHello (if quiet then s2 else setPortState s2 p 2) p

/-- PORT_LOS: signal is lost on all lanes (R261). -/
def portLos (s : State) (p : Nat) : State := portDown (modPort s p (fun x => { x with signal := false })) p

/-- LANE_SIGNAL_LOSS: one physical lane loses signal (R260); a lane that carries no logical lane has none to move (assumption log 39). -/
def laneLoss (s : State) (p lane : Nat) : State :=
  let out := oget s (portIdx p) 5
  if !linked s p || out == lane || (lane == 4 && out == 0xFF) then s else spareLane s p lane

/-- PORT_PRES_HIGH: the module is gone (R261, R536). -/
def presHigh (s : State) (p : Nat) : State := portDown (modPort s p (fun x => { x with pres := false })) p

/-- PORT_PRES_LOW: held low for 10 ms, the port may train (R536). -/
def presLow (s : State) (p : Nat) : State :=
  let s1 := modPort s p (fun x => { x with pres := true })
  if (getPort s p).signal && (portState s p == 0 || portState s p == 4) then fullTrain s1 p else s1

end Sys2Proof.Machine
end

