-- ==== Sys2Proof/Machine/Links.lean ====
section
/-! DEFINITION. Frames on the Sweul links (R263-R274): building and sending, receiving, correction, retry, credits, link tags
and the words of messages. -/
namespace Sys2Proof.Machine

/-! Message headers (Table 9-8) and words. -/

/-- A message's header as its 32 bytes. -/
def hdrWord (m : Msg) : List Byte :=
  natLe (m.mtype % 256 + 2 ^ 8 * (m.vc % 8) + 2 ^ 11 * (m.prio % 4) + 2 ^ 13 * (m.data.length % 32) + 2 ^ 18 * (m.par % 2) +
    2 ^ 19 * (m.hops % 32) + 2 ^ 32 * (m.part % 2 ^ 16) + 2 ^ 48 * (m.src % 2 ^ 16) + 2 ^ 64 * (m.dst % 2 ^ 16) +
    2 ^ 80 * (m.trk % 2 ^ 13) + 2 ^ 93 * (m.tgen % 8) + 2 ^ 96 * (m.addr % 2 ^ 48) + 2 ^ 144 * (m.spec % 2 ^ 112)) 32

/-- LEN of a header word. -/
def hdrLen (bs : List Byte) : Nat := leNat bs / 2 ^ 13 % 32

/-- The channel on which a type travels (Table 9-9): 0 requests, 2 responses, 4 MILL, 5 CONTROL; none: not listed. -/
def mtypeVc (t : Nat) : Option Nat :=
  if t ∈ [1, 2, 3, 4] then some 0
  else if t ∈ [8, 9, 10, 11] then some 2
  else if 0x30 ≤ t && t ≤ 0x36 then some 4
  else if t == 0x20 || t == 0x28 || t == 0x50 || (0x51 ≤ t && t ≤ 0x58) then some 5 else none

/-- Data words that a type may carry (Tables 9-9, 10-8, 12-5). -/
def mtypeLen (t n : Nat) : Bool :=
  if t == 1 || t == 9 || t == 0x55 then 1 ≤ n && n ≤ 16
  else if t == 3 then n ≤ 16
  else if t == 0x20 then n == 7
  else if t == 0x28 then n == 4
  else if t == 0x30 || t == 0x31 then 1 ≤ n && n ≤ 16
  else if t == 0x32 || t == 0x33 then n == 1
  else if t == 0x34 || t == 0x35 then n == 1
  else if t == 0x50 || t == 0x53 || t == 0x54 || t == 0x56 || t == 0x58 then n == 1
  else n == 0

/-- Type-specific bits that a type uses, as a mask over bits [255:144]: Table 9-9; Table 10-7 for the Mill's; GID, SRANK, STEP and EPOCH
of it for the Ledger's and recovery's (R337, Table 12-5), 0x55's own fields beside. -/
def specMask (t : Nat) : Nat :=
  let mill := 2 ^ 112 - 1
  let job := 2 ^ 28 - 1 + (2 ^ 64 - 1) * 2 ^ 48
  match t with
  | 1 => 0
  | 2 => 2 ^ 5 - 1
  | 3 => 2 ^ 22 - 1
  | 4 => 2 ^ 80 - 1
  | 8 => 2 ^ 73 - 1
  | 9 | 10 | 11 => 2 ^ 8 - 1
  | 0x20 => 0
  | 0x28 => 2 ^ 38 - 1
  | 0x50 | 0x51 | 0x52 | 0x53 | 0x54 | 0x56 | 0x57 | 0x58 => job
  | _ => mill

/-- Bits of a message's first data word that its type uses, by (first bit, number of bits): the others are zero (R312, R337, Table 11-5,
Table 12-5, R275). A SEAL_UP has two bits in byte 1; a SEAL_DOWN's epoch stands in bytes 8-11 of a ROLLBACK or HOLD alone. -/
def dataMask (m : Msg) (w : List Byte) : List (Nat × Nat) :=
  match m.mtype with
  | 0x32 | 0x33 => [(0, 24), (32, 32)]
  | 0x34 => [(0, 10), (16, 24), (96, 128)]
  | 0x35 => [(0, 8), (16, 24), (96, 128)] ++ (if w.getD 0 0#8 == 3#8 || w.getD 0 0#8 == 4#8 then [(64, 32)] else [])
  | 0x50 | 0x56 => [(0, 128)]
  | 0x53 | 0x54 => [(0, 8), (16, 16)]
  | 0x58 => [(0, 64)]
  | 3 => if m.spec % 16 == 8 || m.spec % 16 == 9 then [(0, 128)] else [(0, 256)]
  | _ => [(0, 256)]

/-- A bit that must be zero is set in the first data word. -/
def dataBad (m : Msg) : Bool :=
  match m.data with
  | w :: _ =>
    let keep := ((dataMask m w.bytes).map (fun r => (2 ^ r.2 - 1) * 2 ^ r.1)).sum
    !w.poison && leNat w.bytes &&& keep != leNat w.bytes
  | [] => false

/-- A word of a message is malformed as a header (R274), or its data words where a reserved byte is set (R5). An ATOMIC's ADDR has the
alignment of its operation, which is checked later (R241, R276); a Mill message has no HOPS, TRK and TGEN (R311). DESIGN CHOICE: an
ADDR that is not 32-byte aligned, against Table 9-8, makes a message malformed too; R274's list does not name it (assumption log 128). -/
def hdrBad (m : Msg) (res : Nat) : Bool :=
  res != 0 || m.addr % 32 != 0 && m.mtype != 3 && (mtypeVc m.mtype != some 4) || dataBad m ||
    (mtypeVc m.mtype == some 4 && (m.hops != 0 || m.trk != 0 || m.tgen != 0)) || m.spec &&& specMask m.mtype != m.spec ||
    (match mtypeVc m.mtype with
     | none => true
     | some 0 => m.vc > 1
     | some 2 => m.vc != 2 && m.vc != 3
     | some v => m.vc != v) ||
    !mtypeLen m.mtype m.data.length || (m.mtype != 4 && m.par != 0)

/-- The message of a header word and its data words as they came; a poisoned header word is malformed. -/
def parseMsg (bs : List Byte) (ws : List DWord) (poison : Bool) : Msg :=
  let v := leNat bs
  let f (i n : Nat) : Nat := v / 2 ^ i % 2 ^ n
  let m : Msg := { mtype := f 0 8, vc := f 8 3, prio := f 11 2, par := f 18 1, hops := f 19 5, part := f 32 16, src := f 48 16,
                   dst := f 64 16, trk := f 80 13, tgen := f 93 3, addr := f 96 48, spec := f 144 112, data := ws }
  { m with bad := hdrBad { m with data := ws.map decoded } (f 24 8) || ws.length != f 13 5 || poison }

/-! Words with their check symbols (R247, R263, R267). -/

/-- A slot for a word, with its check symbols as they are: a word that is found uncorrectable here goes out poisoned and is counted
(R248, R267). The check symbols of a word that was poisoned in memory are free where the model has not seen them (assumption log 41). -/
def wireSlot (s : State) (p : Nat) (w : DWord) (hdr : Bool) : FSlot × State :=
  let b := (w.bytes ++ List.replicate 32 0#8).take 32
  if !w.chk.isEmpty then
    ({ bytes := b ++ w.chk, hdr := hdr, poison := w.poison || wordFails w }, if wordFails w then bumpErr s (portIdx p) 0x0E 1 0x0D1A else s)
  else if w.poison then
    let (a, s1) := draw s
    ({ bytes := b ++ natLe a 4, hdr := hdr, poison := true }, s1)
  else ({ bytes := b ++ wordCheck b, hdr := hdr }, s)

/-- The slots of a message: its header, then its data words. -/
def msgSlots (s : State) (p : Nat) (m : Msg) : List FSlot × State :=
  let (h, s1) := wireSlot s p { bytes := hdrWord m } true
  m.data.foldl (fun q w => let (x, s2) := wireSlot q.2 p w false; (q.1 ++ [x], s2)) ([h], s1)

def zeroSlot : FSlot := { bytes := List.replicate 36 0#8 }

/-! Frame bodies (Tables 9-3, 9-4). -/

/-- What a frame header says. -/
structure FHead where
  seq  : Nat
  ack  : Nat
  nak  : Bool
  tag  : Bool
  hdr  : Nat
  poi  : Nat
  fill : Nat
  cvc  : Nat
  cnt  : Nat
  deriving DecidableEq, Repr

def fheadNat (h : FHead) : Nat :=
  h.seq % 4096 + 2 ^ 12 * (h.ack % 4096) + (if h.nak then 2 ^ 24 else 0) + (if h.tag then 2 ^ 25 else 0) + 2 ^ 26 * (h.hdr % 2 ^ 25) +
    2 ^ 51 * (h.poi % 2 ^ 25) + 2 ^ 76 * (h.fill % 32) + 2 ^ 81 * (h.cvc % 8) + 2 ^ 84 * (h.cnt % 1024)

def fheadOf (v : Nat) : FHead :=
  { seq := v % 4096, ack := v / 2 ^ 12 % 4096, nak := v / 2 ^ 24 % 2 == 1, tag := v / 2 ^ 25 % 2 == 1, hdr := v / 2 ^ 26 % 2 ^ 25,
    poi := v / 2 ^ 51 % 2 ^ 25, fill := v / 2 ^ 76 % 32, cvc := v / 2 ^ 81 % 8, cnt := v / 2 ^ 84 % 1024 }

/-- Bit masks of the slots' HDR and POISON. -/
def slotBits (f : FSlot → Bool) (l : List FSlot) : Nat :=
  (l.zipIdx.map (fun q => if f q.1 then 2 ^ q.2 else 0)).sum

/-- A frame body: header, 25 slots, CRC. -/
def frameBody (h : FHead) (slots : List FSlot) : List Byte :=
  let b := natLe (fheadNat h) 12 ++ slots.flatMap (fun x => x.bytes)
  b ++ natLe (crc32 b) 4

/-- Check symbols of a lane at a port's generation (R263). -/
def laneParity (gen : Nat) : Nat := if gen == 1 then 10 else 23

/-- The four lanes' codewords of a body: body byte i goes to lane i mod 4. -/
def laneWords (gen : Nat) (body : List Byte) : List (List Byte) :=
  (List.range 4).map (fun l =>
    let d := (List.range 229).map (fun j => body.getD (4 * j + l) 0#8)
    d ++ (rsParity (laneParity gen) (d.map BitVec.toNat)).map (BitVec.ofNat 8))

/-! Sending (R266-R272). -/

/-- The port carries frames: it is trained and has signal. -/
def portLive (s : State) (p : Nat) : Bool :=
  portState s p == 2 || portState s p == 3 ||
    ((portState s p == 4 || portState s p == 5) && linked s p && !(getPort s p).quietTrain)

/-- A message that an ACTIVE port may start: the credit of its channel holds every word (R270). -/
def mayStart (cred : Tab Nat) (blocked : List Nat) (m : Msg) : Bool :=
  !blocked.contains m.vc && tget 0 cred m.vc ≥ 1 + m.data.length

/-- The first message that may start, with the queue without it; a channel whose first message waits is blocked. -/
def pickMsg (cred : Tab Nat) : List Nat → List Msg → Option (Msg × List Msg)
  | _, [] => none
  | blocked, m :: t =>
    if mayStart cred blocked m then some (m, t)
    else (pickMsg cred (m.vc :: blocked) t).map (fun q => (q.1, m :: q.2))

/-- A message leaves the port's queue: its words, and the channel's credit without them (R270). -/
def startMsg (s : State) (p : Nat) (m : Msg) (q : List Msg) : List FSlot × State :=
  let (ws, s1) := msgSlots { s with txq := tset s.txq p q } p m
  (ws, modPort s1 p (fun x => { x with cred := tset x.cred m.vc (tget 0 x.cred m.vc - ws.length) }))

/-- An ACTIVE port fills slots up to a cap: words of the message under way first, then further messages. -/
def fillSlots (s : State) (p : Nat) : Nat → List FSlot → List FSlot × State
  | 0, acc => (acc, s)
  | n + 1, acc =>
    let x := getPort s p
    match x.txWords with
    | w :: t => fillSlots (setPort s p { x with txWords := t, txCur := if t.isEmpty then none else x.txCur }) p n (acc ++ [w])
    | [] =>
      match pickMsg x.cred [] (tget [] s.txq p) with
      | none => (acc, s)
      | some (m, q) =>
        let (ws, s1) := startMsg s p m q
        match ws with
        | w :: t => fillSlots (modPort s1 p (fun y => { y with txWords := t, txCur := if t.isEmpty then none else some m })) p n (acc ++ [w])
        | [] => (acc, s1)

/-- What a port in another state carries: the HELLO that waits, whole; words of other messages stay (R262). -/
def helloSlots (s : State) (p : Nat) : List FSlot × State :=
  match (tget [] s.txq p).find? (fun m => m.mtype == 0x20) with
  | some m => if tget 0 (getPort s p).cred 5 ≥ 8 then startMsg s p m ((tget [] s.txq p).filter (fun x => x.mtype ≠ 0x20)) else ([], s)
  | none => ([], s)

/-- The channel with the most slots to return, and how many (R270). -/
def creditOut (give : Tab Nat) : Nat × Nat :=
  let v := (List.range 6).foldl (fun b i => if tget 0 give i > tget 0 give b then i else b) 0
  (v, min 1023 (tget 0 give v))

/-- The tag of group g over its frames' bytes (R272). -/
def linkTag (key : List Byte) (g : Nat) (aad : List Byte) : List Byte := (gcmSeal key (natLe g 8 ++ List.replicate 4 0#8) aad []).2

/-- A message still waits for credit: the cycles it has waited are free (0x4000:13). -/
def countWait (s : State) (p : Nat) : State :=
  if (tget [] s.txq p).isEmpty || !(getPort s p).txWords.isEmpty then s
  else
    let (n, s1) := draw s
    bumpPerf s1 (portIdx p) 0x13 n

/-- Sends a body on the wire. -/
def emitFrame (s : State) (p : Nat) (body : List Byte) : State :=
  bumpPerf (emit s (.frame p (laneWords (oget s (portIdx p) 3) body))) (portIdx p) 0x11 1

/-- A new frame (R266, R268, R272). -/
def newFrame (s : State) (p : Nat) : State :=
  let act := portState s p == 3
  let x0 := getPort s p
  let g := x0.txCount / 128
  let tagged := act && x0.txCount % 128 == 127 && g ≥ 1
  let cap0 := if tagged then 24 else 25
  let due := act && x0.stateDue
  let cap := if due then cap0 - 1 else cap0
  let (ws, s1) := if act then fillSlots s p cap [] else helloSlots s p
  let s2 := if ws.length < cap then countWait s1 p else s1
  let (sw, s3) := wireSlot s2 p { bytes := stateWord s2 } true
  let mid := if due then (ws ++ List.replicate (cap - ws.length) zeroSlot) ++ [sw]
    else ws ++ List.replicate (cap0 - ws.length) zeroSlot
  let tg := if tagged then (linkTag x0.keyTx (g - 1) x0.txPrev) else []
  let (tw, s4) := wireSlot s3 p { bytes := natLe (g - 1) 8 ++ tg ++ List.replicate 8 0#8 } false
  let slots := if tagged then mid ++ [tw] else mid
  let x := getPort s4 p
  let (cvc, cnt) := creditOut x.give
  let h : FHead := { seq := x.txSeq, ack := (x.rxSeq + 4095) % 4096, nak := x.nakDue, tag := tagged,
                     hdr := slotBits (fun y => y.hdr) slots, poi := slotBits (fun y => y.poison) slots, fill := ws.length, cvc := cvc, cnt := cnt }
  let body := frameBody h slots
  let grp := if x.txCount % 128 == 0 then body.take 912 else x.txGrp ++ body.take 912
  let y := { x with txSeq := (x.txSeq + 1) % 4096, unack := x.unack ++ [⟨x.txSeq, body⟩], nakDue := false,
                    give := tset x.give cvc (tget 0 x.give cvc - cnt), stateDue := x.stateDue && !due }
  let z := if !act then y else { y with txCount := x.txCount + 1, txGrp := grp, txPrev := if x.txCount % 128 == 127 then grp else x.txPrev }
  emitFrame (setPort s4 p z) p body

/-- FRAME_TX: the next frame of a port: a resend while one is due, else a new one; the idle pattern while 1,024 frames are
unacknowledged (R268). -/
def frameTx (s : State) (p : Nat) : State :=
  let x := getPort s p
  if !portLive s p then s
  else if x.replay > 0 then
    match x.unack[x.unack.length - x.replay]? with
    | some f => emitFrame (bumpErr (setPort s p { x with replay := x.replay - 1 }) (portIdx p) 0x0C 1 0x0D1A) p f.body
    | none => setPort s p { x with replay := 0 }
  else if x.unack.length ≥ 1024 then s
  else newFrame s p

/-! Receiving (R260, R265-R274). -/

/-- A lane's codeword: the 229 body symbols and the number corrected, none when it is uncorrectable. -/
def laneDecode (gen : Nat) (cw : List Byte) : Option (List Byte × Nat) :=
  let n := laneParity gen
  if cw.length != 229 + n then none
  else (rsDecode n (cw.map BitVec.toNat)).map (fun q => ((q.1.take 229).map (BitVec.ofNat 8), q.2))

/-- The physical lane of a logical lane (R258). -/
def physLane (s : State) (p j : Nat) : Nat := if oget s (portIdx p) 5 == j then 4 else j

/-- Corrected symbols: the tally, the Barometer, and the lanes that become suspect (R260). -/
def corrected (s : State) (p : Nat) (ns : List Nat) : State :=
  let n := ns.sum
  if n == 0 then s
  else
    let s1 := baroAdd (bumpErr (stamp s) (portIdx p) 0x0A n 0x0D1A) 1 n
    let x := getPort s1 p
    let old := x.corr.filter (fun c => s1.now < c.2.1 + 1000000)
    let new := old ++ (ns.zipIdx.filter (fun q => q.1 > 0)).map (fun q => (physLane s1 p q.2, s1.now, q.1))
    let total (l : Nat) : Nat := ((new.filter (fun c => c.1 == l)).map (fun c => c.2.2)).sum
    let sus := (List.range 5).filter (fun l => total l ≥ 4096 && !x.suspect.contains l)
    setPort s1 p { x with corr := new, suspect := x.suspect ++ sus }

/-- A frame is discarded: NAK goes with the next frame, once until an in-order frame comes (R268). -/
def discardFrame (s : State) (p : Nat) : State :=
  modPort s p (fun x => if x.nakSent then x else { x with nakDue := true, nakSent := true })

/-- A single failing lane counts; at eight frames in a row it fails (R260). -/
def laneFails (s : State) (p : Nat) (bad : List Nat) : State :=
  match bad with
  | [l] =>
    let x := getPort s p
    let run := if x.badRun > 0 && x.badLane == l then x.badRun + 1 else 1
    let s1 := setPort s p { x with badLane := l, badRun := run }
    if run ≥ 8 then spareLane (modPort s1 p (fun y => { y with badRun := 0 })) p (physLane s1 p l) else s1
  | _ => modPort s p (fun x => { x with badRun := 0 })

/-- The oldest frame is to be resent; resent 16 times already, the port retrains (R269). -/
def resendAll (s : State) (p : Nat) : State :=
  let x := getPort s p
  if x.unack.isEmpty then s
  else if x.resent ≥ 16 then retrain (raise (setPort s p { x with resent := 0 }) 0x0D13 []) p
  else setPort s p { x with replay := x.unack.length, resent := x.resent + 1 }

/-- RETRY_TIMER: ACK has not advanced in time (R268). -/
def retryTimer (s : State) (p : Nat) : State := if portLive s p then resendAll s p else s

/-- ACK and NAK of an accepted frame (R268): a NAK is obeyed once for each ACK. -/
def takeAck (s : State) (p : Nat) (h : FHead) : State :=
  let x := getPort s p
  let s1 := match x.unack.findIdx? (fun f => f.seq == h.ack) with
    | some i => setPort s p { x with unack := x.unack.drop (i + 1), replay := min x.replay (x.unack.length - (i + 1)), resent := 0, nakFor := none }
    | none => s
  let y := getPort s1 p
  let next := match y.unack.head? with
    | some f => f.seq == (h.ack + 1) % 4096
    | none => false
  if h.nak && next && y.nakFor != some h.ack then resendAll (setPort s1 p { y with nakFor := some h.ack }) p else s1

/-- A word in passing (R248, R265): it goes on as it arrived, and the flag says whether it failed its check: whether it is uncorrectable
(DEDUCED, assumption log 129). -/
def passWord (bs : List Byte) (poi : Bool) : DWord × Bool :=
  let b := bs.take 32
  let w : DWord := { bytes := b, poison := poi, chk := if !poi && wordCheck b == bs.drop 32 then [] else bs.drop 32 }
  (w, wordFails w)

/-- Slot i of a body. -/
def slotAt (body : List Byte) (i : Nat) : List Byte := lslice body (12 + 36 * i) 36

/-- A complete message goes into its channel's buffer; a malformed one that no one answers is discarded (R274). On a port that is not
ACTIVE there is none but HELLOs, and, where it goes on after a retrain, what frames sent again bring: no message is lost (R260, R262,
R269). -/
def msgIn (s : State) (p : Nat) (m : Msg) : State :=
  let s1 := bumpPerf s (portIdx p) 0x12 (1 + m.data.length)
  if portState s p != 3 && m.mtype != 0x20 && !(getPort s p).carries then giveCredit s1 p m
  else if m.bad && m.mtype ∉ [1, 2, 3, 4] then bumpErr (giveCredit s1 p m) (portIdx p) 0x0F 1 0x0D1A
  else { s1 with rxq := tset s1.rxq p (tget [] s1.rxq p ++ [m]) }

/-- A word as it stands among those of a message under way, and back. -/
def wordSlot (w : DWord) : FSlot := { bytes := w.bytes ++ w.chk, poison := w.poison }

def slotWord (x : FSlot) : DWord := { bytes := x.bytes.take 32, poison := x.poison, chk := x.bytes.drop 32 }

/-- A word joins those of a message: what is under way then, and the message once it is complete. Its first word is its header, which
the port reads corrected. -/
def joinWord (ws : List FSlot) (w : DWord) : List FSlot × Option Msg :=
  match ws with
  | [] =>
    let h := decoded w
    if hdrLen h.bytes == 0 then ([], some (parseMsg h.bytes [] h.poison)) else ([{ bytes := h.bytes.take 32, hdr := true, poison := h.poison }], none)
  | h :: t =>
    let l := t ++ [wordSlot w]
    if l.length == hdrLen h.bytes then ([], some (parseMsg h.bytes (l.map slotWord) h.poison)) else (h :: l, none)

/-- The word begins a HELLO. -/
def helloHdr (hdr : Bool) (w : DWord) : Bool := hdr && ((decoded w).bytes.getD 0 0#8) == 0x20#8

/-- One message word of a frame. A HELLO may come while a message is under way that a retrain has interrupted; another header ends that
message, which does not have its LEN then (R274). -/
def wordIn (s : State) (p : Nat) (hdr : Bool) (w : DWord) : State :=
  let hello := !(getPort s p).rxHello.isEmpty || helloHdr hdr w
  let cut := hdr && !hello && !(getPort s p).rxWords.isEmpty
  let s0 := if cut then bumpErr (modPort s p (fun y => { y with rxWords := [] })) (portIdx p) 0x0F 1 0x0D1A else s
  let x := getPort s0 p
  if !hello && x.rxWords.isEmpty && !hdr then bumpErr s (portIdx p) 0x0F 1 0x0D1A
  else
    let (l, m) := joinWord (if hello then x.rxHello else x.rxWords) w
    let s1 := setPort s0 p (if hello then { x with rxHello := l } else { x with rxWords := l })
    match m with
    | some m => msgIn s1 p m
    | none => s1

/-- The words of an accepted frame, in slot order. -/
def slotsIn (s : State) (p : Nat) (h : FHead) (body : List Byte) : State :=
  (List.range 25).foldl (fun s i =>
    let (w, bad) := passWord (slotAt body i) (h.poi / 2 ^ i % 2 == 1)
    let s1 := if bad then bumpErr s (portIdx p) 0x0E 1 0x0D1A else s
    let hd := h.hdr / 2 ^ i % 2 == 1
    if i < h.fill then wordIn s1 p hd w
    else if hd && portState s1 p == 3 && !(decoded w).poison then stateWordIn s1 (decoded w).bytes else s1) s

/-- A link tag has failed (R273). -/
def tagFails (s : State) (p : Nat) : State :=
  let s1 := logRefusal (bumpErr (raise s 0x0D14 []) (portIdx p) 0x10 1 0x0D1A) 6 0 p
  linkFault (retrain s1 p)

/-- The frame joins its group; a tag that it carries is checked (R272, R273). DESIGN CHOICE: the first frame under new keys is the first
one accepted once the own port is ACTIVE; R272 does not say how a receiver finds it (assumption log 130). -/
def groupIn (s : State) (p : Nat) (h : FHead) (body : List Byte) : State :=
  if portState s p != 3 then s
  else
    let x := getPort s p
    let g := x.rxCount / 128
    let last := x.rxCount % 128 == 127
    let grp := if x.rxCount % 128 == 0 then body.take 912 else x.rxGrp ++ body.take 912
    let t := (decoded (passWord (slotAt body 24) false).1).bytes
    let ok := last && g == x.verified + 1 && leNat (t.take 8) == x.verified && (lslice t 24 8).all (fun b => b == 0#8) && lslice t 8 16 == linkTag x.keyRx x.verified x.rxPrev
    let y := { x with rxCount := x.rxCount + 1, rxGrp := grp, rxPrev := if last then grp else x.rxPrev }
    if !h.tag then setPort s p y
    else if ok then setPort s p { y with verified := x.verified + 1 }
    else tagFails (setPort s p y) p

/-- A header that no frame has (R264, R266, Table 9-4): reserved bits set, FILL above 25 or above 24 with TAG, HDR 24 with TAG, a CVC
that is no channel. -/
def fheadBad (v : Nat) : Bool :=
  let h := fheadOf v
  v / 2 ^ 94 % 4 != 0 || h.fill > 25 || (h.tag && (h.fill > 24 || h.hdr / 2 ^ 24 % 2 == 1)) || h.cvc > 5

/-- A frame that decodes: sequence, acknowledgement, credit, words, tag (R265-R273). A malformed one is not acted on: it is discarded
as one out of sequence is (R5, assumption log 115). -/
def frameIn (s : State) (p : Nat) (body : List Byte) : State :=
  let h := fheadOf (leNat (body.take 12))
  let x := getPort s p
  if fheadBad (leNat (body.take 12)) || h.seq != x.rxSeq then discardFrame s p
  else
    let s1 := setPort s p { x with rxSeq := (x.rxSeq + 1) % 4096, nakSent := false, badRun := 0,
                                   cred := tset x.cred h.cvc (tget 0 x.cred h.cvc + h.cnt) }
    groupIn (takeAck (slotsIn s1 p h body) p h) p h body

/-- FRAME_RX: the codewords of the four lanes have come, descrambled (R265). -/
def frameRx (s : State) (p : Nat) (lanes : List (List Byte)) : State :=
  if !portLive s p then s
  else
    let gen := oget s (portIdx p) 3
    let ds := (List.range 4).map (fun l => laneDecode gen (lanes.getD l []))
    let bad := (List.range 4).filter (fun l => (ds.getD l none).isNone)
    if !bad.isEmpty then laneFails (bumpErr (discardFrame s p) (portIdx p) 0x0B 1 0x0D1A) p bad
    else
      let ok := ds.map (fun d => d.getD ([], 0))
      let s1 := corrected (modPort s p (fun x => { x with badRun := 0 })) p (ok.map (fun d => d.2))
      let body := (List.range 916).map (fun i => ((ok.getD (i % 4) ([], 0)).1.getD (i / 4) 0#8))
      if crc32 (body.take 912) != leNat (body.drop 912) then bumpErr (discardFrame s1 p) (portIdx p) 0x0B 1 0x0D1A
      else frameIn s1 p body

end Sys2Proof.Machine
end

