-- ==== Sys2Proof/Machine/Patch.lean ====
section
/-! DEFINITION. Patch images (R417-R421): loading, activation, the self-check and the SVN floor. -/
namespace Sys2Proof.Machine

def getSlot (s : State) (k : Nat) : PSlot := tget {} s.lock.slots k

def setSlot (s : State) (k : Nat) (x : PSlot) : State := { s with lock := { s.lock with slots := tset s.lock.slots k x } }

/-- The active slot, 0xFF when the ROM runs alone (0x6030:02). -/
def activeSlot (s : State) : Nat :=
  if (getSlot s 0).state == 4 then 0 else if (getSlot s 1).state == 4 then 1 else 0xFF

/-- The slot that a load goes into (R418); with the ROM alone it is slot A (assumption log 37). -/
def inactiveSlot (s : State) : Nat := if activeSlot s == 0 then 1 else 0

/-- The SVN floor: the fuses as shipped, and what has been blown since (R421). -/
def svnFloor (s : State) : Nat := max Config.fusedSvn.val s.lock.svn

/-! The checks of an image (Table 14-5). -/

/-- The first check that fails, 0 when none does. -/
def imageCheck (s : State) (im : List Byte) : Nat :=
  let h (i n : Nat) : Nat := leNat (lslice im i n)
  let body := h 48 4
  let zero (i n : Nat) : Bool := (lslice im i n).all (fun b => b == 0#8)
  if im.length < 320 || h 0 4 != 0x48504C49 || h 4 2 != 1 || h 6 1 > 3 || h 7 1 > 1 || h 12 1 > 64 || !zero 13 3 || !zero 56 8 || !zero 160 96 ||
      body < 1 || body > 1048256 || h 52 4 ≥ body || im.length != 256 + body + 64 then 1
  else if lslice im 16 32 != Config.romDigest then 2
  else if sha256 (lslice im 96 64) != Config.fwKey (h 6 1) || Config.fwRevoked (h 6 1) then 3
  else if !ecdsaOk (lslice im 96 64) (im.take 256) (lslice im (256 + body) 64) then 4
  else if lslice im 64 32 != sha256 (lslice im 256 body) then 5
  else if h 12 1 < svnFloor s then 6
  else 0

/-- A load begins: the inactive slot's contents go (R418). -/
def patchBegin (s : State) : State := setSlot s (inactiveSlot s) { state := 1 }

/-- A load's transfer was aborted: the slot is EMPTY, its old contents being gone (R418, R452). -/
def loadAborted (s : State) (key : Nat) : State :=
  if key != okey 0x6030 1 then s
  else { s with lock := { s.lock with slots := s.lock.slots.map (fun p => if p.2.state == 1 then (p.1, {}) else p) } }

/-- A load is refused while another is under way or an activation of the slot is pending (R418). -/
def patchBusy (s : State) : Bool :=
  (getSlot s 0).state == 1 || (getSlot s 1).state == 1 || oget s 0x6031 2 == inactiveSlot s || s.lock.running.isSome

/-- PATCH_IMAGE: the last segment has come; the image is checked (R418). Answers whether it passed. -/
def patchImage (s : State) (im : List Byte) : State × Bool :=
  let k := inactiveSlot s
  let r := imageCheck s im
  if r != 0 then
    (raise (logRefusal (oset (setSlot s k {}) 0x6030 7 r) 3 r 0x6030) 0x0815 [], false)
  else
    (raise (setSlot s k { state := 2, ver := leNat (lslice im 8 4), svn := leNat (lslice im 12 1), commit := (im.getD 7 0#8) == 1#8,
                          digest := sha256 (im.take 256) }) 0x0814 [], true)

/-- A slot may be activated: VALID, inactive, its SVN at or above the floor (R419). -/
def mayActivate (s : State) (k : Nat) : Bool := k < 2 && (getSlot s k).state == 2 && (getSlot s k).svn ≥ svnFloor s

/-- The new image is entered; its self-check is awaited (R420). -/
def patchEnter (s : State) (k : Nat) : State := { oset s 0x6031 2 0xFF with lock := { s.lock with running := some k } }

/-- Seal action 5: a pending slot is entered (R419, Table 11-7). -/
def patchSeal (s : State) : State :=
  let k := oget s 0x6031 2
  if k == 0xFF then s else if mayActivate s k then patchEnter s k else oset s 0x6031 2 0xFF

/-- The self-check has passed: the slot is ACTIVE; the floor follows under COMMIT_SVN (R420, R421). -/
def patchPassed (s : State) (k : Nat) : State :=
  let old := activeSlot s
  let s1 := if old == 0xFF then s else setSlot s old { getSlot s old with state := 2 }
  let x := getSlot s1 k
  let s2 := raise (setSlot s1 k { x with state := 4 }) 0x0816 []
  if x.commit && x.svn > svnFloor s2 then
    raise { s2 with lock := { s2.lock with svn := x.svn, blow := some (svnFloor s2, s2.now) } } 0x0818 []
  else s2

/-- Power is lost. Within the 50 ms of a blow the floor that it leaves is free, from the old value to the new (R421, assumption log
154). -/
def blowCut (s : State) : State :=
  match s.lock.blow with
  | none => s
  | some (old, t0) =>
    let s1 := stamp s
    if (s1.now + 2 ^ 64 - t0) % 2 ^ 64 < 50000000 then
      let (n, s2) := drawBelow s1 (s.lock.svn - old + 1)
      { s2 with lock := { s2.lock with svn := old + n, blow := none } }
    else s1

/-- It has failed, or 10 ms have passed without it (R420). -/
def patchFailed (s : State) (k : Nat) : State := raise (setSlot s k { getSlot s k with state := 3 }) 0x0817 []

end Sys2Proof.Machine
end

