-- ==== Sys2Proof/Machine/StreamExec.lean ====
section
/-! DEFINITION. How a stream runs (07, R103-R111): fetch, issue and the arbiter, commit and completion, aborts and
resumes, watchdogs and the deadlock detector, and the 31 stream commands as they stand at HEAD. -/
namespace Sys2Proof.Machine

/-! FLAG and UDONE (R124, R195, R215). -/

/-- Applies the FLAGs and UDONEs before which no command stands any more. -/
def settleFlags (s : State) (c k : Nat) : Nat → State
  | 0 => s
  | n + 1 =>
    match (getStrm s c k).fly with
    | [] => s
    | f :: _ =>
      if neverApplies (getStrm s c k) f then s
      else match f.op with
        | .flag o =>
          settleFlags (removeFly (updFlag s c (isOne o.scope) (isOne o.op) o.flag.toNat (f.step % 2) o.value) c k f) c k n
        | .udone _ => settleFlags (removeFly (udoneDo s c f) c k f) c k n
        | _ => s

/-- After a command left or entered: dependent FLAGs, and a draining stream that has emptied. -/
def settle (s : State) (c k : Nat) : State := drained (settleFlags s c k 80) c k

/-! Aborts (R222, R223). -/

/-- The place an access waits for is void, or no issued command holds its push. -/
def placeLost (s : State) (c : Nat) (a : HAcc) : Bool :=
  let h := getHop s c a.h
  a.kind != .push && !a.done && (accDesc s c a).isNone &&
    (h.pushN ≤ a.num || (match tfind h.places a.num with
      | some .void => true
      | _ => false))

/-- The accesses of the chunk that a running matrix command waits for. -/
def chunkWaits (s : State) (c : Nat) (f : Fly) (op : MmaOp) (r : MmaRun) : List HAcc :=
  let k0 := chunkStep op * r.chunk
  let p := k0 / 256
  let need (x : Option HAcc) : List HAcc := match x with
    | some a => if !a.done && (accDesc s c a).isNone then [a] else []
    | none => []
  (if k0 % 256 == 0 && p != 0 then need (accOf f .ha p) ++ need (accOf f .hb p) else []) ++
    (if isOne op.emit then need (accOf f .hm r.chunk) else [])

/-- The running command of a loom that waits for an operand of its next chunk. -/
def loomWait (s : State) (c l : Nat) : Option (Nat × Fly × MmaOp × List HAcc) :=
  match loomRun s c l with
  | some (k, f, op, r) =>
    let ws := chunkWaits s c f op r
    if r.charged || ws.isEmpty then none else some (k, f, op, ws)
  | none => none

/-- A committed command ends while it waits (R222): no drain, no bench write, no push. -/
def mmaLost (s : State) (c k l : Nat) (f : Fly) (op : MmaOp) (cause : Nat) : State :=
  endFly (modLoom s c l (fun x => { x with run := none })) c k f (recOf s f cause 5 0 0 0 op.key.toNat)

/-- Commands of aborted streams that wait for a void place or an unheld push end with OPERAND_LOST. -/
def endLost (s : State) (c : Nat) : State :=
  [0, 1, 2].foldl (fun s l =>
    match loomWait s c l with
    | some (k, f, op, ws) =>
      if (getStrm s c k).mode == .aborting && ws.any (placeLost s c) then mmaLost s c k l f op 9 else s
    | none => s) s

/-- ABORT reaches a stream: commands before their commit points go, committed ones complete. -/
def abortStream (s : State) (c k : Nat) : State :=
  let st := getStrm s c k
  match st.mode with
  | .halted | .aborted | .aborting => s
  | _ =>
    let (d, p) := oldestOf st (fun f => !f.committed)
    let gone := st.fly.filter (fun f => !f.committed)
    let s1 := gone.foldl (fun s f => releaseAcc (unwaitClaim s c f) c false f.acc) s
    let s2 := modStrm s1 c k (fun x => { x with
      mode := .aborting, abpos := p, abid := d, fly := x.fly.filter (fun f => f.committed) })
    drained (endLost s2 c) c k

/-- RESUME: a HALTED or ABORTED stream refetches from HEAD, with no active loop (R223). -/
def resumeStream (s : State) (c k : Nat) : State :=
  modStrm s c k (fun x =>
    match x.mode with
    | .halted | .aborted =>
      { x with mode := .live, cause := 0, broken := none, queue := [], nxt := 0, loops := [], skip := 0, win := [],
               loads := [], ahead := [], fly := [], held := false, relieved := false, shown := none }
    | _ => x)

/-- CLR_STICKY clears INVALID, OVERFLOW and LOG_FULL (R224, R503). -/
def clrSticky (s : State) (c k : Nat) : State :=
  modStrm s c k (fun x => { x with invalid := false, overflow := false, logFull := false })

/-! Fetch (R190-R192). -/

/-- The queued form of a ring entry at an index. -/
def qcmdOf (s : State) (st : Stream) (pos : Nat) : QCmd :=
  let a := st.base + 16 * pos
  let bad := firstPoison s a 16
  let w := memLe s a 16
  let (h, op) := decodeCmd w
  let op := if memOk s a 16 then op else none
  { pos := pos, hdr := h, op := op, poison := bad, body := if w % 256 == 2 then w / 2 ^ 24 % 256 + 1 else 0,
    mill := if w % 256 / 4 == 0x1C && bad.isNone then some (w / 2 ^ 16 % 64, w / 2 ^ 96 % 65536) else none }

/-- Fetches up to n entries while HEAD is not TAIL and the queue has room. -/
def fetchSome (s : State) (st : Stream) : Nat → Stream
  | 0 => st
  | n + 1 =>
    if st.head == st.tail || st.queue.length + st.win.length ≥ 512 then st
    else fetchSome s { st with queue := st.queue ++ [qcmdOf s st st.head], head := (st.head + 1) % 2 ^ st.log2 } n

/-- STREAM_FETCH: a ring entry whose write still waits is seen as written (R470). -/
def streamFetch (s : State) (c k : Nat) : State :=
  let st := getStrm s c k
  if st.mode == .live then hbmSeen (setStrm s c k (fetchSome (pendView s) st 512)) else s

/-! Issue (R191-R224). -/

/-- A record of a command that ends at issue or before it, not faulted. -/
def haltIssue (s : State) (c k : Nat) (q : QCmd) (cause row col tile : Nat) : State :=
  let s := issueEnded s c q cause
  let st := getStrm s c k
  let r : ExRec := {
    cause := cause, unit := 5, row := row % 65536, col := col % 65536, tile := tile, pos := q.pos
    step := st.step % 2 ^ 32, time := s.now }
  drained (beginHalt (logRec s c k r) c k cause q.pos (qDec st q)) c k

def qTile (q : QCmd) : Nat :=
  match q.op with
  | some op => opTile op
  | none => 0

/-- What the command word and where it stands make malformed (R5, R195, R207, R301). -/
def issueBad (s : State) (k : Nat) (st : Stream) (q : QCmd) (op : Op) : Bool :=
  gateBad q.hdr.gate || opBad k st.vl st.rl op ||
    (match op with
     | .stepmark _ => !st.loops.isEmpty
     | .loop f => (match st.loops with
       | l :: _ => st.nxt + 1 + (f.body.toNat + 1) > l.start + l.len
       | [] => false)
     | .ratom f => raBad f.aop.toNat f.opnds.toNat
     | .millRs f | .millAg f | .millAr f | .millBc f =>
       f.arith == 1#2 && (match millGroup s f.group.toNat with
         | some g => g.fore
         | none => false)
     | _ => false)

/-- A command that completes as it issues. -/
def atIssue (s : State) (c k : Nat) (q : QCmd) (take : Stream → Stream) (g : Stream → Stream) : State :=
  modStrm s c k (fun st =>
    let id := st.nextId
    let st1 := g { st with nextId := id + 1, decN := st.decN + 1, issued := perfAdd st.issued 1, held := false, relieved := false, shown := none }
    take (noteDone st1 q.pos (qDec st q)))

/-- A command that issues and stays in flight. -/
def enterFly (s : State) (c k : Nat) (f : Fly) (take : Stream → Stream) : State :=
  modStrm (modCell s c (fun x => { x with issueN := x.issueN + 1 })) c k (fun st =>
    take { st with nextId := st.nextId + 1, decN := st.decN + 1, issued := perfAdd st.issued 1, fly := st.fly ++ [f], held := false,
                   relieved := false, shown := none })

def newFly (s : State) (c : Nat) (st : Stream) (q : QCmd) (op : Op) (acc : List HAcc) : Fly :=
  { id := st.nextId, dec := qDec st q, seq := (getCell s c).issueN, pos := q.pos, hdr := q.hdr, op := op, acc := acc, vl := st.vl, rl := st.rl, sat := st.sat,
    step := st.step, late := voteIssued s c st.step }

/-- VALUE of a FLAG or WAIT with its counter (R215, R216). -/
def flagValue (st : Stream) (o : FlagOp) : Word := if isOne o.cen then o.value + ctrVal st o.ctr.toNat else o.value

/-- Is STEPMARK's step there: pass into it, wait for it, or stale (R211)? -/
inductive MarkRes
  | pass (n : Nat)
  | wait
  | stale
  deriving DecidableEq, Repr

def markCheck (s : State) (st : Stream) (step32 : Nat) : MarkRes :=
  match s.steps.find? (fun t => t.isOpen && t.num % 2 ^ 32 == step32) with
  | some t => if st.entered && t.num < st.step then .stale else if t.opening then .wait else .pass t.num
  | none =>
    match s.ldg.relWait.find? (fun w => w.1 % 2 ^ 32 == step32) with
    | some w => if st.entered && w.1 < st.step then .stale else .pass w.1
    | none =>
    let gone := s.released > 0 && (s.released % 2 ^ 32 + 2 ^ 32 - step32) % 2 ^ 32 < 2 ^ 31
    let d := (st.step % 2 ^ 32 + 2 ^ 32 - step32) % 2 ^ 32
    if gone || (st.entered && 0 < d && d < 2 ^ 31) then .stale else .wait

/-- The bits of CMP [28:16] and [71:32] of a comparator setting (R325). -/
def cmpBits (j : Nat) (m : Cmpr) : Nat :=
  j + (if m.armed then 4 else 0) + 8 * m.ca + 64 * m.rel + (if m.bsrc then 256 else 0) + 512 * m.cb +
    (if m.act then 4096 else 0) + 2 ^ 13 * m.imm.toNat + 2 ^ 45 * m.flag

/-- A stream record of the journal (R325). -/
def streamRec (r : Restart) : List Byte :=
  natLe r.pos 4 ++ (List.range 8).flatMap (fun i => natLe (tget 0#32 r.ctr i).toNat 4) ++
    (List.range 4).flatMap (fun j => natLe (cmpBits j (tget {} r.cmp j)) 8) ++ List.replicate 60 0#8

/-- STEPMARK passes (R211, R106, R110, R168): the restart record, the step, and what it sets back. -/
def passMark (s : State) (c k : Nat) (q : QCmd) (n : Nat) : State :=
  let st := getStrm s c k
  let r : Restart := ⟨n, q.pos, st.ctr, st.cmp⟩
  let had := st.restarts.any (fun x => x.step == n)
  let s1 := atIssue s c k q (fun x => takeFront x q.pos) (fun x => { x with
    step := n, entered := true, vl := 256, rl := 64,
    restarts := x.restarts.filter (fun y => y.step ≠ n) ++ [r] })
  let s2 := if had then s1 else otherWrite s1 (entryAddr s (n % 2) + 0x1000 + 128 * (4 * c + k)) (streamRec r)
  let s3 := if k == 1 then modCell s2 c (fun x => { x with bwd := x.bwdW, patPos0 := 0, patPos1 := 0 })
    else if k == 0 then modLoom s2 c 0 (fun x => { x with openB := [] }) else s2
  flushMark s3 c k

/-- LOOP enters, or skips its body (R207). -/
def enterLoop (st : Stream) (q : QCmd) (f : LoopOp) : Stream :=
  let n := if isOne f.csrc then (ctrVal st f.cctr.toNat).toNat else f.count.toNat
  let body := f.body.toNat + 1
  let st1 := if isOne f.ien then setCtr st f.ictr.toNat 0#32 q.pos else st
  if n == 0 then { takeFront st1 q.pos with skip := body }
  else
    let fr : LoopFr := ⟨st1.nxt + 1, body, n - 1, if isOne f.ien then some f.ictr.toNat else none⟩
    { st1 with loops := fr :: st1.loops, nxt := st1.nxt + 1 }

/-- A word that LD32 or LD16 reads: memory, or a register (R29, R208). -/
def loadWord (rr : State → Nat → Nat) (s : State) (a n : Nat) : Nat :=
  if inRegs a then rr s ((a - regBase) / 8 * 8) / 2 ^ (8 * (a % 8)) % 2 ^ (8 * n) else memLe s a n

/-- CNT at issue (R208, R209). -/
def issueCnt (rr : State → Nat → Nat) (s : State) (c k : Nat) (st : Stream) (q : QCmd) (f : CntOp)
    (take : Stream → Stream) : Option State :=
  let d := f.dst.toNat
  match f.op.toNat with
  | 0 => some (atIssue s c k q take (fun x => setCtr x d f.imm q.pos))
  | 1 => some (atIssue s c k q take (fun x => setCtr x d (ctrVal x d + f.imm) q.pos))
  | 2 => some (atIssue s c k q take (fun x => setCtr x d (ctrVal x d + ctrVal x f.src.toNat) q.pos))
  | o =>
    let a := f.addr.toNat
    let n := if o == 3 then 4 else 2
    let ok := if inRegs a then carterReg ((a - regBase) / 8 * 8) else memOk s a n
    if !ok then some (faultIssue s c k q 2 5 0 0 0 0)
    else match fenceOf s st.step [(a, n)] [] with
      | .wait => none
      | _ =>
        match (if inRegs a then none else firstPoison s a n) with
        | some p => some (faultIssue (raiseUncorr s p st.step) c k q 0x50 5 (p / 2 ^ 32) (p / 2 ^ 16) (p / 16 % 4096) 0)
        | none =>
          let v := loadWord rr s a n
          let w := BitVec.ofInt 32 (sInt (8 * n) v)
          let fl := { newFly s c st q (.cnt f) [] with committed := true }
          some (modStrm (enterFly (hbmSeen s) c k fl take) c k (fun x => { x with loads := x.loads ++ [(d, w)] }))

/-- HPUSH at issue (R202, R210): one entry of the descriptor table, its address advanced by the counter. -/
def issueHpush (s : State) (c k : Nat) (st : Stream) (q : QCmd) (f : HpushOp) (take : Stream → Stream) : Option State :=
  match reserve s c (opAcc s (.hpush f)) 0 with
  | none => none
  | some (s1, acc) =>
    let a := benchAddr c (0x10000 * (getCell s c).dtab + 64 * f.tidx.toNat)
    match firstPoison s a 64 with
    | some p => some (faultIssue (raiseUncorr s p st.step) c k q 0x50 5 (p / 2 ^ 32) (p / 2 ^ 16) (p / 16 % 4096) 0)
    | none =>
      let d : Desc := BitVec.ofNat 512 (memLe s a 64)
      if descBad d then some (faultIssue s c k q 1 5 0 0 0 0)
      else
        let m := if isOne f.cen then
            (if f.modlog == 0#5 then (ctrVal st f.ctr.toNat).toNat else (ctrVal st f.ctr.toNat).toNat % 2 ^ f.modlog.toNat)
          else 0
        let d1 := dSetAddr d (dAddr d + m * f.stride.toNat * 32)
        let s2 := acc.foldl (fun s x => pushAt s c x.h x.num d1) s1
        some (atIssue s2 c k q take id)

/-- Mill commands issued and not completed on the device (R303). -/
def millInFlight (s : State) : Nat :=
  ((List.range 64).map (fun c => ((getStrm s c 3).fly.filter (fun f => isMill f.op)).length)).sum

/-- The parity a command names the step of its verdict or its end by (R124, R129). -/
def parOf (op : Op) : Option Nat :=
  match op with
  | .ucommit f => some f.par.toNat
  | .vpub f => some f.par.toNat
  | .udone p => some p.toNat
  | _ => none

/-- A command that takes its reservations and enters the pipeline. -/
def issueFly (s : State) (c k : Nat) (st : Stream) (q : QCmd) (op : Op) (take : Stream → Stream) : Option State :=
  let g := match parOf op with
    | some p => (match op with
      -- UDONE is not gated: it marks the end of the work of an unsealed step only (R124)
      | .udone _ => (stepOfPar s p).map StepSt.num
      | _ => gateStep s st.step p)
    | none => some 0
  match g with
  | none => some (faultIssue s c k q 0x27 5 ((parOf op).getD 0) 0 0 (opTile op))
  | some gs =>
    if isMill op && millInFlight s ≥ 16 then none
    else match reserve s c (opAcc s op) 0 with
      | none => none
      | some (s1, acc) =>
        let acc := match op with
          | .mma _ => numberPeeks .hb (numberPeeks .ha acc 0) 0
          | _ => acc
        -- the lathe runs in issue order: its commands issue with their panels' descriptors ready (assumption log 24)
        if isLathe op && acc.any (fun (a : HAcc) => a.kind != .push && (accDesc s1 c a).isNone) then none
        else
        let op := match op with
          | .flag o => .flag { o with value := flagValue st o }
          | x => x
        some (enterFly s1 c k { newFly s c st q op acc with gstep := gs } take)

/-- The command stands 64 places or more behind the oldest one that has not completed, so that it must not complete yet: no command
beyond ABPOS + 63 has (R223). A choice of R107 out of the window is exempt (assumption log 142). -/
def tooFar (st : Stream) (q : QCmd) : Bool :=
  let (d, p) := oldestOf st (fun _ => true)
  q.dec == 0 && !(st.fly.all (fun f => f.pseudo)) &&
    (d + 64 ≤ st.decN || (st.loops.isEmpty && 64 ≤ (q.pos + 2 ^ st.log2 - p) % 2 ^ st.log2))

/-- The command issues, faults at issue, or waits (none). -/
def issueCmd (rr : State → Nat → Nat) (s : State) (c k : Nat) (q : QCmd) (take : Stream → Stream) : Option State :=
  let st := getStrm s c k
  if (st.fly.filter (fun f => !f.pseudo)).length ≥ 64 || tooFar st q || markOut s c k then none
  else match q.poison with
    | some p => some (faultIssue (raiseUncorr s p st.step) c k q 0x50 5 (p / 2 ^ 32) (p / 2 ^ 16) (p / 16 % 4096) 0)
    | none =>
      match q.op with
      | none => some (faultIssue s c k q 1 5 0 0 0 0)
      | some op =>
        if issueBad s k st q op then some (faultIssue s c k q 1 5 0 0 0 (opTile op))
        else if (opAcc s op).any (fun a => !accOwned s c k a) then some (faultIssue s c k q 3 5 0 0 0 (opTile op))
        else match op with
          | .nop => some (atIssue s c k q take id)
          | .stepmark n => (match markCheck s st n.toNat with
            | .pass n => some (passMark s c k q n)
            | .wait => none
            | .stale => some (faultIssue s c k q 6 5 0 0 0 0))
          | .loop f =>
            if st.loops.length ≥ 4 then some (faultIssue s c k q 4 5 0 0 0 0)
            else some (atIssue s c k q (fun x => enterLoop x q f) id)
          | .cnt f => issueCnt rr s c k st q f take
          | .cmp f =>
            let m : Cmpr := if isOne f.arm then
                { armed := true, ca := f.ca.toNat, rel := f.rel.toNat, bsrc := isOne f.bsrc, cb := f.cb.toNat,
                  act := isOne f.act, flag := f.flag.toNat, imm := f.imm }
              else {}
            some (atIssue s c k q take (fun x => { x with cmp := tset x.cmp f.j.toNat { m with last := m.armed && cmpCond x m } }))
          | .hpush f => issueHpush s c k st q f take
          | .wait o =>
            if (flagValue st o).ule (getFlag s c (isOne o.scope) o.flag.toNat (st.step % 2)) then some (atIssue s c k q take id)
            else none
          | .setlen vl rl => some (atIssue s c k q take (fun x => { x with vl := vl.toNat + 1, rl := rl.toNat + 1 }))
          | .vrel f =>
            let fl := newFly s c st q op []
            let (s1, rs) := vrelDo s c fl f
            let s2 := if rs.isEmpty then flushOther s1 else stamp s1
            some (logRecs (atIssue s2 c k q take id) c k (rs.map (fun r => { r with time := s2.now })))
          | _ => issueFly s c k st q op take

/-! The B stream's choice (R105-R107). -/

/-- A matrix command that takes part in the choice: not malformed, not poisoned. -/
def isMmaCmd (s : State) (st : Stream) (q : QCmd) : Bool :=
  q.poison.isNone && (match q.op with
    | some (.mma f) => !issueBad s 1 st q (.mma f)
    | _ => false)

/-- Commands decoded and not issued that the window holds (R192). -/
def winRoom : Nat := 384

/-- Decodes matrix commands up to the next barrier into the window, while it has room (R107, R192; `barrierAt`, assumption log 111). -/
def fillWin (s : State) (c : Nat) : Nat → State
  | 0 => s
  | n + 1 =>
    let s1 := dropFront s c 1 1024
    let st := getStrm s1 c 1
    match frontCmd st with
    | some q =>
      if st.skip == 0 && !loadHeld st q && isMmaCmd s1 st q && st.win.length < winRoom then
        fillWin (setStrm s1 c 1 (takeFront { st with win := st.win ++ [{ q with dec := st.decN }], decN := st.decN + 1 } q.pos)) c n
      else s1
    | none => s1

/-- Comparator events at the front of the window are due. -/
def duePseudo : Nat → Stream → Stream
  | 0, st => st
  | n + 1, st =>
    match st.win with
    | q :: t => (match q.op with
      | some op =>
        if q.pseudo then
          duePseudo n { st with win := t, nextId := st.nextId + 1,
                                fly := st.fly ++ [{ id := st.nextId, dec := q.dec, pos := q.pos, hdr := q.hdr, op := op, pseudo := true,
                                                    step := st.step }] }
        else st
      | none => st)
    | [] => st

def namesLoom (q : QCmd) (l : Nat) : Bool :=
  match q.op with
  | some (.mma f) => f.loom.toNat == l
  | _ => false

def prodIs (q : QCmd) (p : Nat) : Bool :=
  match q.op with
  | some (.mma f) => f.prod.toNat == p
  | _ => false

/-- The next matrix command for a backward loom (R107), as an index of the window. -/
def pickFor (x : Cell) (st : Stream) (barrier : Bool) (l : Nat) : Option Nat :=
  let want := if l == 1 then x.bwd.pat0 / 2 ^ x.patPos0 % 2 else x.bwd.pat1 / 2 ^ x.patPos1 % 2
  match st.win.findIdx? (fun q => !q.pseudo && namesLoom q l && prodIs q want) with
  | some i => some i
  | none => if barrier then st.win.findIdx? (fun q => !q.pseudo && namesLoom q l) else none

/-- The pattern position of a loom advances (R107). -/
def advancePat (x : Cell) (l : Nat) : Cell :=
  if l == 1 then { x with patPos0 := if x.patPos0 ≥ x.bwd.len0 then 0 else x.patPos0 + 1 }
  else { x with patPos1 := if x.patPos1 ≥ x.bwd.len1 then 0 else x.patPos1 + 1 }

def qLoom (q : QCmd) : Nat :=
  match q.op with
  | some (.mma f) => f.loom.toNat
  | _ => 0

/-- Drops at the front, and decodes the B stream's window. -/
def prepare (s : State) (c k : Nat) : State :=
  if k == 1 then
    let s1 := fillWin s c 512
    modStrm s1 c 1 (fun st => duePseudo 64 st)
  else dropFront s c k 1024

/-- The B stream has decoded a barrier behind its window (R107): any command but a matrix command. A command that a counter load
holds back is not decoded, and the stream waits. DESIGN CHOICE: a window of 384 commands (R192) can take no more, so what
stands behind it acts as a barrier (assumption log 111). -/
def barrierAt (s : State) (st : Stream) : Bool :=
  match frontCmd st with
  | some q => st.skip == 0 && !loadHeld st q && (!isMmaCmd s st q || st.win.length ≥ winRoom)
  | none => st.win.length ≥ winRoom

/-- The B stream's choice between its looms: the older of the two picks. A pick does not go ahead of commands for the other loom while
what is decoded does not settle which of them that loom takes, so the order of issue never depends on timing (R107). -/
def pickNext (x : Cell) (st : Stream) (barrier : Bool) : Option Nat :=
  let clear (l i : Nat) : Option Nat := if (st.win.take i).any (fun q => !q.pseudo && namesLoom q l) then none else some i
  match pickFor x st barrier 1, pickFor x st barrier 2 with
  | some i, some j => some (min i j)
  | some i, none => clear 2 i
  | none, some j => clear 1 j
  | none, none => none

/-- The command a stream presents to the arbiter, and how it leaves the queue. -/
def presented (s : State) (c k : Nat) : Option (QCmd × (Stream → Stream) × Option Nat) :=
  let st := getStrm s c k
  let front := (frontCmd st).bind (fun q => if loadHeld st q || st.skip > 0 then none else
    some (q, (fun x : Stream => takeFront x q.pos), (none : Option Nat)))
  if k == 1 && !st.win.isEmpty then
    (pickNext (getCell s c) st (barrierAt s st)).bind (fun i => (st.win[i]?).map (fun q =>
      (q, (fun x : Stream => { x with win := x.win.eraseIdx i }), some (qLoom q))))
  else front

/-- The stream may issue: live, its cell not paused, and no claim of its own waits (R19, R122). -/
def mayIssue (s : State) (c k : Nat) : Bool :=
  let st := getStrm s c k
  st.mode == .live && !(getCell s c).paused && !(k == 2 && st.fly.any (fun f => f.waiting))

/-- Issue without the arbiter. -/
def coreIssue (rr : State → Nat → Nat) (s : State) (c k : Nat) : Option State :=
  if !mayIssue s c k then none
  else match presented s c k with
    | none => none
    | some (q, take, l) =>
      match issueCmd rr s c k q take with
      | none => none
      | some s1 => match l with
        | some i => if (getStrm s1 c k).mode == .live then some (modCell s1 c (fun x => advancePat x i)) else some s1
        | none => some s1

/-- The arbiter holds the command back (R394, R395, R398). -/
def arbHolds (rr : State → Nat → Nat) (s : State) (c k : Nat) (q : QCmd) : Bool :=
  if isOne q.hdr.crit then false
  else if s.alm.late then true
  else match cellWeather s c with
    | 3 => !(getStrm s c k).relieved
    | 2 => q.hdr.ec.toNat ≥ 2 && (List.range 4).any (fun j => j != k && (coreIssue rr (prepare s c j) c j).isSome)
    | _ => false

/-- What another stream of the cell presents to the arbiter and would issue now (R394). -/
def contender (rr : State → Nat → Nat) (s : State) (c j : Nat) : Option QCmd :=
  let t := prepare s c j
  match presented t c j with
  | some (q, _, _) => if (coreIssue rr t c j).isSome && !arbHolds rr t c j q then some q else none
  | none => none

/-- The other streams that present a command, each with it. -/
def rivals (rr : State → Nat → Nat) (s : State) (c k : Nat) : List (Nat × QCmd) :=
  (List.range 4).filterMap (fun j => if j == k then none else (contender rr s c j).map (fun q => (j, q)))

/-- The keys of Table 13-5, first one first: the lower list goes first. A command that a relief lets go counts as critical (R395). -/
def arbKey (s : State) (c j : Nat) (q : QCmd) : List Nat :=
  let x := getStrm s c j
  let w := cellWeather s c
  let crit := if isOne q.hdr.crit || (w == 3 && x.relieved) then 0 else 1
  let tail := [x.shown.getD (getCell s c).arbN, j]
  let ec := q.hdr.ec.toNat
  match w with
  | 0 => crit :: tail
  | 2 => (if ec ≥ 2 then 1 else 0) :: crit :: ec :: tail
  | _ => crit :: ec :: tail

def lexLt : List Nat → List Nat → Bool
  | a :: as, b :: bs => a < b || (a == b && lexLt as bs)
  | _, _ => false

/-- Commands that stay presented after an arbitration are the longer presented at the next ones. -/
def showAll (s : State) (c : Nat) (js : List Nat) : State :=
  let n := (getCell s c).arbN
  modCell (js.foldl (fun s j => modStrm s c j (fun x => { x with shown := some (x.shown.getD n) })) s) c (fun x => { x with arbN := n + 1 })

/-- The next command is a WAIT whose flag has not come. -/
def atWait (s : State) (c k : Nat) : Bool :=
  let x := getStrm s c k
  match (frontCmd x).bind (fun q => q.op) with
  | some (.wait o) => !((flagValue x o).ule (getFlag s c (isOne o.scope) o.flag.toNat (x.step % 2)))
  | _ => false

/-- A row finds the stream in state WAIT: the cycles it has spent there since a row last did are counted; their number is free (R504,
assumption log 145). -/
def waitSeen (s : State) (c k : Nat) : State :=
  if atWait s c k then
    { modStrm s c k (fun x => { x with waitcyc := perfAdd x.waitcyc (Config.waitCycles s.free c k) }) with free := s.free + 1 }
  else s

/-- The next command of a stream issues, unless the arbiter holds it or takes another stream's, which then goes in that stream's own row
(R394, assumption log 97); whether it did. -/
def issueNext (rr : State → Nat → Nat) (s0 : State) (c k : Nat) : State × Bool :=
  if !mayIssue s0 c k then (s0, false)
  else
    let s := prepare s0 c k
    match presented s c k with
    | none => (settle s c k, false)
    | some (q, _, _) =>
      match coreIssue rr s c k with
      | none => (waitSeen (settle s c k) c k, false)
      | some s1 =>
        if arbHolds rr s c k q then (modStrm s c k (fun x => { x with held := true }), false)
        else
          let rs := rivals rr s c k
          if rs.isEmpty then (settle s1 c k, true)
          else if rs.any (fun p => lexLt (arbKey s c p.1 p.2) (arbKey s c k q)) then (showAll s c (k :: rs.map (fun p => p.1)), false)
          else (settle (showAll s1 c (rs.map (fun p => p.1))) c k, true)

/-! Commit points (R195, R196). -/

/-- A committed DRV_CLOSE whose session has not ended yet. -/
def closeWaits (f : Fly) : Bool :=
  !f.done && (match f.op with
    | .drvClose _ => true
    | _ => false)

/-- Commands that read or write memory beyond their cell's bench store. -/
def reachesHbm (op : Op) : Bool :=
  match op with
  | .ucommit _ | .move _ | .ratom _ | .drvSubmit _ | .drvSend _ | .millRs _ | .millAg _ | .millAr _ | .millBc _ => true
  | _ => false

/-- A command in flight reaches its commit point, faults before it, or waits (none). -/
def commitOne (rr : State → Nat → Nat) (rw : State → Nat → Nat → State) (s : State) (c k : Nat) (f : Fly) : Option State :=
  if (f.committed && !closeWaits f) || (isLathe f.op && latheBehind s c f) then none
  else
    let r := match f.op with
      | .mma o => mmaCommit s c k f o false
      | .ucommit o => ucommitCommit s c k f o
      | .vpub o => vpubCommit s c k f o
      | .vote => (voteCommit s c k f).map (fun s1 => castVote s1 f.step)
      | .ldt o => ldtCommit s c k f o
      | .stt o => sttCommit s c k f o
      | .card o => cardCommit s c k f o
      | .red o => redCommit s c k f o
      | .zmap o => zmapCommit s c k f o
      | .tbl o => tblCommit s c k f o
      | .move o => moveCommit rr rw s c k f o
      | .rsig o => rsigCommit s c k f o
      | .ratom o => ratomCommit s c k f o
      | .drvSubmit o => submitCommit s c k f o
      | .drvSend o => sendCommit s c k f o
      | .drvClose o => closeCommit s c k f o
      | .millRs o => millCommit s c k f o 0x70
      | .millAg o => millCommit s c k f o 0x71
      | .millAr o => millCommit s c k f o 0x72
      | .millBc o => millCommit s c k f o 0x73
      | _ => none
    r.map (fun s1 => settle (flushWt (if reachesHbm f.op then hbmSeen s1 else s1) c k f.id) c k)

/-- The newest command in flight commits at once when it can. -/
def commitNewest (rr : State → Nat → Nat) (rw : State → Nat → Nat → State) (s : State) (c k : Nat) : State :=
  match ((getStrm s c k).fly.filter (fun f => !f.pseudo)).getLast? with
  | some f => (commitOne rr rw s c k f).getD s
  | none => s

/-- Issues the next command and lets it commit. -/
def stepIssue (rr : State → Nat → Nat) (rw : State → Nat → Nat → State) (s : State) (c k : Nat) : State :=
  let before := (getStrm s c k).nextId
  match issueNext rr s c k with
  | (s1, true) => if (getStrm s1 c k).fly.any (fun f => before ≤ f.id && !f.pseudo) then commitNewest rr rw s1 c k else s1
  | (s1, false) => s1

/-- COMMAND_COMMIT: the oldest waiting command that can commits; else the next one issues. -/
def commandCommit (rr : State → Nat → Nat) (rw : State → Nat → Nat → State) (s : State) (c k : Nat) : State :=
  match ((getStrm s c k).fly.filter (fun f => !f.committed || closeWaits f)).findSome? (commitOne rr rw s c k) with
  | some s1 => s1
  | none => stepIssue rr rw s c k

/-- A stream command stands at HEAD (R190): it is fetched, and issues when nothing stands before it. -/
def present (rr : State → Nat → Nat) (rw : State → Nat → Nat → State) (s : State) (c : CellIx) (t : Strm) (h : Hdr)
    (op : Op) : State :=
  let c := c.val
  let k := ixOf t
  let st := getStrm s c k
  if st.mode != .live || st.queue.length + st.win.length ≥ 512 then s
  else
    let n := (st.head + 1) % 2 ^ st.log2
    let q : QCmd := {
      pos := st.head, hdr := h, op := some op, mill := (millFields op).map (fun o => (o.group.toNat, o.cseq.toNat))
      body := match op with
        | .loop f => f.body.toNat + 1
        | _ => 0 }
    let first := st.queue.length ≤ st.nxt && st.win.isEmpty
    let s1 := setStrm s c k { st with queue := st.queue ++ [q], head := n, tail := if st.head == st.tail then n else st.tail }
    if first then stepIssue rr rw s1 c k else s1

/-! Completion (R197). -/

/-- The command's own effects as it completes: records, tags, marks, tallies. -/
def completeEffects (s : State) (c k : Nat) (f : Fly) : State :=
  let s1 := readyOuts s c f.outs
  let s2 := if f.recs.isEmpty then s1 else logRecs s1 c k f.recs
  let s3 := if f.rels.isEmpty then s2 else flushOther (f.rels.foldl (fun s r => vtChange s f.step c r.1 (.release r.2)) s2)
  match f.op with
  | .mma op => (match f.mma with
    | some r => loomMarks s3 c op r
    | none => s3)
  | .card _ => bumpPerf s3 (0x3023 + 0x40 * c) 2 1
  | .red _ => bumpPerf s3 (0x3023 + 0x40 * c) 3 1
  | _ => s3

/-- Every message of a Mill command has left (R303). -/
def leftMill (s : State) (c : Nat) (f : Fly) : Bool :=
  match runOf s c f.id with
  | some r => millSent s r
  | none => true

/-- COMMAND_COMPLETE: the i-th of the commands whose effects are all done completes. -/
def commandComplete (s : State) (c k i : Nat) : State :=
  match ((getStrm s c k).fly.filter (fun f => f.done))[i]? with
  | none => s
  | some f =>
    if f.remote != 0 || !f.stalled.isEmpty || (isMill f.op && !leftMill s c f) then s
    else
      let s1 := removeFly (completeEffects s c k f) c k f
      settle (if isMill f.op then millLeave s1 f else s1) c k

/-- COUNTER_LOAD: the oldest load's value arrives (R209). -/
def counterLoad (s : State) (c k : Nat) : State :=
  let st := getStrm s c k
  match st.loads, st.fly.find? (fun f => match f.op with
      | .cnt _ => true
      | _ => false) with
  | (d, v) :: t, some f =>
    settle (removeFly (setStrm s c k (setCtrAt { st with loads := t } f d v)) c k f) c k
  | _, _ => s

/-! Waits: watchdogs and the deadlock detector (R217-R219, R124, R125). -/

/-- Where a wait is: a command in flight, the next command of the stream, or a running command of a loom. -/
inductive WaitAt
  | fly (f : Fly)
  | front (q : QCmd)
  | loom (l : Nat) (f : Fly) (op : MmaOp)
  deriving DecidableEq, Repr

/-- A wait: where, its kind (R219; 6 a Drover session, 7 none of them), its object, whether the watchdog times it, the streams
it depends on. -/
structure Waiting where
  at_   : WaitAt
  kind  : Nat
  obj   : Nat
  timed : Bool
  deps  : List (Nat × Nat)

/-- The part of a stream's queue that has still to issue: from the next command on, and the bodies of active loops that run
again. -/
def unissued (st : Stream) : List QCmd :=
  match (st.loops.filter (fun l => l.left > 0)).map (fun l => l.start) with
  | [] => st.queue.drop st.nxt
  | b :: bs => st.queue.drop (bs.foldl min (min b st.nxt))

/-- Streams of the cell whose queue holds an unissued FLAG of a cell flag (R218). -/
def flagSetters (s : State) (c fl : Nat) : List (Nat × Nat) :=
  ((List.range 4).filter (fun k => !(getCell s c).paused && (unissued (getStrm s c k)).any (fun q => match q.op with
    | some (.flag o) => o.scope == 0#1 && o.flag.toNat == fl
    | _ => false))).map (fun k => (c, k))

/-- A pop that waits for a place. -/
def popWait (s : State) (c : Nat) (w : WaitAt) (a : HAcc) : Waiting :=
  ⟨w, 1, a.h, true, if placeLost s c a then [(c, (getHop s c a.h).prod)] else []⟩

/-- A staged operand of a matrix command waits for its version (R120). -/
def acquireWait (s : State) (c : Nat) (f : Fly) : Option Nat :=
  let one (r : Role) : Option Nat := match roleDesc s c f r 0 with
    | some d => if dStaged d && vtCheck s c f.step d == .wait then some (dEntry d) else none
    | none => none
  match one .ha with
  | some e => some e
  | none => one .hb

/-- The wait of an uncommitted command in flight, none when none of the manual's waits holds it. -/
def flyWait (s : State) (c : Nat) (f : Fly) : Option Waiting :=
  match f.acc.find? (fun a => a.kind != .push && !a.done && (accDesc s c a).isNone) with
  | some a => (match f.op with
    | .mma _ =>
      -- later panels are not awaited before the commit point
      (match f.acc.find? (fun b => b.kind != .push && (accDesc s c b).isNone && accOf f b.role 0 == some b) with
       | some b => some (popWait s c (.fly f) b)
       | none => (acquireWait s c f).map (fun e => ⟨.fly f, 5, e, false, [(c, 2)]⟩))
    | _ => some (popWait s c (.fly f) a))
  | none =>
    match f.op with
    | .mma _ => (acquireWait s c f).map (fun e => ⟨.fly f, 5, e, false, [(c, 2)]⟩)
    | .ucommit o =>
      if f.waiting then
        let e := getVt s c o.entry.toNat
        let onRef := vtSlotRef e (1 - e.cur) != 0
        some ⟨.fly f, 3, o.entry.toNat, onRef, if onRef then [(c, 1)] else []⟩
      else if (verdictOf s f.gstep).isNone then
        some ⟨.fly f, 4, f.gstep % 2, false, ((List.range 64).filter (fun d => !voteIssued s d f.gstep)).map (fun d => (d, 1))⟩
      else none
    | .vpub _ =>
      if (verdictOf s f.gstep).isNone then
        some ⟨.fly f, 4, f.gstep % 2, false, ((List.range 64).filter (fun d => !voteIssued s d f.gstep)).map (fun d => (d, 1))⟩
      else none
    | .drvSubmit o => if f.waiting && s.sess.length ≥ 8 && (sessIx s (32 * o.desc.toNat) o.mb.toNat f.step).isNone then some ⟨.fly f, 6, 0, true, []⟩ else none
    | _ => none

/-- The first push place that holds the issue of accesses (R199): hopper and push number. `n` are the pushes of the command
counted so far. -/
def pushBlock (s : State) (c : Nat) : List (Role × Nat × HKind) → Tab Nat → Option (Nat × Nat)
  | [], _ => none
  | (_, h, kd) :: t, n =>
    if kd == .push then
      let i := (getHop s c h).pushN + tget 0 n h
      if i ≥ 8 && !popped (getHop s c h) (i - 8) then some (h, i) else pushBlock s c t (tset n h (tget 0 n h + 1))
    else pushBlock s c t n

/-- The first place that the pops and peeks of accesses would find not ready. -/
def popBlock (s : State) (c : Nat) (l : List (Role × Nat × HKind)) : Option HAcc :=
  match reserve s c l 0 with
  | some (s1, acc) => acc.find? (fun a => a.kind != .push && (accDesc s1 c a).isNone)
  | none => none

/-- The wait of a stream's next command: a WAIT, a push place that is not free, or a lathe panel that is not ready (R199,
R216, R217). -/
def frontWait (rr : State → Nat → Nat) (s : State) (c k : Nat) : Option Waiting :=
  match presented s c k with
  | none => none
  | some (q, take, _) =>
    if (issueCmd rr s c k q take).isSome then none
    else match q.op with
      | some (.wait o) =>
        let far := isOne o.scope || o.flag.toNat ≥ 224
        some ⟨.front q, 0, o.flag.toNat, true, if far then [] else flagSetters s c o.flag.toNat⟩
      | some op =>
        (match pushBlock s c (opAcc s op) [] with
         | some (h, i) => some ⟨.front q, 2, h, true, if (getHop s c h).popN ≤ i - 8 then [(c, (getHop s c h).cons)] else []⟩
         | none => if isLathe op then (popBlock s c (opAcc s op)).map (popWait s c (.front q)) else none)
      | none => none

/-- FLAG, UDONE, RSIG and VOTE in flight only follow earlier commands. -/
def follows (op : Op) : Bool :=
  match op with
  | .flag _ | .udone _ | .rsig _ | .vote => true
  | _ => false

/-- An earlier command of the stream stands before it: on its loom, at the lathe, under the verdict, in its Mill group
(R83, R170, R123, R303). -/
def behindOwn (s : State) (c k : Nat) (f : Fly) : Bool :=
  match f.op with
  | .mma o => mmaBehind s c k f o
  | .ucommit _ | .vpub _ => gatedBehind s c k f
  | .millRs o | .millAg o | .millAr o | .millBc o => millBehind s c f o.group.toNat
  | op => isLathe op && latheBehind s c f

/-- A stream as the detector sees it: its waits when it is blocked, none when it can proceed. -/
def blockedBy (rr : State → Nat → Nat) (s0 : State) (c k : Nat) : Option (List Waiting) :=
  if !((getStrm s0 c k).mode == .live) || (getCell s0 c).paused then none
  else
    let s := prepare s0 c k
    let st := getStrm s c k
    let looms := (List.range 3).filterMap (fun l => match loomWait s c l with
      | some (j, f, op, a :: _) => if j == k then some (popWait s c (.loom l f op) a) else none
      | _ => none)
    let busy := st.fly.any (fun f => f.committed && !looms.any (fun w => match w.at_ with
      | .loom _ g _ => g.id == f.id
      | _ => false))
    let fs := st.fly.filter (fun f => !f.committed && !follows f.op)
    -- a command that nothing but an earlier one of its stream holds back does not make the stream able to proceed
    let free := fs.any (fun f => (flyWait s c f).isNone && !behindOwn s c k f) ||
      st.fly.any (fun f => !f.committed && f.op == .vote && (voteCommit s c k f).isSome)
    if busy || free || (coreIssue rr s c k).isSome then none
    else
      let all := looms ++ fs.filterMap (flyWait s c) ++ (frontWait rr s c k).toList
      -- a next command that waits for something else than the manual's kinds is able to proceed
      if (presented s c k).isSome && mayIssue s c k && (frontWait rr s c k).isNone then none
      else if all.isEmpty then none else some all

/-- The wait whose watchdog runs: the oldest timed one (R217). -/
def timedWait (rr : State → Nat → Nat) (s0 : State) (c k : Nat) : Option Waiting :=
  if (getCell s0 c).paused then none
  else
    let s := prepare s0 c k
    let st := getStrm s c k
    let looms := (List.range 3).filterMap (fun l => match loomWait s c l with
      | some (j, f, op, a :: _) => if j == k then some (popWait s c (.loom l f op) a) else none
      | _ => none)
    let ws := (st.fly.filter (fun f => !f.committed && !follows f.op)).filterMap (flyWait s c)
    (looms ++ ws ++ (if st.mode == .live then (frontWait rr s c k).toList else [])).find? (fun w => w.timed)

/-- A wait ends with a cause that halts the stream, not faulted. -/
def endWait (s : State) (c k : Nat) (w : Waiting) (cause row col : Nat) : State :=
  match w.at_ with
  | .fly f => endFly s c k f (recOf s f cause 5 row col 0 (opTile f.op))
  | .front q => haltIssue s c k q cause row col (qTile q)
  | .loom l f op => mmaLost s c k l f op cause

/-- WAIT_TIMEOUT: the watchdog of a timed wait expires; a wait that has become true issues instead. -/
def waitTimeout (rr : State → Nat → Nat) (rw : State → Nat → Nat → State) (s : State) (c k : Nat) : State :=
  match timedWait rr s c k with
  | some w =>
    let s1 := raise (prepare s c k) 0x0A22 ([c, k, w.kind, 0] ++ pb (if w.kind == 6 then 0 else w.obj) 2)
    endWait s1 c k w 5 0 0
  | none => commandCommit rr rw s c k

/-- Removes members that are not blocked wholly within the set, until none is left to remove. -/
def shrink (ms : List ((Nat × Nat) × List Waiting)) : Nat → List ((Nat × Nat) × List Waiting)
  | 0 => ms
  | n + 1 =>
    let keep := ms.filter (fun m => m.2.all (fun w => !w.deps.isEmpty && w.deps.all (fun d => ms.any (fun x => x.1 == d))))
    if keep.length == ms.length then ms else shrink keep n

def allStreams : List (Nat × Nat) := (List.range 64).flatMap (fun c => (List.range 4).map (fun k => (c, k)))

/-- DEADLOCK_DETECTOR: every stream of the greatest deadlocked set halts (R218, R219). -/
def deadlockDetector (rr : State → Nat → Nat) (s : State) : State :=
  let ms := allStreams.filterMap (fun p => (blockedBy rr s p.1 p.2).map (fun ws => (p, ws)))
  let dead := shrink ms 257
  if dead.isEmpty then s
  else
    let first (m : (Nat × Nat) × List Waiting) : Nat × Nat := match m.2 with
      | w :: _ => (w.kind, w.obj)
      | [] => (0, 0)
    let names := (dead.take 8).flatMap (fun m => [m.1.1, m.1.2, (first m).1, (first m).2 % 256])
    let s1 := raise s 0x0A21 (names ++ pb dead.length 4)
    dead.foldl (fun s m =>
      match m.2 with
      | w :: _ => endWait (prepare s m.1.1 m.1.2) m.1.1 m.1.2 w 7 (first m).2 (first m).1
      | [] => s) s1

end Sys2Proof.Machine
end

