-- ==== Sys2Proof/Machine/Ledger.lean ====
section
/-! DEFINITION. Steps and the Ledger (R323-R347): posts, opening, COMPUTED, the replica fold, reports and decisions,
seal actions, and rollback. -/
namespace Sys2Proof.Machine

/-! The journal (R325, R326). -/

def getJr (s : State) (p : Nat) : JEntry := tget {} s.jr p

def setJr (s : State) (p : Nat) (j : JEntry) : State := { s with jr := tset s.jr p j }

/-- Header bytes 0-103 of an entry (Table 11-3). -/
def hdrBytes (j : JEntry) : List Byte :=
  natLe j.step 8 ++ natLe j.epochOpen 4 ++ natLe j.replays 4 ++ natLe j.planId 8 ++ natLe j.seed 8 ++ natLe j.len 8 ++
    (j.digest ++ zeros 32).take 32 ++ natLe j.openTime 8 ++ natLe j.estate 1 ++ natLe 0 7 ++ natLe j.fold.toNat 8 ++ natLe j.foldWords 8

/-- The Ledger writes an entry's header; a shadow's journal copy is the pattern's to write (R370). -/
def writeHdr (s : State) (p : Nat) : State :=
  if s.hasJournal && !isShadow s then flushLdg (otherWrite s (entryAddr s p) (hdrBytes (getJr s p))) else s

/-- The version tables as a snapshot keyed by 64 * cell + entry. -/
def vtAll (s : State) : Tab VtEntry :=
  s.cells.flatMap (fun p => p.2.vt.map (fun q => (64 * p.1 + q.1, q.2)))

def snapBytes (t : Tab VtEntry) : List Byte := (List.range 4096).flatMap (fun i => vtSnapBytes (tget {} t i))

/-! Posts (R327). -/

/-- The reason a post is refused for, 0 when it is accepted. -/
def postCheck (s : State) (step len : Nat) : Nat :=
  let start := oget s 0x5401 1
  if start == 0 then 6
  else if !s.hasJournal then 4
  else if step == 2 ^ 64 - 1 then 5
  else if step != (match s.lastPosted with
    | some n => n + 1
    | none => start) then 1
  else if (getJr s (step % 2)).estate != 0 then 2
  else if len > oget s 0x5402 2 * 0x100000 then 3
  else 0

def postRefused (s : State) (step err : Nat) : State :=
  let s1 := { s with ldg := { s.ldg with postErr := err } }
  let s2 := raise (signalVec s1 1) 0x0C1A (pb step 8 ++ [err])
  if step == 2 ^ 64 - 1 then raiseOnce s2 0x0C18 0 [] else s2

/-- GO of LDG_POST_CTL: the post of a step with an input length. -/
def post (s : State) (step len : Nat) : State :=
  match postCheck s step len with
  | 0 => { setJr s (step % 2) { estate := 1, step := step, len := len } with lastPosted := some step }
  | e => postRefused s step e

/-- Writes of the host and the bulk transport still wait or are unacknowledged by the holder (R355). -/
def wtOut (s : State) : Bool :=
  s.trk.any (fun e => e.2.kind == 1 || e.2.kind == 5) || s.scrQ.any (fun w => w.kind == 1 || w.kind == 5) || !s.pendW.isEmpty

/-- HASHING_DONE: the digest is formed once the input area is acknowledged, and the header written; with the holder's
acknowledgement of the header the entry is POSTED (R327, R355). -/
def hashingDone (s : State) (p : Nat) : State :=
  let j := getJr s p
  if j.estate != 1 || j.posting || wtOut s then s
  else
    let d := sha256 (memRead s (entryAddr s p + 0x02200000) j.len)
    let s1 := flushLdg (otherWrite s (entryAddr s p) (hdrBytes { j with digest := d, estate := 2 } ++ zeros (4096 - 104)))
    ledgerSettle (setJr s1 p { j with digest := d, posting := true })

/-! Opening a step (R329, R330). -/

/-- The fold group (R337): none without one, or a valid RING, or invalid. -/
inductive FoldGrp
  | none
  | ring (g : MGroup)
  | bad
  deriving DecidableEq, Repr

def foldGroup (s : State) : FoldGrp :=
  let gid := oget s 0x5401 4
  if gid == 0 then .none
  else match findGid s gid with
    | some g => if g.ring && !g.fore then .ring g else .bad
    | none => .bad

/-- Every stream has passed the STEPMARK of a step (R212). -/
def allPassed (s : State) (n : Nat) : Bool :=
  allStreams.all (fun p => let x := getStrm s p.1 p.2; x.entered && x.step ≥ n)

/-- A quiet change waits (R343). -/
def quietWaits (s : State) : Bool := !s.ldg.qMap.isEmpty || !s.ldg.qScr.isEmpty

/-- The entry of a step may open it: POSTED, or IN_USE after a rollback. -/
def entryReady (s : State) (n : Nat) : Bool :=
  let j := getJr s (n % 2)
  j.step == n && (j.estate == 2 || (j.estate == 3 && s.steps.any (fun t => t.num == n && !t.isOpen)))

/-- R329 but for the quiet change and the fold group; no step opens without a registered job key (R30). -/
def mayOpen (s : State) (n : Nat) : Bool :=
  let start := oget s 0x5401 1
  (s.inPlan || s.plan.isNone) && entryReady s n && !s.steps.any (fun t => t.num == n && t.isOpen) &&
    (n == start || s.steps.any (fun t => t.num + 1 == n && t.isOpen) || s.released + 1 ≥ n ||
      s.ldg.relWait.any (fun w => w.1 + 1 == n)) &&
    (n < start + 2 || s.released + 2 ≥ n) && (n == start || allPassed s (n - 1)) &&
    !s.holding && s.roll.isNone && start != 0 && n ≥ start && s.lock.jok.isSome

/-- The step that would open next. -/
def nextOpen (s : State) : Option Nat :=
  let a := (getJr s 0).step
  let b := (getJr s 1).step
  ((if a ≤ b then [a, b] else [b, a])).find? (mayOpen s)

/-- The flags of a parity become 0 (R213). -/
def clearFlags (s : State) (par : Nat) : State :=
  let keep (q : Nat × Word) : Bool := q.1 % 2 != par
  { s with dflags := s.dflags.filter keep, cells := s.cells.map (fun p => (p.1, { p.2 with flags := p.2.flags.filter keep })) }

/-- Signals held for a step apply when it opens, in their order (R276). -/
def applyHeld (s : State) (n : Nat) : State :=
  let mine := s.heldSig.filter (fun q => sgStep q.2 == n % 2 ^ 32)
  mine.foldl (fun s q => releaseSig s n q) { s with heldSig := s.heldSig.filter (fun q => sgStep q.2 != n % 2 ^ 32) }

/-! Fronts (R356, R358, R372). -/

/-- The 2 MiB units of a region. -/
def unitsOf (base size : Nat) : List Nat := (List.range (size / 0x200000)).map (fun i => base + i * 0x200000)

/-- Units of a mirror or shadow pass in the order of R358; `all`: IDENTICAL regions too (a shadow has none of them). -/
def passUnits (s : State) (all : Bool) : List Nat :=
  let on (f : Nat) : Bool := all || f % 2 == 1
  ((bankRegions s).filter (fun k => on (oget s 0x5802 (k + 1)))).flatMap (fun k =>
      ((unitsOf (bankBase s k 0) (bankSize s k)).zip (unitsOf (bankBase s k 1) (bankSize s k))).flatMap (fun p => [p.1, p.2])) ++
    ((singles s).filter (fun k => on (singleFlags s k))).flatMap (fun k => unitsOf (singleBase s k) (singleSize s k)) ++
    (if s.hasJournal then unitsOf (journalBase s) (2 * entrySize s) else [])

/-- The step whose checkpoint begins at an open: the one sealed or skipped last; the step before the job's first while none is
(R372, assumption log 120). -/
def ckptStep (s : State) : Nat := if oget s 0x5400 3 + 1 ≥ oget s 0x5401 1 then oget s 0x5400 3 else oget s 0x5401 1 - 1

/-- Units of a checkpoint that holds the state at the start of step n (R372). -/
def ckptUnits (s : State) (n : Nat) : List Nat :=
  ((bankRegions s).filter (fun k => oget s 0x5802 (k + 1) / 2 % 4 != 2)).flatMap (fun k =>
      unitsOf (bankBase s k (n % 2)) (bankSize s k)) ++
    ((singles s).filter (fun k => singleFlags s k / 2 % 2 == 1)).flatMap (fun k => unitsOf (singleBase s k) (singleSize s k))

def mirrorFront (us : List Nat) (b : Nat) : Front := { kind := 0, units := us, dest := b }

def ckptFront (us : List Nat) (ep step epoch : Nat) (vt : Tab VtEntry) : Front :=
  { kind := 2, units := us, dest := ep, step := step, epoch := epoch, vtab := vt }

/-- The mirror pass begins (R356). -/
def startMirror (s : State) : State :=
  match buddyOf s with
  | none => { s with rcv := { s.rcv with mirrorDue := false } }
  | some b =>
    let us := passUnits s false
    let s1 := { s with rcv := { s.rcv with mirrorDue := false },
                       fronts := s.fronts.filter (fun f => f.kind ≠ 0) ++ [mirrorFront us b] }
    oset (oset s1 0x5800 2 1) 0x5800 4 0

/-- The holder of a lost mirror can be reached again (R356). -/
def mirrorBack (s : State) : Bool :=
  oget s 0x5800 2 == 3 && (match buddyOf s with
    | some b => (liveRoute s b).isSome
    | none => false)

/-- Fronts that begin as a step opens. -/
def startFronts (s : State) : State :=
  let s1 := if s.rcv.mirrorDue || mirrorBack s then startMirror s else s
  match s1.rcv.ckptDue with
  | some ep =>
    if s1.fronts.any (fun f => f.kind == 2) then s1
    else
      let c := ckptStep s1
      { s1 with rcv := { s1.rcv with ckptDue := none },
                fronts := s1.fronts ++ [ckptFront (ckptUnits s1 (c + 1)) ep c s1.epoch (getJr s1 ((c + 1) % 2)).vtSnap] }
  | none => s1

/-- A tee begins with the first step that opens after the shadow pass (R370). -/
def startTee (s : State) (n : Nat) : State :=
  match s.tee with
  | some t => if t.passed && t.first.isNone then { s with tee := some { t with first := some n } } else s
  | none => s

/-! The gang forecast (R400-R402). -/

/-- The largest duty from 1 to 16 whose power stays within 0.95 B, by sums over the interval's updates; 1 when none does. -/
def fpDuty (pu l16 b : Nat) : Nat :=
  ((List.range 16).foldl (fun a i => if 16 * pu * 100 + (i + 1) * l16 * 100 ≤ 95 * 16 * b then i + 1 else a) 1)

/-- GANG_FREEZE: the forecast for the step after n (R400); its budget is the object's, since PWRCAP_N does not enter it. What was frozen
before stands until its step seals (R402, assumption log 150). -/
def gangFreeze (s : State) (n : Nat) : State :=
  let a := s.alm
  let fp := fpDuty a.puSum a.l16Sum (a.budget * a.cnt)
  let ft := if a.cnt == 0 then 16 else a.dSum / a.cnt
  let f := max (oget s 0x5000 4) (min fp (min ft 16))
  let old := if a.gangStep == 0 then none else some (⟨a.gangStep, a.frozen, a.gang, a.gangDev⟩ : GangVal)
  { s with alm := { a with frozen := f, gang := f, gangDev := ownId s, gangStep := n + 1, before := old, freezeDue := false
                           puSum := 0, l16Sum := 0, dSum := 0, cnt := 0 } }

/-- The gang value kept for a step. -/
def gangFor (a : AlmSt) (n : Nat) : Option GangVal :=
  if a.gangStep == n then some ⟨a.gangStep, a.frozen, a.gang, a.gangDev⟩ else a.before.filter (fun v => v.step == n)

/-- Seal action 7 of step n: the gang duty is the value for step n + 1 (R402), and d_dev follows it (R391). -/
def gangSeal (s0 : State) (n : Nat) : State :=
  let s := avsSeal s0
  let own := s.plan.isNone || oget s 0x5000 3 == 0
  match gangFor s.alm (n + 1) with
  | none => dutyFall s
  | some v => dutyFall { s with alm := { s.alm with dGang := if own then v.frozen else v.gang, dGangDev := if own then ownId s else v.dev } }

/-- Messages held for a later epoch are looked at again (R313, R341). -/
def heldAgain (s : State) : State :=
  let now := s.later.filter (fun p => mEpoch p.2 == s.epoch)
  let past := s.later.filter (fun p => mEpoch p.2 < s.epoch)
  let s1 := { s with later := s.later.filter (fun p => mEpoch p.2 > s.epoch) }
  let s2 := past.foldl (fun s _ => staleMill s) s1
  now.foldl (fun s p => putRx s p.1 p.2) s2

/-- The epoch in force is set; the limit is reported each time it is reached (R8, R341). -/
def setEpoch (s : State) (e : Nat) : State :=
  let s1 := { s with epoch := e }
  if e == 0xFFFFFFFF then raiseOnce s1 0x0C19 0 [] else clearOnce s1 0x0C19 0

/-- The device adopts an epoch (R341). -/
def adoptEpoch (s : State) (e : Nat) : State := heldAgain (setEpoch s e)

/-! Rank 0's decisions (R340). -/

/-- A decision of rank 0: it goes down to itself first of all (R341). -/
def decide' (s : State) (n dec dev reason epochNew : Nat) (a b : BitVec 64) : State :=
  let m := jobMsg s 0x35 n (stepStorm s n) (sealWord dec 0 dev reason epochNew a b)
  { modStep s n (fun t => { t with decided := some dec }) with selfDown := s.selfDown ++ [m] }

/-- The oldest step that rank 0 has not decided; none while a rollback it decided is not applied. -/
def undecided (s : State) : Option StepSt :=
  if s.steps.any (fun t => t.decided == some 3 || t.decided == some 4) then none
  else s.steps.find? (fun t => t.decided.isNone)

/-- ROLLBACK or HOLD of the oldest undecided step (R340). -/
def decideBad (s : State) (dev reason : Nat) (a b : BitVec 64) : State :=
  match undecided s with
  | none => s
  | some t =>
    if s.epoch ≥ 0xFFFFFFFF then decide' s t.num 4 dev reason 0xFFFFFFFF a b
    else
      let hold := (getJr s (t.num % 2)).replays ≥ oget s 0x5400 0x0A
      decide' s t.num (if hold then 4 else 3) dev reason (s.epoch + 1) a b

/-- Rank 0 applies a FAULT that it kept to the step that has opened (R340). -/
def keptNow (s : State) : State :=
  match s.ldg.keptFault with
  | some (dev, reason, a, b) => decideBad { s with ldg := { s.ldg with keptFault := none } } dev reason a b
  | none => s

/-! STEP_OPEN. -/

/-- A staged MASTER UCOMMIT of a step still waits for its claim: the step's commit list stays, for its count and for overlaps (R114,
R116, Table 4-5). -/
def commitsLate (s : State) (step : Nat) : Bool :=
  (List.range 64).any (fun c => (getStrm s c 2).fly.any (fun f => f.gstep == step && !f.committed && (match f.op with
    | .ucommit _ => true
    | _ => false)))

/-- What an open writes into its entry at the step's first open (R330). -/
def firstOpen (s : State) (n : Nat) : State :=
  let s0 := stamp s
  let p := n % 2
  let snap := vtAll s0
  let pid := (s0.plan.map (fun q => q.planId)).getD 0
  let j := { getJr s0 p with estate := 3, epochOpen := s0.epoch, planId := pid, seed := oget s0 0x5401 2, openTime := s0.now, vtSnap := snap, opened := true }
  let s1 := setJr s0 p j
  let s2 := { s1 with steps := s1.steps.map (fun t => { t with vtLog := [] }),
                      cells := s1.cells.map (fun q => (q.1, { q.2 with commits := q.2.commits.filter (fun e => e.step % 2 ≠ p || commitsLate s1 e.step) })) }
  gangFreeze (if s2.hasJournal && !isShadow s2 then otherWrite (writeHdr s2 p) (entryAddr s2 p + 0x10000) (snapBytes snap) else s2) n

/-- STEP_OPEN: the next step opens when all of R329 holds. START_STEP opens under the epoch of 0x5401:03 (Table 11-1). -/
def stepOpenDo (s00 : State) : State :=
  let s0 := ledgerSettle s00
  match nextOpen s0 with
  | none => s0
  | some n =>
    let e := if n == oget s0 0x5401 1 && !(getJr s0 (n % 2)).opened then oget s0 0x5401 3 else s0.epoch
    if e ≥ 0xFFFFFFFF then (if s0.epoch == e then s0 else adoptEpoch s0 e)
    else
    let s := s0
    match foldGroup s with
    | .bad =>
      if s.once.contains (0x0C1A, n) then s
      else raiseOnce { s with ldg := { s.ldg with postErr := 6 } } 0x0C1A n (pb n 8 ++ [6])
    | _ =>
      if quietWaits s then (if s.ldg.quietEv then s else raise { s with ldg := { s.ldg with quietEv := true } } 0x0C1B [])
      else
        let p := n % 2
        let s := if s0.epoch == e then s0 else adoptEpoch s0 e
        let s1 := if (getJr s p).opened then
            (let s' := writeHdr (setJr s p { getJr s p with estate := 3 }) p
             if s.alm.freezeDue then gangFreeze s' n else s')
          else firstOpen s n
        let t : StepSt := { num := n, opening := true, vtWhole := s1.steps.any (fun x => x.num == n && x.vtWhole),
                            vtStale := (s1.steps.filter (fun x => x.num == n)).flatMap (fun x => x.vtStale) }
        let s2 := { s1 with steps := s1.steps.filter (fun x => x.num ≠ n), msadd := oget s1 0x2020 3 == 1 }
        let s3 := { s2 with steps := s2.steps.filter (fun x => x.num < n) ++ [t] ++ s2.steps.filter (fun x => n < x.num) }
        keptNow (ledgerSettle (flushLdg (startTee (startFronts (applyHeld (clearFlags s3 p) n)) n)))

/-! COMPUTED and the fold (R332, R336, R337). -/

/-- A stream has reached the STEPMARK after step n, with everything before it completed. -/
def streamThere (s0 : State) (c k n : Nat) : Bool :=
  let x0 := getStrm s0 c k
  if x0.entered && x0.step > n then x0.fly.all (fun f => f.step > n)
  else
    let x := getStrm (prepare s0 c k) c k
    x.mode == .live && x.fly.isEmpty && x.win.isEmpty && (match frontCmd x with
      | some q => (match q.op with
        | some (.stepmark m) => m.toNat == (n + 1) % 2 ^ 32
        | _ => false)
      | none => false)

/-- The ports have verified the groups of the frames that had come by then, by port (R273); a port that trains keeps the groups of its
keys until it has new ones (`dropRxGroups`). -/
def portsVerified (s : State) (need : Tab Nat) : Bool := need.all (fun p => 128 * (getPort s p.1).verified ≥ p.2)

/-- R332 but for the link groups. -/
def computedReady (s : State) (t : StepSt) : Bool :=
  t.isOpen && !t.computed && !t.unver && t.udones.length == 64 && t.verdict.isSome &&
    allStreams.all (fun p => p.2 == 2 || streamThere s p.1 p.2 t.num)

/-- The fold comparison: agreed, failed, or not yet possible (R337). -/
def foldResult (s : State) (t : StepSt) : Option Bool :=
  match foldGroup s with
  | .ring g =>
    if g.size ≤ 1 then some true
    else t.peerFold.map (fun p => decide (p.1 = t.foldVal) && p.2 == t.foldWords)
  | _ => some true

/-- The lowest device that holds a failed comparison, with its two folds (R338). -/
def failRec (s : State) (t : StepSt) (own : Bool) : Nat × BitVec 64 × BitVec 64 :=
  let mine := if own then [] else [(ownId s, t.foldVal, (t.peerFold.map (fun p => p.1)).getD 0#64)]
  let kids := (t.kidReps.filter (fun r => !r.2.2.1)).map (fun r => (r.2.2.2.1, r.2.2.2.2.1, r.2.2.2.2.2))
  (mine ++ kids).foldl (fun m x => if x.1 < m.1 then x else m) (0xFFFF, 0#64, 0#64)

/-- The device's REPORT goes up once everything of R338 is in. -/
def reportAdvance (s : State) (n : Nat) : State :=
  match getStep s n with
  | none => s
  | some t =>
    match foldResult s t with
    | none => s
    | some ok =>
      if !t.computed || t.reportSent || t.kidReps.length < (jobKids s).length then s
      else
        let comp := t.kidReps.all (fun r => r.2.1)
        let fok := ok && t.kidReps.all (fun r => r.2.2.1)
        let (d, a, b) := failRec s t ok
        sendUp (modStep s n (fun u => { u with reportSent := true })) n
          (sealWord 1 ((if comp then 1 else 0) + (if fok then 2 else 0)) d 0 0 a b)

/-- The pattern's fold goes to its shadow (R370). -/
def teeFold (s : State) (n : Nat) (w : List Byte) : State :=
  match s.tee with
  | some t =>
    (match t.first, t.ports with
     | some f, p :: _ =>
       if f ≤ n then enqueue s p { mtype := 0x56, vc := 5, part := ownPart s, src := ownId s, dst := t.dev,
                                   spec := millSpec 0 0 0 0 0 0 n s.epoch, data := [dword w] } else s
     | _, _ => s)
  | none => s

/-- LEDGER_FOLD over rail 0 toward rank + 1 (R337). -/
def sendFold (s : State) (n : Nat) (v : BitVec 64) (words : Nat) : State :=
  let w := natLe v.toNat 8 ++ natLe words 8
  let s1 := teeFold s n w
  match foldGroup s1 with
  | .ring g =>
    if g.size ≤ 1 then s1
    else match g.links.head? with
      | some l => sendLink s1 l.1 { mtype := 0x50, vc := 5, part := ownPart s1, src := ownId s1,
                                    spec := millSpec g.gid g.rank 0 0 0 0 n s1.epoch, data := [dword w] }
      | none => s1
  | _ => s1

/-- STEP_COMPUTED: the oldest step whose conditions hold becomes COMPUTED once the link groups are verified. -/
def stepComputed (s : State) : State :=
  match s.steps.find? (computedReady s) with
  | none => s
  | some t =>
    let need := match t.rxNeed with
      | some x => x
      | none => (s.ports.filter (fun p => !p.2.keyRx.isEmpty)).map (fun p => (p.1, p.2.rxCount))
    if !portsVerified s need then modStep s t.num (fun u => { u with rxNeed := some need })
    else
      let v := kgFold (t.foldAcc ^^^ kgFold (BitVec.ofNat 64 t.num))
      let s1 := modStep s t.num (fun u => { u with computed := true, foldVal := v })
      let p := t.num % 2
      let s2 := writeHdr (setJr s1 p { getJr s1 p with fold := v, foldWords := t.foldWords }) p
      reportAdvance (sendFold (oset s2 0x5400 0x0C v.toNat) t.num v t.foldWords) t.num

/-- LEDGER_FOLD from rank - 1 (R337). -/
def ledgerFold (s0 : State) (key : Nat) (m : Msg) : State :=
  let s := takeRx s0 key m
  match millChecks s key m with
  | .gone s1 => s1
  | .wait s1 => s1
  | .group g =>
    match foldGroup s with
    | .ring f =>
      if f.gid != g.gid || (partLane s g key { m with spec := m.spec / 2 ^ 32 * 2 ^ 32 + m.spec % 2 ^ 30 }) != some 0 then
        bumpErr s 0x2410 6 1 0x0E13
      else match s.steps.find? (fun t => t.num % 2 ^ 32 == mStep m && t.isOpen) with
        | none => stayRx s key m
        | some t =>
          reportAdvance (modStep (useMsg s g key m) t.num (fun u => { u with peerFold := some (BitVec.ofNat 64 (mLe m 0 8), mLe m 8 8) })) t.num
    | _ => bumpErr s 0x2410 6 1 0x0E13

/-! Decisions (R339-R341). -/

/-- SEAL or SKIP of the oldest undecided step once its good report is in. -/
def decideGood (s : State) : State :=
  match undecided s with
  | some t =>
    if t.repOk then
      match t.verdict with
      | some pass => decide' s t.num (if pass then 1 else 2) 0xFFFF 0 0 0#64 0#64
      | none => s
    else s
  | none => s

/-- Two 64-bit values of a seal word. -/
def mFold (m : Msg) (i : Nat) : BitVec 64 := BitVec.ofNat 64 (mLe m i 8)

/-- Rank 0 acts on a report or a fault that has reached it. -/
def rankZero (s : State) (m : Msg) : State :=
  if mByte m 0 == 2 then
    let sealed := s.steps.any (fun t => t.num % 2 ^ 32 == mStep m && (t.decided == some 1 || t.decided == some 2)) ||
      s.ldg.relWait.any (fun w => w.1 % 2 ^ 32 == mStep m)
    if (undecided s).isNone && sealed then
      { s with ldg := { s.ldg with keptFault := some (mLe m 2 2, mByte m 4, mFold m 12, mFold m 20) } }
    else decideBad s (mLe m 2 2) (mByte m 4) (mFold m 12) (mFold m 20)
  else if mByte m 1 == 3 then
    decideGood (match s.steps.find? (fun t => t.num % 2 ^ 32 == mStep m) with
      | some t => modStep s t.num (fun u => { u with repOk := true })
      | none => s)
  else decideBad s (mLe m 2 2) 1 (mFold m 12) (mFold m 20)

/-- The key by which a device's own seal messages come to it (R316). -/
def selfKey : Nat := 0xFFFF

/-- The device is HOLDING or on the way to it: it acts on no Mill or Ledger message of its epoch, its own ones included (R345, R346). -/
def holdsAll (s : State) : Bool := s.holding || s.roll.any (fun r => r.hold)

/-- A FAULT of a child goes to rank 0, if it is the step's first. -/
def faultOn (s : State) (m : Msg) (n sent : Nat) : State :=
  if sent > 0 then s
  else if isRank0 s then rankZero s m
  else toParent s { jobMsg s 0x34 n (stepStorm s n) [] with data := m.data }

/-- A FAULT that names a sealed step whose release is not acknowledged yet (R339, R340). -/
def lateFault (s : State) (m : Msg) (n sent : Nat) : State :=
  faultOn { s with ldg := { s.ldg with relWait := s.ldg.relWait.map (fun w => if w.1 == n then (w.1, w.2 + 1) else w) } } m n sent

/-- MILL_SEAL_UP: a REPORT or FAULT of a child, or rank 0's own (R338-R340). -/
def millSealUp (s0 : State) (key : Nat) (m : Msg) : State :=
  if key == selfKey then
    match s0.selfUp with
    | h :: t => if holdsAll s0 then { s0 with selfUp := t } else rankZero { s0 with selfUp := t } h
    | [] => s0
  else
    let s := takeRx s0 key m
    match millChecks s key m with
    | .gone s1 => s1
    | .wait s1 => s1
    | .group g =>
      match kidIx s g key m with
      | none => nakMsg s key m 1
      | some i =>
        match s.steps.find? (fun t => t.num % 2 ^ 32 == mStep m) with
        | none => (match s.ldg.relWait.find? (fun w => w.1 % 2 ^ 32 == mStep m) with
          | some w => if mByte m 0 == 2 then lateFault (useMsg s g key m) m w.1 w.2 else s
          | none => stayRx s key m)
        | some t =>
          if mByte m 0 == 2 then
            faultOn (modStep (useMsg s g key m) t.num (fun u => { u with faultFwd := u.faultFwd + 1 })) m t.num t.faultFwd
          else if t.kidReps.any (fun r => r.1 == i) then s
          else
            let r := (i, mByte m 1 % 2 == 1, mByte m 1 / 2 % 2 == 1, mLe m 2 2, mFold m 12, mFold m 20)
            reportAdvance (modStep (useMsg s g key m) t.num (fun u => { u with kidReps := u.kidReps ++ [r] })) t.num

/-! Quiet changes (R343), quarantines (R379) and lane repairs (R252, R260) at a seal. -/

/-- Physical cells that are free to take over a logical cell (R13, R16). -/
def spareCells (s : State) : List Nat :=
  (List.range 66).filter (fun p => !(List.range 64).any (fun c => physOf s c == p) && !Config.factoryBad p && !s.baro.out.contains p &&
    !s.ldg.qMap.any (fun q => q.2 == p))

/-- Sets what a scratch share adds to +0 and drops what it removes (R233). -/
def setScratch (s : State) (k mib : Nat) : State :=
  let old := scratchBytes s k
  let new := mib * 1048576
  let lo := larderBase + k * 0x10000000 + min old new
  let hi := larderBase + k * 0x10000000 + max old new
  keepPoison { s with scratch := tset s.scratch k mib, mem := s.mem.filter (fun p => !(lo ≤ p.1 && p.1 < hi)) }
    (fun w => !(lo ≤ 32 * w && 32 * w < hi))

/-- Quiet changes apply (R14, R233). -/
def applyQuiet (s : State) (n : Nat) : State :=
  let s0 := if s.ldg.qMap.isEmpty then s else oset s 0x2011 2 n
  let s1 := s.ldg.qScr.foldl (fun s q => setScratch s q.1 q.2) s0
  { s1 with cellMap := s1.ldg.qMap.foldl (fun t q => tset t q.1 q.2) s1.cellMap, ldg := { s1.ldg with qMap := [], qScr := [], quietEv := false } }

/-- The logical cell that a physical cell runs. -/
def logOf (s : State) (p : Nat) : Option Nat := (List.range 64).find? (fun c => physOf s c == p)

/-- A device fault of the seal in progress: the event now; the FAULT of the oldest step left, and HOLDING, when its actions are done
(Table 12-1, R15). -/
def sealFault (s : State) : State := raise { s with ldg := { s.ldg with devFault := true } } 0x0F10 []

/-- One corner is quarantined (R379): kind 1 a temperature band, 2 a pattern. DESIGN CHOICE: 0x2011:03 and the count of free spares
change at the seal that decides the quarantine; the cell moves with the quiet change (R16, R343, assumption log 101). -/
def quarCorner (s : State) (x : Nat × Nat × Nat × Nat) : State :=
  let (p, l, kind, k) := x
  let ent (act : Nat) : List Byte := [BitVec.ofNat 8 p, BitVec.ofNat 8 l, BitVec.ofNat 8 kind, BitVec.ofNat 8 k, BitVec.ofNat 8 act, 0#8, 0#8, 0#8]
  let note (s : State) (act : Nat) : State :=
    raise { s with baro := { s.baro with quar := s.baro.quar ++ [ent act] } } 0x0F22 []
  if s.baro.out.contains p then note s 1
  else match spareCells s, logOf s p with
  | q :: _, some c =>
    let s1 : State := { s with ldg := { s.ldg with qMap := tset s.ldg.qMap c q }, baro := { s.baro with out := insertAsc p s.baro.out } }
    note (oset s1 0x2011 3 p) 1
  | _, _ => if kind == 1 then note s 2 else sealFault (note s 3)

def quarantineDue (s : State) : State :=
  s.baro.due.foldl quarCorner { s with baro := { s.baro with due := [] } }

/-- A channel of a stack is held for its retraining, for at most 40 us (R252): how long is free. -/
def holdChannel (s0 : State) (k : Nat) : State :=
  let (d, s) := drawBelow (stamp s0) 40001
  { s with hbm := { s.hbm with held := tset s.hbm.held k (s.now + d) } }

/-- A suspect HBM lane is retrained onto a free spare (R252). A channel without one is reported once; the Barometer counts it with the
spared lanes, Table 12-8 having no other reading of lanes (assumption log 116). -/
def repairLane (s0 : State) (x : Nat × Nat × Nat) : State :=
  let (k, ch, lane) := x
  let s := holdChannel s0 k
  let i := 32 * k + ch
  let n := tget 0 s.hbm.used i
  if n ≥ 2 then (if s.once.contains (0x0B12, i) then s else baroAdd (raiseOnce s 0x0B12 i []) 4 1)
  else
    let s1 := { s with hbm := { s.hbm with used := tset s.hbm.used i (n + 1) } }
    baroAdd (raise (oset s1 (0x4800 + 0x40 * k) 5 (256 * ch + lane)) 0x0B11 [k, ch, lane]) 4 1

/-- Seal action 6. -/
def retrainSuspects (s : State) : State :=
  let s1 := s.hbm.sus.foldl repairLane { s with hbm := { s.hbm with sus := [] } }
  s1.ports.foldl (fun s p => p.2.suspect.foldl (fun s l =>
    if (getPort s p.1).suspect.contains l then spareLane s p.1 l else s) s) s1

/-! Seal actions (R342). -/

/-- Seal action 1: the outcome and the skip objects (R133). -/
def sealRecord (s : State) (t : StepSt) (skip : Bool) : State :=
  let s1 := oset (oset (bumpPerf s 0x5400 6 1) 0x5400 3 t.num) 0x5400 4 (if skip then 2 else 1)
  if !skip then clearOnce (oset s1 0x5480 0x0A 0) 0x0C11 0
  else
    let run := errAdd (oget s1 0x5480 0x0A) 1
    let s2 := oset (bumpPerf s1 0x5480 6 1) 0x5480 0x0A run
    let s3 := raise s2 0x0C10 (pb t.num 8 ++ (detWord t.vrec.1 t.vrec.2.1 t.vrec.2.2).map BitVec.toNat)
    if run ≥ oget s3 0x5480 9 then raiseOnce s3 0x0C11 0 [] else s3

/-- Seal action 2 (R121). -/
def sealUnhold (s : State) (n : Nat) : State :=
  let ents := s.cells.flatMap (fun p => (p.2.vt.filter (fun q => q.2.held0.contains (n % 2) || q.2.held1.contains (n % 2))).map
    (fun q => (p.1, q.1)))
  ents.foldl (fun s x => vtChange s n x.1 x.2 (.unhold (n % 2))) s

/-- The snapshot of a later step that was rolled back with step n: step n's own, with every change that n has made (R125, R330). -/
def snapAnew (s : State) (n : Nat) (log : List VtRec) (u : StepSt) : State :=
  let p := u.num % 2
  let j := log.foldl (fun j r => vtSnapChange j r.cell r.ent r.act) { getJr s p with vtSnap := (getJr s (n % 2)).vtSnap }
  let s1 := setJr s p j
  if s.hasJournal && !isShadow s then otherWrite s1 (entryAddr s p + 0x10000) (snapBytes j.vtSnap) else s1

/-- Seal action 8: the entry is FREE, the step RELEASED once the holder has acknowledged that (R355); its changes stand in the
snapshots of later steps (R125). Its commit list stays until the entry's next first open, for the staged UCOMMITs that still come
(R114, R116, Table 4-5). -/
def sealRelease (s : State) (t : StepSt) (pass : Bool) : State :=
  let n := t.num
  let (log, whole) := match getStep s n with
    | some u => (u.vtLog, u.vtWhole)
    | none => ([], false)
  let s1 := { s with steps := s.steps.filter (fun u => u.num ≠ n) }
  let later (s : State) : List StepSt := s.steps.filter (fun u => (getJr s (u.num % 2)).opened)
  let s2 := if whole then (later s1).foldl (fun s u => snapAnew s n log u) s1
    else log.foldl (fun s r => vtCarry s r.cell r.ent r.act (later s)) s1
  let s3 := writeHdr (setJr s2 (n % 2) { getJr s2 (n % 2) with estate := 0 }) (n % 2)
  let s4 := setJr s3 (n % 2) { getJr s3 (n % 2) with estate := 3 }
  let s5 := closeWins { s4 with past := (n, pass) :: s4.past.take 1, ldg := { s4.ldg with relWait := s4.ldg.relWait ++ [(n, 0)] } } (fun st => st == n)
  ledgerSettle (flushLdg s5)

/-! Rollback (R344-R346, R369). -/

/-- Units of bank copies, single regions and the journal that recorded causes 0x50 name (R369). -/
def badUnits (s : State) (steps : List Nat) : List Nat :=
  (s.ldg.bad50.filter (fun b => steps.any (fun n => n % 2 ^ 32 == b.1) && b.2 < hbmEnd)).foldl
    (fun l b => if l.contains (b.2 / 0x200000 * 0x200000) then l else l ++ [b.2 / 0x200000 * 0x200000]) []

/-- Every stream has stopped. -/
def allStopped (s : State) : Bool :=
  allStreams.all (fun p => let m := (getStrm s p.1 p.2).mode; m == .aborted || m == .halted)

/-- Where the buddy holds a unit, and whether it can be repaired from there (R369). -/
def repairFrom (s : State) (u : Nat) : Option (Nat × Nat) :=
  match buddyOf s with
  | none => none
  | some b =>
    match mirrorOff u (mirrorParts s) 0 with
    | some o => if oget s 0x5800 2 == 2 then some (b, oget s 0x5801 2 + o) else none
    | none => if inKept s u 0x200000 then some (b, u) else none

/-- The READs of a unit from the buddy (class 0). -/
def repairReads (s : State) (u dev src port : Nat) (dl : Bool) : List Stall :=
  (List.range 4096).map (fun i => { port := port, dest := u + 512 * i, kind := 4, msg := reqMsg s 2 0 dev dl (src + 512 * i) 15 [] })

/-- Asks the buddy for the first unit that waits for repair. -/
def startRepair (s : State) : State :=
  match s.roll with
  | none => s
  | some r =>
    match r.asked, r.units with
    | none, u :: _ =>
      match (if u ≥ hbmEnd then none else repairFrom s u) with
        | none => repairFailed s u
        | some (dev, src) => match liveRoute s dev with
          | none => repairFailed s u
          | some (port, dl) => sendScr { s with roll := some { r with asked := some (u, 4096) } } (repairReads s u dev src port dl)
    | _, _ => s

/-- One READ of a unit's repair has been answered: at the last one the unit is whole again. -/
def repairGot (s : State) (v : Nat) : State :=
  match s.roll with
  | some r => (match r.asked with
    | some (u, n) =>
      if u ≠ v then s
      else if n ≤ 1 then
        startRepair (raise { s with roll := some { r with asked := none, units := r.units.drop 1, fixed := u :: r.fixed } } 0x0F13 [])
      else { s with roll := some { r with asked := some (u, n - 1) } }
    | none => s)
  | none => s

/-- Steps 2 and 3 of R344, once: Drover sessions, hoppers, windows, flags, banks and lathes. -/
def dropEngines (s : State) (r : Roll) : State :=
  let s1 := closeWins (discardSess s (fun n => r.steps.contains n)) (fun _ => true)
  let s2 := { s1 with cells := s1.cells.map (fun p => (p.1, { p.2 with
      hoppers := p.2.hoppers.map (fun h => (h.1, { h.2 with pushN := 0, popN := 0, places := [], low := 0, hi := [], discard := [] })),
      looms := p.2.looms.map (fun l => (l.1, { l.2 with banks := [], run := none, drains := [], openB := [] })),
      trs := [], cards := [], scts := [], cbts := [], zbuf := [] })) }
  r.steps.foldl (fun s n => clearFlags s (n % 2)) s2

/-- With every stream stopped, and the seal actions of an earlier step done (R341): steps 2 (the Mill, R320) and 3 of R344, then step 4's repairs begin. -/
def rollDrop (s : State) : State :=
  match s.roll with
  | some r =>
    if r.dropped || !allStopped s || !s.ldg.relWait.isEmpty then s
    else startRepair { dropEngines (dropMill s r.hold (fun n => r.steps.contains n)) r with roll := some { r with dropped := true } }
  | none => s

/-- A rollback begins: every stream is aborted, and units that the steps found poisoned wait for repair. A committed Mill command runs
on until it completes or ends under R319; messages of the run carry the older epoch. -/
def startRoll (s : State) (m : Nat) (hold : Bool) : State :=
  let ns := (s.steps.filter (fun t => t.num ≥ m)).map (fun t => t.num)
  let s1 := { s with steps := s.steps.map (fun t => if t.num ≥ m then
      ({ num := t.num, isOpen := false, vtWrote := t.vtWrote, vtStale := t.vtStale, vtWhole := t.num == m && ns.any (fun n => n > m && (getJr s (n % 2)).opened) } : StepSt)
    else t) }
  let s2 := allStreams.foldl (fun s p => abortStream s p.1 p.2) s1
  rollDrop { s2 with ldg := { s2.ldg with unrepaired := false }, roll := some { m := m, steps := ns, hold := hold, units := badUnits s2 ns } }

/-- A device fault outside a rollback: the FAULT of the oldest unsealed step, then steps 1 to 5 of R344 and HOLDING, with the epoch
unchanged (Table 12-1, R345). -/
def faultHold (s : State) (n : Nat) : State :=
  startRoll (faultUp s 2) ((s.steps.head?.map (fun t => t.num)).getD (n + 1)) true

/-- A device fault (Table 12-1): the event, the FAULT, no resume, and HOLDING. -/
def deviceFault (s : State) : State :=
  let s1 := raise s 0x0F10 []
  match s1.roll with
  | some r => faultUp { s1 with roll := some { r with hold := true } } 2
  | none => if s1.holding then s1 else faultHold s1 s1.released

/-- The seal actions of a step in the order of Table 11-7; a device fault among them ends in HOLDING (R351). Without a job key none of
them changes anything (R30). -/
def sealStep (s : State) (t : StepSt) (skip : Bool) : State :=
  if s.lock.jok.isNone then s
  else
  let s1 := sealUnhold (sealRecord s t skip) t.num
  let s2 := quarantineDue (discardSess s1 (fun n => n == t.num))
  let s3 := if s2.steps.any (fun u => u.num > t.num && u.isOpen) then s2 else applyQuiet s2 t.num
  let s4 := flushOther (sealRelease (gangSeal (retrainSuspects (patchSeal s3)) t.num) t (!skip))
  if s4.ldg.devFault then faultHold { s4 with ldg := { s4.ldg with devFault := false } } t.num else s4

/-- One fold mismatch that names this device: the mismatch log and the Barometer (R347, R378). -/
def foldMismatch (s : State) (n : Nat) : State :=
  let s1 := stamp s
  let (a, s3) := draw s1
  let r := natLe s3.now 8 ++ natLe n 8 ++ [0#8, 0xFF#8, 0xFF#8, BitVec.ofNat 8 s3.alm.dDev] ++ natLe a 2 ++
    natLe (oget s3 0x5001 0x0B) 2 ++ natLe 0 8
  let l := s3.baro.log ++ [r]
  let s4 := if l.length > 256 then bumpErr s3 0x7030 2 1 0x0F23 else s3
  raise (baroAdd { s4 with baro := { s4.baro with log := l.drop (l.length - 256) } } 6 1) 0x0F21 []

/-- A ROLLBACK or HOLD decision is applied (R341, R344). -/
def applyRoll (s : State) (n dev reason epochNew : Nat) (hold : Bool) : State :=
  let s1 := raise (bumpPerf s 0x5400 7 1) 0x0C14 (pb n 8 ++ pb epochNew 4 ++ [reason, 0] ++ pb dev 2)
  let s2 := oset (oset s1 0x5400 0x0D dev) 0x5400 0x0E reason
  let s3 := if reason == 1 then
      let x := bumpErr s2 0x5400 8 1 0x0C1C
      if dev == ownId x then foldMismatch x n else x
    else s2
  startRoll (adoptEpoch { s3 with selfUp := [], selfDown := [], ldg := { s3.ldg with keptFault := none } } epochNew) n hold

/-- A decision is applied (R341). -/
def applyDecision (s : State) (n dec dev reason epochNew : Nat) : State :=
  if dec == 1 || dec == 2 then
    match s.steps.find? (fun t => t.num == n && t.computed) with
    | some t => sealStep s t (dec == 2)
    | none => s
  else applyRoll s n dev reason epochNew (dec == 4)

/-- The full step number that a message's low 32 bits name, from the steps around the last released one. -/
def fullStep (s : State) (n32 : Nat) : Nat :=
  match s.steps.find? (fun t => t.num % 2 ^ 32 == n32) with
  | some t => t.num
  | none => let b := s.released; b + (n32 + 2 ^ 32 - b % 2 ^ 32) % 2 ^ 32

/-- MILL_SEAL_DOWN: forwarded to the children and applied (R341). -/
def sealDown (s : State) (m : Msg) : State :=
  let n := fullStep s (mStep m)
  let s1 := toKids s { jobMsg s 0x35 n (stepStorm s n) [] with data := m.data } (jobKids s)
  applyDecision s1 (fullStep s (mStep m)) (mByte m 0) (mLe m 2 2) (mByte m 4) (mLe m 8 4)

/-- The seal actions of an earlier step are not done: decisions wait, in their order (R341, R342). -/
def sealing (s : State) : Bool := !s.ldg.relWait.isEmpty

/-- MILL_SEAL_DOWN: rank 0's own or the parent's; one whose step has not opened stays (R313). -/
def millSealDown (s0 : State) (key : Nat) (m : Msg) : State :=
  if key == selfKey then
    match s0.selfDown with
    | h :: t => if sealing s0 then s0 else if holdsAll s0 then { s0 with selfDown := t } else decideGood (sealDown (teeMsg { s0 with selfDown := t } { h with dst := ownId s0 }) h)
    | [] => s0
  else
    let s := takeRx s0 key m
    match millChecks s key m with
    | .gone s1 => s1
    | .wait s1 => s1
    | .group g =>
      if !fromUp s g key m then nakMsg s key m 1
      else if sealing s || !s.steps.any (fun t => t.num % 2 ^ 32 == mStep m && t.isOpen) then stayRx s key m
      else sealDown (useMsg s g key m) m

/-- Version tables back to the snapshot of the oldest replayed step (R125). -/
def restoreVt (s : State) (r : Roll) : State :=
  let j := getJr s (r.m % 2)
  if !(j.opened && j.step == r.m) then s
  else
    let wrote := s.steps.flatMap (fun t => if r.steps.contains t.num then t.vtWrote ++ t.vtStale else [])
    let fix (c e : Nat) (x : VtEntry) : VtEntry :=
      let w0 := wrote.contains (c, e, 0)
      let w1 := wrote.contains (c, e, 1)
      if w0 || w1 then { x with valid0 := x.valid0 && !w0, valid1 := x.valid1 && !w1, ref0 := 0, ref1 := 0, tags := [] } else x
    let cells := (List.range 64).foldl (fun cs c =>
      let mine := (j.vtSnap.filter (fun q => q.1 / 64 == c)).map (fun q => (q.1 % 64, fix c (q.1 % 64) q.2))
      let cell := tget {} s.cells c
      if mine.isEmpty && cell.vt.isEmpty then cs else tset cs c { cell with vt := mine }) s.cells
    { s with cells := cells }

/-- Commit-list entries of the replayed steps, with their cells. -/
def rollCommits (s : State) (r : Roll) : List (Nat × CommitEnt) :=
  s.cells.flatMap (fun p => (p.2.commits.filter (fun e => r.steps.contains e.step && !isOne e.op.een)).map (fun e => (p.1, e)))

/-- The first poisoned unit among what the rewrite of an entry reads. -/
def entPoison (s : State) (m : Nat) (e : CommitEnt) : Option Nat :=
  let d := rewriteSrc m e
  (spansPoison s (planeRows d (ucRows e.op) (ucCols e.op) ++ maskRow d (ucRows e.op) (ucCols e.op))).map
    (fun a => a / 0x200000 * 0x200000)

/-- A stream's start for the replay (R211, R344 step 5), VL and RL reset (R168). Its records stay: a reopened step writes none
(R330). -/
def rollStream (m : Nat) (x0 : Stream) : Stream :=
  let x := { x0 with vl := 256, rl := 64 }
  match x.restarts.find? (fun q => q.step == m) with
  | some q => { x with head := q.pos, ctr := q.ctr, cmp := q.cmp, step := if x.step ≥ m then m - 1 else x.step }
  | none => { x with head := if x.mode == .halted then oldestPos x else x.head }

/-- An entry whose working copies a failed repair leaves unwritten: the next rollback rewrites them (R369). -/
def unmended (s : State) (r : Roll) (e : CommitEnt) : Bool := r.failed && !isOne e.op.een && (entPoison s r.m e).isSome

/-- A cell's streams at their starts, the pattern at its first command (R106), the commit lists of the replayed steps empty. -/
def rollCell (s : State) (r : Roll) (x : Cell) : Cell :=
  { x with patPos0 := 0, patPos1 := 0, commits := x.commits.filter (fun e => !r.steps.contains e.step || unmended s r e),
           streams := x.streams.map (fun q => (q.1, rollStream r.m q.2)) }

/-- Version tables, working copies and streams of steps 4 and 5 of R344. -/
def rollRestore (s : State) (r : Roll) : State :=
  let s1 := restoreVt s r
  let s2 := (rollCommits s1 r).foldl (fun s p => if (entPoison s r.m p.2).isSome then s else rewriteEnt s p.1 r.m p.2) s1
  let s3 : State := { s2 with cells := s2.cells.map (fun p => (p.1, rollCell s1 r p.2)) }
  let fresh (t : StepSt) : StepSt := { num := t.num, isOpen := false, vtWhole := t.vtWhole, vtStale := t.vtWrote ++ t.vtStale }
  let s4 := { s3 with steps := s3.steps.map (fun t => if r.steps.contains t.num then fresh t else t),
                      ldg := { s3.ldg with bad50 := s3.ldg.bad50.filter (fun b => !r.steps.any (fun n => n % 2 ^ 32 == b.1) ||
                        (r.failed && b.2 < hbmEnd && !r.fixed.contains (b.2 / 0x200000 * 0x200000))) } }
  flushOther s4

/-- REPLAYS rises in every rolled-back entry. -/
def rollReplays (s : State) : State :=
  (s.steps.filter (fun t => !t.isOpen && (getJr s (t.num % 2)).opened)).foldl (fun s t =>
    let p := t.num % 2
    writeHdr (setJr s p { getJr s p with replays := (getJr s p).replays + 1 }) p) s

/-- The end of step 6 of R344: the event, and the streams resume. -/
def rollGo (s : State) : State := allStreams.foldl (fun s p => resumeStream s p.1 p.2) (raise s 0x0C15 [])

/-- Step 6 of R344. -/
def rollResume (s : State) : State := rollGo (rollReplays s)

/-- HOLDING (R345). -/
def enterHold (s : State) (r : Roll) : State :=
  let s1 := r.steps.foldl (fun s n =>
    let p := n % 2
    if (getJr s p).step == n && (getJr s p).estate == 3 then writeHdr (setJr s p { getJr s p with estate := 2 }) p else s) s
  if s1.holding then s1 else raise { s1 with holding := true } 0x0C16 []

/-- Spans that the rewrite of working copies writes (R115). -/
def rollSpans (s : State) (r : Roll) : List (Nat × Nat) :=
  (rollCommits s r).flatMap (fun p =>
    let d := rewriteSrc r.m p.2
    let (pw, pt) := ucPlans s p.1 p.2.op d p.2.hw p.2.hwt
    let n := ucRows p.2.op
    let m := ucCols p.2.op
    (copySpans p.1 pw n m (spMode d)).2 ++ (copySpans p.1 pt n m (spMode d)).2)

/-- The last part of a rollback: HOLDING, or the event and the resume once what the Ledger wrote is acknowledged (R355). -/
def rollFinish (s : State) (r : Roll) : State :=
  if r.hold then enterHold { s with roll := none, ldg := { s.ldg with unrepaired := r.failed } } r
  else if ldgOut s || !s.pendW.isEmpty then s
  else rollGo { s with roll := none }

/-- ROLLBACK_DONE: with every stream stopped and every repair made, the rest of R344. A write that meets a front waits for the old
contents first (R359). -/
def rollbackDone (s0 : State) : State :=
  let s := rollDrop s0
  match s.roll with
  | none => s
  | some r =>
    if r.restored then rollFinish s r
    else if !r.dropped || r.asked.isSome || !s.pendW.isEmpty then s
    else if !r.units.isEmpty then startRepair s
    else match (rollCommits s r).findSome? (fun p => (entPoison s r.m p.2).bind (fun u => if r.fixed.contains u || r.failed then none else some u)) with
      | some u => startRepair { s with roll := some { r with units := [u] } }
      | none => match cowUnits s (rollSpans s r) with
        | u :: us => (u :: us).foldl cowEnter s
        | [] =>
          let s1 := rollRestore s r
          rollFinish (if r.hold then s1 else rollReplays { s1 with roll := some { r with restored := true } }) { r with restored := true }

/-! Timeouts (R131, R346). -/

/-- VOTE_TIMEOUT: a gated command has waited for its verdict too long. -/
def voteTimeout (s : State) : State :=
  match s.steps.find? (fun t => t.gatedW && t.verdict.isNone) with
  | some t => faultUp (raise s 0x0C12 (pb t.num 8)) 4
  | none => s

/-- SEAL_TIMEOUT: a COMPUTED step got no decision; the device sends a FAULT and holds (R346). -/
def sealTimeout (s : State) : State :=
  match s.steps.find? (fun t => t.computed) with
  | none => s
  | some t =>
    let s1 := raise s 0x0C17 []
    let old := (s1.steps.head?.map (fun u => u.num)).getD t.num
    startRoll (sendUp s1 old (sealWord 2 0 (ownId s1) 5 0 0#64 0#64)) old true

end Sys2Proof.Machine
end

