-- ==== Sys2Proof/Machine/Registers.lean ====
section
/-! DEFINITION. The run-time registers of BAR0 (17, R493-R507): what a read returns and what a write does, by a host or by
a carter, and the stream doorbells (R474, R475). -/
namespace Sys2Proof.Machine

def b2n (b : Bool) : Nat := if b then 1 else 0

/-! Reads. -/

/-- STATE of a stream (Table 7-8). -/
def strmState (s : State) (c k : Nat) : Nat :=
  let x := getStrm s c k
  match x.mode with
  | .halted => 4
  | .aborted => 5
  | _ =>
    if (getCell s c).paused then 3
    else
      let next := frontCmd x
      let empty := x.queue.isEmpty && x.win.isEmpty && x.fly.isEmpty
      match next.bind (fun q => q.op) with
      | some (.stepmark n) => if (match markCheck s x n.toNat with
          | .wait => true
          | _ => false) || !(x.fly.isEmpty && x.win.isEmpty) then 6 else 1
      | some (.wait _) => if atWait s c k then 2 else 1
      | _ => if empty && x.head == x.tail then 0 else 1

/-- STRM_RETAIN (R191): the restart point of the oldest unsealed step entered, else the oldest incomplete command. -/
def retainOf (s : State) (x : Stream) : Nat :=
  match s.steps.findSome? (fun t => x.restarts.find? (fun r => r.step == t.num)) with
  | some r => r.pos
  | none => oldestPos x

def strmStat (s : State) (c k : Nat) : Nat :=
  let x := getStrm s c k
  strmState s c k + 8 * b2n x.invalid + 16 * b2n x.overflow + 32 * b2n x.logFull + 2 ^ 8 * x.cause + 2 ^ 16 * (x.vl - 1) +
    2 ^ 24 * (x.rl - 1) + 2 ^ 32 * x.loops.length + 2 ^ 35 * (x.step % 2) + 2 ^ 36 * (min 384 (x.win.length + (x.queue.length - x.nxt))) +
    2 ^ 45 * (x.fly.filter (fun f => !f.pseudo)).length

/-- An error tally as BAR0 shows it (R504). -/
def errReg (v : Nat) : Nat := v + (if v == 0xFFFFFFFF then 2 ^ 63 else 0)

/-- An exception record as its 256 bits (Table 7-9). -/
def recNat (r : ExRec) : Nat :=
  r.cause + 2 ^ 8 * r.unit + 2 ^ 12 * b2n r.faulted + 2 ^ 16 * r.row + 2 ^ 32 * r.col + 2 ^ 48 * r.chunk + 2 ^ 63 * b2n r.satur +
    2 ^ 64 * r.tile + 2 ^ 96 * r.count + 2 ^ 128 * r.pos + 2 ^ 160 * r.step + 2 ^ 192 * r.time

/-- CMP_j (Table 17-15). -/
def cmpReg (m : Cmpr) : Nat :=
  b2n m.armed + 2 * m.ca + 16 * m.rel + 64 * b2n m.bsrc + 128 * m.cb + 1024 * b2n m.act + 2048 * m.flag + 2 ^ 32 * m.imm.toNat

/-- A stream's sub-block (Table 17-9). -/
def strmReg (s : State) (c k o : Nat) : Nat :=
  let x := getStrm s c k
  if o == 0 then b2n x.sat + 2 ^ 8 * x.wdog
  else if o == 0x08 then strmStat s c k
  else if o == 0x10 then x.base
  else if o == 0x18 then x.log2 + 2 ^ 31 * b2n x.bad
  else if o == 0x20 then x.head
  else if o == 0x28 then x.tail
  else if o == 0x30 then retainOf s x
  else if o == 0x38 then x.abpos
  else if o == 0x40 then x.abmap
  else if o == 0x48 then x.exWr
  else if o == 0x50 then x.exRd
  else if o == 0x58 then errReg x.exLost
  else if 0x80 ≤ o && o < 0xC0 then (ctrVal x ((o - 0x80) / 8)).toNat
  else if 0xC0 ≤ o && o < 0xE0 then cmpReg (tget {} x.cmp ((o - 0xC0) / 8))
  else if o == 0x100 then x.issued
  else if o == 0x108 then x.waitcyc
  else if 0x400 ≤ o && o < 0x600 then
    (match tfind x.exlog ((o - 0x400) / 0x20) with
     | some r => recNat r / 2 ^ (8 * (o % 0x20)) % 2 ^ 64
     | none => 0)
  else 0

/-- HOP_STAT (Table 17-10). -/
def hopStat (h : Hopper) : Nat :=
  (h.places.filter (fun p => match p.2 with
    | .ready _ => true
    | _ => false)).length + 16 * (h.places.filter (fun p => p.2 ≠ .void)).length + 2 ^ 16 * (h.popN % 2 ^ 16) + 2 ^ 32 * (h.pushN % 2 ^ 16)

/-- A version-table entry's registers. -/
def vtReg (e : VtEntry) (o : Nat) : Nat :=
  match o / 8 with
  | 0 => vtCtlNat e
  | 1 => e.ver0 + 2 ^ 32 * e.ver1
  | 2 => e.w0
  | 3 => e.w1
  | 4 => e.t0
  | 5 => e.t1
  | 6 => vtTagv e
  | _ => vtTags e

def isLatheOp (op : Op) : Bool :=
  match op with
  | .ldt _ | .stt _ | .card _ | .red _ | .zmap _ | .tbl _ => true
  | _ => false

/-- LOOM_BUSY: a chunk or a drain is in progress (Table 17-8). -/
def loomBusy (s : State) (c l : Nat) : Bool :=
  (match loomRun s c l with
   | some (_, _, _, r) => r.charged
   | none => false) || !(getLoom s c l).drains.isEmpty

def cellStat (s : State) (c : Nat) : Nat :=
  let busy (l : Nat) : Nat := b2n (loomBusy s c l)
  let lathe := (List.range 4).any (fun k => (getStrm s c k).fly.any (fun f => f.committed && isLatheOp f.op))
  let lent := match loomRun s c 0 with
    | some (_, _, _, r) => r.lent
    | none => false
  let op := (getLoom s c 0).openB
  b2n (getCell s c).paused + 2 * busy 0 + 4 * busy 1 + 8 * busy 2 + 16 * b2n lathe + 32 * b2n lent +
    64 * b2n (op.contains 0) + 128 * b2n (op.contains 1)

def bwdReg (w : BwdCtl) : Nat :=
  w.pat0 + 2 ^ 8 * (w.len0 % 8) + 2 ^ 12 * w.pat1 + 2 ^ 20 * (w.len1 % 8) + 2 ^ 24 * b2n w.loan + 2 ^ 25 * w.bank

/-- A pair of 32-bit flag values. -/
def flagPair (f : Nat → Nat) (i : Nat) : Nat := f i + 2 ^ 32 * f (i + 1)

/-- A cell's block (Table 17-7). -/
def cellReg (s : State) (c o : Nat) : Nat :=
  let x := getCell s c
  if o == 0 then cellStat s c
  else if o == 0x08 then bwdReg x.bwdW
  else if o == 0x10 then 2 ^ 16 * x.dtab
  else if 0x100 ≤ o && o < 0x200 then
    (let h := getHop s c ((o - 0x100) / 8); h.prod + 4 * h.cons + 16 * b2n h.en)
  else if 0x200 ≤ o && o < 0x300 then hopStat (getHop s c ((o - 0x200) / 8))
  else if 0x1000 ≤ o && o < 0x5000 then strmReg s c ((o - 0x1000) / 0x1000) (o % 0x1000)
  else if 0x8000 ≤ o && o < 0x9000 then vtReg (getVt s c ((o - 0x8000) / 0x40)) (o % 0x40)
  else if 0x9000 ≤ o && o < 0x9400 then flagPair (fun f => (getFlag s c false f 0).toNat) ((o - 0x9000) / 4)
  else if 0x9400 ≤ o && o < 0x9800 then flagPair (fun f => (getFlag s c false f 1).toNat) ((o - 0x9400) / 4)
  else 0

/-- Plan state (0x2030:01): 0 NO_PLAN, 1 DISCOVERY, 2 HELD, 3 IN_PLAN. A device whose discovery has found every used port's
outcome is HELD until it enters, also while a cable is put right (Table 9-20). -/
def planState (s : State) : Nat :=
  if s.plan.isNone then 0
  else if s.inPlan then 3
  else if s.found then 2 else 1

/-- The newest open step. -/
def newestOpen (s : State) : Nat :=
  match (s.steps.filter (fun t => t.isOpen)).getLast? with
  | some t => t.num
  | none => 0

/-- TRK_OCC (Table 17-4). -/
def trkOcc (s : State) : Nat :=
  let n := s.trk.length
  let stalled := ((List.range 64).filter (fun c => (List.range 4).any (fun k => (getStrm s c k).fly.any (fun f => !f.stalled.isEmpty)))).length
  n + 2 ^ 16 * s.trkHwm + 2 ^ 30 * b2n (n ≥ 8192) + 2 ^ 32 * stalled

def lwinStat (s : State) (w : Nat) : Nat :=
  match tfind s.wins w with
  | some x => 1 + 2 * x.rank + 2 ^ 13 * (x.n - 1) + 2 ^ 25 * x.flag
  | none => 0

/-- DICT_STAT (Table 15-11): a request is handled at once, so BUSY reads 0 but while a self-check is awaited. -/
def dictStat (s : State) : Nat :=
  2 * b2n s.host.done + b2n (s.lock.waits.any (fun w => w.1 == 1)) + 4 * b2n (!(dueRecs s (getEp s 1)).isEmpty) + 2 ^ 8 * s.host.status

/-- The MSI-X table's word: vectors are masked until they are opened. -/
def msixWord (s : State) (i : Nat) : Nat :=
  tget 0 s.host.msix i % 2 ^ (if i % 2 == 1 then 32 else 64) +
    (if i % 2 == 1 && !s.msixOpen.contains (i / 2) then 2 ^ 32 else 0)

/-- The global block (Table 17-2). -/
def globReg (s : State) (o : Nat) : Nat :=
  if o == 0 then ownId s + 2 ^ 16 * planState s + 2 ^ 18 * b2n s.holding + 2 ^ 19 * (newestOpen s % 2)
  else if o == 0x10 then b2n s.host.winBad + s.host.winBase
  else if o == 0x20 then trkOcc s
  else if o == 0x1008 then dictStat s
  else if 0x2000 ≤ o && o < 0x3000 then tget 0 s.host.reqBuf ((o - 0x2000) / 8)
  else if 0x3000 ≤ o && o < 0x4000 then leNat (lslice s.host.rspBuf (o - 0x3000) 8)
  else if 0x4000 ≤ o && o < 0x4100 then flagPair (fun f => (getFlag s 0 true f 0).toNat) ((o - 0x4000) / 4)
  else if 0x4100 ≤ o && o < 0x4200 then flagPair (fun f => (getFlag s 0 true f 1).toNat) ((o - 0x4100) / 4)
  else if 0x5000 ≤ o && o < 0x5080 then lwinStat s ((o - 0x5000) / 8)
  else if 0x10000 ≤ o && o < 0x18000 then msixWord s ((o - 0x10000) / 8)
  else if 0x18000 ≤ o && o < 0x18100 then
    (List.range 64).foldl (fun v i => if s.msixPend.contains (8 * (o - 0x18000) + i) then v + 2 ^ i else v) 0
  else 0

/-- A port's block (Table 17-16). -/
def portReg (s : State) (p o : Nat) : Nat :=
  let x := getPort s p
  let cr (v : Nat) : Nat := tget 0 x.cred v % 2 ^ 14
  if o == 0 then
    let rx := oget s (portIdx p) 5
    portState s p + 8 * oget s (portIdx p) 3 + 32 * (if rx > 3 then 7 else rx) + 2 ^ 8 * (x.spareTx % 8) + 2 ^ 11 * b2n x.pres +
      2 ^ 12 * min 1024 x.unack.length
  else if o == 0x08 then cr 0 + 2 ^ 16 * cr 1 + 2 ^ 32 * cr 2 + 2 ^ 48 * cr 3
  else if o == 0x10 then cr 4 + 2 ^ 16 * cr 5
  else if o == 0x18 then x.rtt % 2 ^ 16
  else if o == 0x20 then x.verified - 1
  else 0

/-- A stack's block: served from the boot on. How many requests wait at the controller is free (R506, assumption log 156). -/
def stackReg (s : State) (k o : Nat) : Nat :=
  if o == 8 then (if s.up then (Config.stackQueue s.free k).toNat else 0)
  else if o == 0 then b2n s.up + 2 * b2n (decide (s.now < tget 0 s.hbm.held k)) + 4 * b2n (decide ((tget 0 s.alm.stackT k : Int) > 850)) + 16 * (tget 0 s.scratch k / 64) else 0

/-- LDG_STAT (Table 11-12). -/
def ldgStat (s : State) : Nat :=
  (getJr s 0).estate + 4 * (getJr s 1).estate + 16 * s.ldg.postErr + 256 * b2n s.holding + 2 ^ 32 * ((s.lastPosted.getD 0) % 2 ^ 32)

def engineReg (s : State) (e o : Nat) : Nat :=
  if e == 0 then (if o == 0 then s.ldg.postStep else if o == 8 then s.ldg.postLen else if o == 0x10 then ldgStat s else 0)
  else if o != 0 then 0
  else if e == 1 then oget s 0x5800 2 + 2 ^ 32 * oget s 0x5800 4
  else if e == 2 then min 16 (s.mill.filter (liveRun s)).length
  else if e == 3 then s.sess.length
  else s.alm.dDev + 32 * s.alm.pstate + 2 ^ 8 * s.alm.dGang

/-- A read of the register at an 8-byte boundary of BAR0. -/
def regRead (s : State) (off : Nat) : Nat :=
  if off < 0x1000000 then globReg s off
  else if off < 0x1400000 then cellReg s ((off - 0x1000000) / 0x10000) (off % 0x10000)
  else if 0x1800000 ≤ off && off < 0x1820000 then portReg s ((off - 0x1800000) / 0x1000) (off % 0x1000)
  else if 0x1A00000 ≤ off && off < 0x1A60000 then stackReg s ((off - 0x1A00000) / 0x8000) (off % 0x8000)
  else if 0x1C00000 ≤ off && off < 0x1C50000 then engineReg s ((off - 0x1C00000) / 0x10000) (off % 0x10000)
  else 0

/-- An offset lies in a block of Table 17-1. -/
def inBlocks (off : Nat) : Bool :=
  off < 0x1400000 || (0x1800000 ≤ off && off < 0x1820000) || (0x1A00000 ≤ off && off < 0x1A60000) || (0x1C00000 ≤ off && off < 0x1C50000)

/-! Writes. A write carries its 64-bit value and which halves it covers (R494). -/

structure RegW where
  val  : Nat
  lo   : Bool := true
  hi   : Bool := true
  host : Bool := true
  deriving DecidableEq, Repr

/-- Field [i+w-1 : i] of the value. -/
def rwF (w : RegW) (i n : Nat) : Nat := w.val / 2 ^ i % 2 ^ n

/-- An ignored ring write: BAD, and its count when the host made it (R502). -/
def ringBad (s : State) (c k : Nat) (w : RegW) : State :=
  let s1 := modStrm s c k (fun x => { x with bad := true })
  if w.host then bumpErr s1 0x2040 9 1 0x1019 else s1

/-- The states in which RING_BASE and RING_CFG may be written (R502). -/
def ringFree (s : State) (c k : Nat) : Bool :=
  let x := getStrm s c k
  let st := strmState s c k
  st == 4 || st == 5 || (st == 0 && x.head == x.tail && x.head == retainOf s x)

/-- RING_CONFIG_WRITE: which 0 RING_BASE, 1 RING_CFG (R502). -/
def ringWrite (s : State) (c k : Nat) (cfg : Bool) (w : RegW) : State :=
  if !ringFree s c k then ringBad s c k w
  else if cfg && (rwF w 0 5 < 8 || rwF w 0 5 > 20) then ringBad s c k w
  else modStrm s c k (fun x =>
    let y := { x with head := 0, tail := 0, bad := false, restarts := [], queue := [], nxt := 0, win := [], broken := none, ahead := [] }
    if cfg then { y with log2 := rwF w 0 5 } else { y with base := rwF w 12 36 * 4096 })

/-- HEAD_WRITE (R223, R502). -/
def headWrite (s : State) (c k : Nat) (w : RegW) : State :=
  let st := strmState s c k
  if st == 4 || st == 5 then
    modStrm s c k (fun x => { x with
      head := rwF w 0 20 % 2 ^ x.log2, bad := false, queue := [], nxt := 0, win := [], ahead := [] })
  else ringBad s c k w

/-- EXLOG_RD_WRITE (R503). -/
def exRdWrite (s : State) (c k v : Nat) : State :=
  modStrm s c k (fun x =>
    if (v + 2 ^ 32 - x.exRd) % 2 ^ 32 ≤ (x.exWr + 2 ^ 32 - x.exRd) % 2 ^ 32 then { x with exRd := v % 2 ^ 32 } else x)

/-- STRM_CTL (Table 7-7). -/
def strmCtl (s : State) (c k : Nat) (w : RegW) : State :=
  let s1 := modStrm s c k (fun x => { x with sat := rwF w 0 1 == 1, wdog := max 1 (min 1000000 (rwF w 8 20)) })
  let s2 := if rwF w 1 1 == 1 then abortStream s1 c k else s1
  let s3 := if rwF w 2 1 == 1 then resumeStream s2 c k else s2
  if rwF w 3 1 == 1 then clrSticky s3 c k else s3

/-- TALLY_CLR's three bits (R505). -/
def clrIssued (s : State) (c k : Nat) : State := modStrm s c k (fun x => { x with issued := 0 })

def clrWaitcyc (s : State) (c k : Nat) : State := modStrm s c k (fun x => { x with waitcyc := 0 })

def clrLost (s : State) (c k : Nat) : State := modStrm s c k (fun x => { x with exLost := 0 })

def tallyClr (s : State) (c k : Nat) (w : RegW) : State :=
  let s1 := if rwF w 0 1 == 1 then clrIssued s c k else s
  let s2 := if rwF w 1 1 == 1 then clrWaitcyc s1 c k else s1
  if rwF w 2 1 == 1 then clrLost s2 c k else s2

def strmWrite (s : State) (c k o : Nat) (w : RegW) : State :=
  if o == 0 then (if w.lo then strmCtl s c k w else s)
  else if o == 0x10 then (if w.lo && w.hi then ringWrite s c k false w else s)
  else if o == 0x18 then (if w.lo then ringWrite s c k true w else s)
  else if o == 0x20 then (if w.lo then headWrite s c k w else s)
  else if o == 0x28 || o == 0x30 || o == 0x38 then (if w.lo then ringBad s c k w else s)
  else if o == 0x50 then (if w.lo then exRdWrite s c k (rwF w 0 32) else s)
  else if o == 0x60 then (if w.lo then tallyClr s c k w else s)
  else s

/-- HOP_CFG_WRITE: only while the hopper is empty and no reservation stands (R198). -/
def hopCfg (s : State) (c h v : Nat) : State :=
  if hopIdle s c h then modHop s c h (fun x => { x with prod := v % 4, cons := v / 4 % 4, en := v / 16 % 2 == 1 }) else s

/-- VT_CTL_WRITE: a write of an entry's register (R119). -/
def vtWrite (s : State) (c e o : Nat) (w : RegW) : State :=
  let x := getVt s c e
  let free := x.ref0 == 0 && x.ref1 == 0 && x.held0.isEmpty && x.held1.isEmpty
  let en := rwF w 0 1 == 1
  let base := rwF w 5 43 * 32
  if x.en then
    (if o / 8 == 0 && w.lo && free then setVt s c e { x with en := en } else s)
  else match o / 8 with
    | 0 => if w.lo then setVt s c e { x with en := en, cur := rwF w 1 1, valid0 := rwF w 20 1 == 1, valid1 := rwF w 21 1 == 1 } else s
    | 1 => setVt s c e { x with ver0 := if w.lo then rwF w 0 32 else x.ver0, ver1 := if w.hi then rwF w 32 32 else x.ver1 }
    | 2 => if w.lo && w.hi then setVt s c e { x with w0 := base } else s
    | 3 => if w.lo && w.hi then setVt s c e { x with w1 := base } else s
    | 4 => if w.lo && w.hi then setVt s c e { x with t0 := base } else s
    | 5 => if w.lo && w.hi then setVt s c e { x with t1 := base } else s
    | _ => s

/-- BWD_CTL (Table 4-2). -/
def bwdWrite (s : State) (c : Nat) (w : RegW) : State :=
  modCell s c (fun x => { x with bwdW := ⟨rwF w 0 8, rwF w 8 3, rwF w 12 8, rwF w 20 3, rwF w 24 1 == 1, rwF w 25 1⟩ })

/-- CELL_DTAB_WRITE (R501). -/
def dtabWrite (s : State) (c v : Nat) : State :=
  if v > 191 then s else modCell s c (fun x => { x with dtab := v })

def cellWrite (s : State) (c o : Nat) (w : RegW) : State :=
  if o == 0x08 then (if w.lo then bwdWrite s c w else s)
  else if o == 0x10 then (if w.lo then dtabWrite s c (rwF w 16 8) else s)
  else if 0x100 ≤ o && o < 0x200 then (if w.lo then hopCfg s c ((o - 0x100) / 8) w.val else s)
  else if 0x1000 ≤ o && o < 0x5000 then strmWrite s c ((o - 0x1000) / 0x1000) (o % 0x1000) w
  else if 0x8000 ≤ o && o < 0x9000 then vtWrite s c ((o - 0x8000) / 0x40) (o % 0x40) w
  else s

/-- WIN_CTL_WRITE: the window moves, or BAD is set (R472). -/
def winWrite (s : State) (w : RegW) : State :=
  if !(w.lo && w.hi) then s
  else
    let b := rwF w 30 18 * 2 ^ 30
    let n := 2 ^ s.host.winLog
    if b % n == 0 && (b + n ≤ hbmEnd || (larderBase ≤ b && b + n ≤ larderBase + 12 * 0x10000000)) then
      { s with host := { s.host with winBase := b, winBad := false } }
    else { s with host := { s.host with winBad := true } }

/-- HOST_SIG: one update of a device flag (R499). -/
def hostSig (s : State) (w : RegW) : State :=
  if w.host && w.lo && w.hi then
    updFlag s 0 true (rwF w 6 1 == 1) (rwF w 0 6) (rwF w 7 1) (BitVec.ofNat 32 (rwF w 32 32))
  else s

/-- HWM_CLR (R498). -/
def hwmClr (s : State) : State := { s with trkHwm := s.trk.length }

/-- A vector is unmasked: a message that is pending goes (R476). -/
def openVec (s : State) (v : Nat) : State := flushVecs { s with msixOpen := insertAsc v s.msixOpen }

/-- A write into the MSI-X table: the vector's mask bit is bit 0 of its control word. -/
def msixWrite (s : State) (i : Nat) (w : RegW) : State :=
  let old := tget 0 s.host.msix i
  let v := (if w.lo then w.val % 2 ^ 32 else old % 2 ^ 32) + 2 ^ 32 * (if w.hi then w.val / 2 ^ 32 % 2 ^ 32 else old / 2 ^ 32)
  let s1 := { s with host := { s.host with msix := tset s.host.msix i v } }
  if i % 2 == 1 && w.hi then
    (if rwF w 32 1 == 1 then { s1 with msixOpen := s1.msixOpen.filter (fun x => x ≠ i / 2) } else openVec s1 (i / 2))
  else s1

/-- Sets the halves of a request-buffer word that a write covers. -/
def reqWrite (s : State) (i : Nat) (w : RegW) : State :=
  let old := tget 0 s.host.reqBuf i
  let v := (if w.lo then w.val % 2 ^ 32 else old % 2 ^ 32) + 2 ^ 32 * (if w.hi then w.val / 2 ^ 32 % 2 ^ 32 else old / 2 ^ 32)
  { s with host := { s.host with reqBuf := tset s.host.reqBuf i v } }

/-- POST: GO posts the step that stands in LDG_POST_STEP (R327, R349). -/
def postCtl (s : State) (w : RegW) : State :=
  let len := if w.lo && w.hi then rwF w 0 35 else s.ldg.postLen
  let s1 := { s with ldg := { s.ldg with postLen := len } }
  if w.hi && rwF w 63 1 == 1 then post s1 s1.ldg.postStep len else s1

def globWrite (s : State) (o : Nat) (w : RegW) : State :=
  if o == 0x10 then winWrite s w
  else if o == 0x20 then (if w.lo && rwF w 31 1 == 1 then hwmClr s else s)
  else if o == 0x30 then hostSig s w
  else if w.host && 0x2000 ≤ o && o < 0x3000 then reqWrite s ((o - 0x2000) / 8) w
  else if w.host && 0x10000 ≤ o && o < 0x18000 then msixWrite s ((o - 0x10000) / 8) w
  else s

/-- A write of the register at an 8-byte boundary of BAR0; DICT_CTL's GO is the dictionary's (R464). -/
def regWrite (s : State) (off : Nat) (w : RegW) : State :=
  if off < 0x1000000 then globWrite s off w
  else if off < 0x1400000 then cellWrite s ((off - 0x1000000) / 0x10000) (off % 0x10000) w
  else if off == 0x1C00000 then (if w.lo && w.hi then { s with ldg := { s.ldg with postStep := w.val % 2 ^ 64 } } else s)
  else if off == 0x1C00008 then postCtl s w
  else s

/-- A carter's 64-bit write (R496). -/
def carterWrite (s : State) (off v : Nat) : State := regWrite s off { val := v, host := false }

/-! Doorbells (R474, R475). -/

/-- DOORBELL: TAIL moves forward from RETAIN, or the write is ignored and counted. -/
def doorbell (s : State) (c k v : Nat) : State :=
  let x := getStrm s c k
  let n := 2 ^ x.log2
  let t := v % 2 ^ 20 % n
  let r := retainOf s x
  if (t + n - r % n) % n ≥ (x.tail + n - r % n) % n then setStrm s c k { x with tail := t }
  else bumpErr s 0x2040 9 1 0x1019

end Sys2Proof.Machine
end

