-- ==== Sys2Proof/Machine/Remote.lean ====
section
/-! DEFINITION. What a device does with the messages that reach it (R274-R281, R239-R246, R371): requests checked, forwarded,
applied and answered, and responses that retire tracker entries. -/
namespace Sys2Proof.Machine

/-! Common checks (R262, R274, R276). -/

/-- Counts an error at the port a message came by. DESIGN CHOICE: one of a bulk peer, for which no tally is named, counts in 0x2052:05
(R489, assumption log 131). -/
def countRx (s : State) (key : Nat) : State :=
  if key < 32 then bumpErr s (portIdx key) 0x0F 1 0x0D1A
  else if key ≥ 0x10000 then bumpErr s 0x2052 5 1 0x1019 else s

/-- The message of a row's operands. -/
def rowMsg (x : MsgIn) : Msg := parseMsg x.hdr (x.data.map (fun p => { bytes := p.1, poison := p.2 })) false

/-- A message as a row's operands name it: without the check symbols of its words. -/
def plainMsg (m : Msg) : Msg := { m with data := m.data.map (fun w => { w with chk := [] }) }

/-- The message of a link's buffer that the operands name; one that stands in none comes as it is. -/
def buffered (s : State) (key : Nat) (m : Msg) : Msg := ((tget [] s.rxq key).find? (fun q => plainMsg q == m)).getD m

/-- The message as the units of this device read it (R248). -/
def readMsg (m : Msg) : Msg := { m with data := m.data.map decoded }

/-- Words of a message for this device that the mesh, and the bridge of a stack that is written, see fail (R248, 0x7010:03). -/
def meshFails (s : State) (m : Msg) : Nat :=
  let n := (m.data.filter wordFails).length
  if (m.mtype == 1 || m.mtype == 3) && (match regionOf s m.addr with
    | .hbm => true
    | .larder .. => true
    | _ => false) then 2 * n else n

/-- A message is taken in: it stands in its buffer, or its port is ACTIVE. -/
def hears (s : State) (key : Nat) (m : Msg) : Bool :=
  (tget [] s.rxq key).any (fun q => plainMsg q == m) || (key < 32 && portState s key == 3)

/-- A REFUSE with a status of Table 9-10. -/
def refuse (s : State) (key : Nat) (m : Msg) (status : Nat) : State := respond s key m 0x0A status []

/-- A partition mismatch: counted, the event once per port per step (check 1 of R276). -/
def foreign (s : State) (key : Nat) : State := raiseOnce (countRx s key) 0x0D19 (64 * evStep s + key) []

/-- The device ID lies in the plan's partition. -/
def inPartition (s : State) (dev : Nat) : Bool :=
  match s.plan with
  | some p => p.ranges.any (fun r => r.1 ≤ dev && dev ≤ r.2)
  | none => false

def isReq (m : Msg) : Bool := 1 ≤ m.mtype && m.mtype ≤ 4

/-- A malformed message: counted; a request of the partition is answered (R274). -/
def malformed (s : State) (key : Nat) (m : Msg) : State :=
  let s1 := countRx s key
  if isReq m && inPartition s m.src then refuse s1 key m 7 else s1

/-- A request or response for another device is passed on with its words as they are; Mill and CONTROL messages never are. One that has
taken 31 hops or has no route is discarded, counted and answered NOROUTE, a response too (R278, Table 9-18). -/
def forward (s : State) (key : Nat) (m : Msg) : State :=
  if !isReq m && !(8 ≤ m.mtype && m.mtype ≤ 11) then countRx s key
  else if m.hops ≥ 31 then refuse (countRx s key) key m 5
  else match routeOf s m.dst with
    | none => refuse (countRx s key) key m 5
    | some (port, dl) =>
      enqueue (bumpPerf s 0x2030 0x0C 1) port { m with hops := m.hops + 1, vc := if dl && m.vc % 2 == 0 then m.vc + 1 else m.vc }

/-- What the common checks leave of a message. -/
inductive Gate
  | gone (s : State)
  | take (s : State) (m : Msg)

/-- A message that stays in its buffer for its handler, as its words have been read. -/
def rereadRx (s : State) (key : Nat) (m : Msg) : State :=
  if readMsg m == m then s else { s with rxq := tset s.rxq key ((tget [] s.rxq key).map (fun q => if q == m then readMsg m else q)) }

/-- A TRANSFER port carries the transfer's writes of the order's peer, what answers them, and XFER_DONE (R364, R366). -/
def xferCarries (s : State) (key : Nat) (m : Msg) : Bool :=
  !s.rcv.xferPorts.contains key || (m.src == s.rcv.peer && (m.mtype == 1 || m.mtype == 8 || m.mtype == 0x0A || m.mtype == 0x58))

/-- Partition, form and destination of a message of a row's type; what a TRANSFER port does not carry is discarded and counted
(assumption log 121). `keep`: its handler takes it out of the buffer. -/
def gate (s0 : State) (key mtype : Nat) (x : MsgIn) (keep : Bool) : Gate :=
  if (rowMsg x).mtype != mtype || !hears s0 key (rowMsg x) then .gone s0
  else
    let m := buffered s0 key (rowMsg x)
    let s := takeRx s0 key m
    if m.part != ownPart s then .gone (foreign s key)
    else if m.bad then .gone (malformed s key m)
    else if !xferCarries s key m then .gone (countRx s key)
    else if m.dst != ownId s then .gone (forward s key m)
    else .take (bumpErr (if keep then rereadRx s0 key m else s) 0x7010 3 (meshFails s m) 0x0B15) (readMsg m)

/-! The tee (R370, R371). -/

/-- SHADOW_RSP: a response with data, named by cell, stream, ring position and ordinal (Table 12-5). -/
def teeRsp (s : State) (t : Trk) (f : Fly) (data : List DWord) : State :=
  match s.tee with
  | some z => (match z.first, z.ports with
    | some n, p :: _ =>
      if f.step < n then s
      else enqueue s p { mtype := 0x55, vc := 5, part := ownPart s, src := ownId s, dst := z.dev, data := data,
                         spec := t.cell % 64 + 2 ^ 6 * (t.strm % 4) + 2 ^ 8 * (f.pos % 2 ^ 20) + 2 ^ 28 * (t.ord % 2 ^ 16) +
                           2 ^ 48 * (f.step % 2 ^ 32) + 2 ^ 80 * s.epoch }
    | _, _ => s)
  | none => s

/-! Requests at their target. -/

/-- Check 3 of R276 for memory, with the exceptions of R354, R366, R369 and R370. -/
def reqAddrOk (s : State) (key : Nat) (m : Msg) (n : Nat) (write : Bool) : Bool :=
  let a := m.addr
  memOk s a n && (!s.rcv.xferPorts.contains key || inKept s a n) &&
    ((!inJournal s a n && !inBank s a n && !(write && inMirror s a n && buddyOf s != some m.src)) ||
     (write && s.holding && s.xferFrom == some m.src && inKept s a n) ||
     (teePort s key && inKept s a n) ||
     (!write && buddyOf s == some m.src && m.prio == 0 && inBank s a n))

/-- A WRITE stands in memory: arrivals are counted, and it is acknowledged. -/
def writeDone (s : State) (key : Nat) (m : Msg) : State :=
  respond (teeMsg (rowsArrive (hbmSeen s) m.src m.addr m.data.length) m) key m 8 0 []

/-- A message whose write must wait for old contents stays in its channel until they are read (R359). -/
def stayCow (s : State) (key : Nat) (m : Msg) (a n : Nat) : State := (cowUnits s [(a, n)]).foldl cowEnter (stayRx s key m)

/-- Tallies of a word that was corrected, or found uncorrectable, in its tier (Tables 8-9, 8-10). -/
def countWord (s : State) (a : Nat) (bad : Bool) : State :=
  let st (k sub : Nat) : State := bumpErr s (0x4800 + 0x40 * k) sub 1 0x0B15
  match regionOf s a with
  | .hbm => st (stackOfHbm (oget s 0x2020 2) a) (if bad then 7 else 6)
  | .larder k _ => st k (if bad then 9 else 8)
  | .bench _ _ => bumpErr s 0x7010 (if bad then 2 else 1) 1 0x0B15
  | _ => s

/-- A word with its check symbols that decodes corrected (R248). -/
def wordFixed (w : DWord) : Bool :=
  !w.poison && !w.chk.isEmpty && (match wordDecode (w.bytes ++ w.chk) with
    | some (_, fixed) => fixed
    | none => false)

/-- Words that come with wrong symbols and are stored: the storing tier corrects or poisons each at its first read or scrub, and counts it.
DESIGN CHOICE: it does so as it stores the word (R248, R254, assumption log 146). -/
def tierSeen (s : State) (a : Nat) (ws : List DWord) : State :=
  ws.zipIdx.foldl (fun s p =>
    if wordFails p.1 then baroAdd (countWord s (a + 32 * p.2) true) 2 1
    else if wordFixed p.1 then baroAdd (countWord s (a + 32 * p.2) false) 1 1
    else s) s

/-- SWEUL_WRITE: a WRITE applied and acknowledged. -/
def sweulWrite (s0 : State) (key : Nat) (x : MsgIn) : State :=
  match gate s0 key 1 x false with
  | .gone s => s
  | .take s m =>
    let w : PendW := { a := m.addr, words := m.data, resp := some (key, m) }
    let raw := (buffered s0 key (rowMsg x)).data
    if !reqAddrOk s key m (32 * m.data.length) true then refuse s key m 1
    else if mustPend s m.addr (32 * m.data.length) then otherPut (tierSeen s m.addr raw) w
    else writeDone (flushOther (putPend (tierSeen s m.addr raw) w)) key m

/-- SWEUL_READ: words with their poison. -/
def sweulRead (s0 : State) (key : Nat) (x : MsgIn) : State :=
  match gate s0 key 2 x false with
  | .gone s => s
  | .take s m =>
    let n := m.spec % 32 + 1
    if n > 16 then malformed s key m
    else if !reqAddrOk s key m (32 * n) false then refuse s key m 1
    else respond (teeMsg (hbmSeen s) m) key m 9 0 ((List.range n).map (fun i => readWord s (m.addr / 32 + i)))

/-- The operation of an ATOMIC message (Table 9-9); a remote user is known by its device. -/
def atomOf (m : Msg) : AtomReq :=
  let f (i n : Nat) : Nat := m.spec / 2 ^ i % 2 ^ n
  { aop := f 0 4, w := f 4 4, rank := f 8 12, last := f 20 1 == 1, nodata := f 21 1 == 1, addr := m.addr, words := m.data,
    user := (m.src, 64, 0) }

/-- Operations that travel: every one of Table 8-5 but WOPEN. -/
def aopOk (a : Nat) : Bool := a < 10 || a == 0xB

/-- An operation that meets a poisoned word at its target stops there (R249): no status of Table 9-10 names that, and the status
answered is free (assumption log 113). -/
def poisonedAtomic (s : State) (key : Nat) (m : Msg) (r : AtomReq) (i : Nat) : State :=
  let a := r.addr / 32 * 32 + 32 * i
  let s1 := if isPoison s a then raiseUncorr s a (evStep s) else s
  let (v, s2) := drawBelow (atomPart s1 (reqStep s1) r i) 256
  respond (teeMsg (flushOther s2) m) key m (if v == 0 then 8 else 0x0A) v []

/-- SWEUL_ATOMIC: accepted in rank order or answered RETRY, and applied (R242-R246). -/
def sweulAtomic (s0 : State) (key : Nat) (x : MsgIn) : State :=
  match gate s0 key 3 x false with
  | .gone s => s
  | .take s m =>
    let r := atomOf m
    let late := s.lateOps.contains (m.src, m.trk)
    let s1 := { s with lateOps := s.lateOps.filter (fun p => p ≠ (m.src, m.trk)) }
    if !aopOk r.aop || (aopCas r.aop && m.data.length != 1) || (m.data.isEmpty && !(r.nodata && aopOrdered r.aop)) then malformed s key m
    else if !reqAddrOk s key m (atomSpan r) true then refuse s1 key m 1
    else match atomTurn s r m.trk with
      | .status n => refuse (holdAtom s1 r m.trk false) key m n
      | .retry =>
        if late then refuse (holdAtom s1 r m.trk false) key m 3
        else respond (countRetry (holdAtom s1 r m.trk true) m.addr) key m 0x0B 0 []
      | .go =>
        if mustPend s r.addr (atomLen r) then stayCow s1 key m r.addr (atomLen r)
        else match atomStop s1 r with
        | some i => poisonedAtomic (holdAtom s1 r m.trk false) key m r i
        | none =>
        let (s2, old, sw) := atomApply (holdAtom s1 r m.trk false) (reqStep s1) r
        let ack := if aopCas r.aop then 2 ^ 8 * old + (if sw then 2 ^ 72 else 0) else 0
        respond (teeMsg (flushOther (hbmSeen s2)) m) key m 8 ack []

/-- SIGNAL: applied and acknowledged, held until its step opens, left in its channel, or refused. -/
def signalRx (s0 : State) (key : Nat) (x : MsgIn) : State :=
  match gate s0 key 4 x false with
  | .gone s => s
  | .take s m =>
    match sigCheck s (sgDev m) (sgFlag m) (sgCell m) (sgStep m) with
    | .apply par => respond (teeMsg (sigApply s m par) m) key m 8 0 []
    | .hold => teeMsg { s with heldSig := s.heldSig ++ [(key, m)] } m
    | .full => stayRx s key m
    | .refuse n => refuse s key m n

/-! Responses (R275, R277, R280). -/

/-- The entry that a response answers; a generation that does not match is counted. -/
def trkOf (s : State) (m : Msg) : Option Trk :=
  match tfind s.trk m.trk with
  | some t => if t.gen == m.tgen then some t else none
  | none => none

def countGen (s : State) (key : Nat) : State := if key < 32 then bumpPerf s (portIdx key) 0x14 1 else s

/-- The transfer has ended: XFER_DONE with the units sent (R366). -/
def xferFinish (s : State) (x : XferSt) : State :=
  let s1 := { s with rcv := { s.rcv with xfer := none } }
  match x.ports with
  | p :: _ =>
    let (gid, rk) := match jobGroup s with
      | some g => (g.gid, g.rank)
      | none => (0, 0)
    enqueue s1 p { mtype := 0x58, vc := 5, part := ownPart s, src := ownId s, dst := x.peer,
                   spec := millSpec gid rk 0 0 0 0 s.rcv.u s.epoch, data := [dword (natLe x.sent 8)] }
  | [] => s1

/-- A transfer's write has been answered. -/
def xferAcked (s : State) : State :=
  match s.rcv.xfer with
  | none => s
  | some x =>
    let y := { x with out := x.out - 1 }
    if y.out == 0 then xferFinish s x else { s with rcv := { s.rcv with xfer := some y } }

/-- What waits on an entry ends with a cause, whatever the entry is for. -/
def trkEnd (s : State) (e : Nat) (t : Trk) (cause : Nat) : State :=
  if t.kind == 3 then unstall { retireTrk s e with rcv := { s.rcv with xfer := none } }
  else if t.kind == 4 then unstall (repairFailed (retireTrk s e) (repairUnit t))
  else if t.msg.mtype == 0x28 && cause == 0x32 then unstall (countRefused (retireTrk s e) t.cell t.fly)
  else trkFail s e t cause

/-- The swap record of a CAS, written by the carter (R240, R275). -/
def casAnswer (s : State) (t : Trk) (f : Fly) (old : Nat) (sw : Bool) : State :=
  match f.op with
  | .ratom op => if aopCas op.aop.toNat then flushWt (casRecord s f.step t.cell (raSrc op.opnds.toNat) old sw) t.cell t.strm f.id else s
  | _ => s

def isCasMsg (m : Msg) : Bool := m.mtype == 3 && aopCas (m.spec % 16)

/-- An OK answer without read data. -/
def okAck (s : State) (e : Nat) (t : Trk) (old : Nat) (sw : Bool) : State :=
  let s1 := retireTrk s e
  if t.kind == 3 then unstall (xferAcked s1)
  else match trkFly s1 t with
    | none => unstall s1
    | some f =>
      let s2 := if t.kind == 0 && isCasMsg t.msg then
          casAnswer (teeRsp s1 t f [dword (natLe old 8 ++ [if sw then 1#8 else 0#8])]) t f old sw else s1
      let s3 := if t.msg.mtype == 0x28 then countAck s2 t.cell t.fly t.msg.dst else s2
      match trkFly s3 t with
      | some g => unstall (ackOne s3 t.cell t.strm g)
      | none => unstall s3

/-- ACK. -/
def ackRx (s0 : State) (key : Nat) (x : MsgIn) : State :=
  match gate s0 key 8 x false with
  | .gone s => s
  | .take s m =>
    match trkOf s m with
    | none => countGen s key
    | some t => if m.spec % 256 != 0 then trkEnd s m.trk t (statusCause (m.spec % 256))
        else okAck s m.trk t (m.spec / 2 ^ 8 % 2 ^ 64) (m.spec / 2 ^ 72 % 2 == 1)

/-- The carter writes read data to its destination: memory, registers, or on to another device (R206, R275). -/
def putData (s : State) (t : Trk) (f : Fly) (ws : List DWord) : State :=
  let a := gLocal t.dest
  if !isLocalAddr s t.dest then
    match routeOf s (gDev t.dest) with
    | none => s
    | some (port, dl) =>
      let (s1, f1) := sendFly s t.cell t.strm f
        [{ port := port, dest := 0, kind := 0, msg := reqMsg s 1 t.msg.prio (gDev t.dest) dl a 0 ws }]
      putFly s1 t.cell t.strm f1
  else if inRegs a then
    ws.zipIdx.foldl (fun s p => (List.range 4).foldl (fun s i =>
      carterWrite s (a - regBase + 32 * p.2 + 8 * i) (leNat (lslice p.1.bytes (8 * i) 8))) s) s
  else
    flushWt (ws.zipIdx.foldl (fun s p => cmdWriteWord s f.step (a + 32 * p.2) p.1) (hbmSeen s)) t.cell t.strm f.id

/-- Data of a READ of a command: a poisoned word faults it (R249). -/
def readAnswer (s : State) (e : Nat) (t : Trk) (ws : List DWord) : State :=
  let s1 := retireTrk s e
  match trkFly s1 t with
  | none => unstall s1
  | some f =>
    match ws.findIdx? (fun w => w.poison) with
    | some i => unstall (faultPoison (retireFly s1 t.cell t.strm f.id) t.cell t.strm f 4 0 (t.msg.addr + 32 * i))
    | none =>
      let s2 := putData (teeRsp s1 t f ws) t f ws
      match trkFly s2 t with
      | some g => unstall (ackOne s2 t.cell t.strm g)
      | none => unstall s2

/-- READ_DATA. -/
def readDataRx (s0 : State) (key : Nat) (x : MsgIn) : State :=
  match gate s0 key 9 x false with
  | .gone s => s
  | .take s m =>
    match trkOf s m with
    | none => countGen s key
    | some t =>
      if m.spec % 256 != 0 then trkEnd s m.trk t (statusCause (m.spec % 256))
      else if t.kind == 4 then
        let s1 := retireTrk s m.trk
        if m.data.any (fun w => w.poison) then unstall (repairFailed s1 (repairUnit t))
        else unstall (repairGot (flushOther (wordsWrite s1 t.dest m.data)) (repairUnit t))
      else if t.kind == 0 && isLocalAddr s t.dest && !inRegs (gLocal t.dest) && mustPend s (gLocal t.dest) (32 * m.data.length) then
        stayCow s key m (gLocal t.dest) (32 * m.data.length)
      else
        let s1 := if t.kind == 0 && isLocalAddr s t.dest && !inRegs (gLocal t.dest) && !m.data.any (fun w => w.poison) then
            tierSeen s (gLocal t.dest) (buffered s0 key (rowMsg x)).data else s
        readAnswer s1 m.trk t m.data

/-- REFUSE: the matching cause is recorded (R277). -/
def refuseRx (s0 : State) (key : Nat) (x : MsgIn) : State :=
  match gate s0 key 0x0A x false with
  | .gone s => s
  | .take s m =>
    match trkOf s m with
    | none => countGen s key
    | some t => trkEnd s m.trk t (if m.spec % 256 == 8 then 0x32 else statusCause (m.spec % 256))

/-- RETRY: the entry stays; the carter sends the operation again 1 us later (R243). -/
def retryRx (s0 : State) (key : Nat) (x : MsgIn) : State :=
  match gate s0 key 0x0B x false with
  | .gone s => s
  | .take s m =>
    match trkOf s m with
    | none => countGen s key
    | some t => { s with trk := tset s.trk m.trk { t with retry := true } }

/-- REMOTE_TIMEOUT: no response came within the remote timeout (R281). -/
def remoteTimeout (s : State) (e : Nat) : State :=
  match tfind s.trk e with
  | some t => if t.port == 0xFF || t.retry then s else trkEnd s e t 0x61
  | none => s

/-- WINDOW_TIMEOUT: an ordered operation was not accepted in time: this target refuses it, a local one at once, another
device's at its next resend (R243). -/
def windowTimeout (s : State) (src e : Nat) : State :=
  let s1 := raise s 0x0B14 []
  if src == ownId s then
    match tfind s.trk e with
    | some t => if t.port == 0xFF then trkFail s1 e t 0x52 else s
    | none => s
  else if s.lateOps.contains (src, e) then s else { s1 with lateOps := s1.lateOps ++ [(src, e)] }

/-- DRV_COUNT: a count message is checked by its CRC and accepted, left until its session counts, or refused (R159). -/
def drvCountRx (s0 : State) (key : Nat) (x : MsgIn) : State :=
  match gate s0 key 0x28 x false with
  | .gone s => s
  | .take s m =>
    match countSess s (cntMb m) m.src (cntCrc m) with
    | none => stayRx s key m
    | some i => match s.sess[i]? with
      | none => s
      | some q =>
        if q.d.crc != cntCrc m then sessTable (refuse (teeMsg s m) key m 8) i
        else takeCounts (respond (teeMsg s m) key m 8 0 []) i m

/-! Mill, Ledger and recovery messages. -/

/-- On a shadow, a teed message counts as come by the link on which its sender reaches the pattern (R370). -/
def effKey (s : State) (key : Nat) (m : Msg) : Nat :=
  if !teePort s key then key
  else
    let ls := (s.plan.map (fun p => p.groups)).getD [] |>.flatMap (fun g => g.links.flatMap (fun l => [l.2, l.1]) ++ g.kids ++ [g.parent])
    match ls.find? (fun l => l.link != 0xFF && l.nid == m.src) with
    | some l => linkKey l
    | none => key

/-- While a restore runs, a message of another epoch is discarded (R375). -/
def restoreDrops (s : State) (m : Msg) : Bool :=
  match s.rcv.restore with
  | some r => mEpoch m != r.epoch
  | none => false

/-- A message of the Mill's or Ledger's own channels, after the common checks, goes to its handler. -/
def ctrlRow (s0 : State) (key mtype : Nat) (x : MsgIn) (h : State → Nat → Msg → State) : State :=
  if key == selfKey then h s0 key (rowMsg x)
  else match gate s0 key mtype x true with
    | .gone s => s
    | .take s m =>
      if restoreDrops s m then takeRx s0 key m else
      let k := effKey s key m
      let s1 := if k == key then s else putRx (withhold (takeRx s key m) k m) k m
      h s1 k m

end Sys2Proof.Machine
end

