-- ==== Sys2Proof/Machine/Plans.lean ====
section
/-! DEFINITION. The fabric plan (R288-R298): its body and Mill section, the checks of Table 9-14 but the first, acceptance and
the end of a plan. -/
namespace Sys2Proof.Machine

/-- A little-endian field of a body. -/
def fieldLe (b : List Byte) (i n : Nat) : Nat := leNat (lslice b i n)

/-- Reserved bytes are zero. -/
def zeroIn (b : List Byte) (i n : Nat) : Bool := (lslice b i n).all (fun x => x == 0#8)

/-! The body (Tables 9-15, 9-16). -/

def planRanges (b : List Byte) : List (Nat × Nat) :=
  (List.range (fieldLe b 3 1)).map (fun i => (fieldLe b (64 + 4 * i) 2, fieldLe b (66 + 4 * i) 2))

/-- A port entry at an offset. -/
def portEntry (b : List Byte) (o : Nat) : PlanPort :=
  { used := fieldLe b o 1 == 1, gen := fieldLe b (o + 1) 1, nport := fieldLe b (o + 2) 1, nid := fieldLe b (o + 4) 2,
    ndigest := lslice b (o + 8) 32 }

def portEntryBad (b : List Byte) (o : Nat) : Bool :=
  let gen := fieldLe b (o + 1) 1
  fieldLe b o 1 > 1 || (if fieldLe b o 1 == 1 then gen < 1 || gen > 3 else gen != 0) || fieldLe b (o + 2) 1 > 31 ||
    !zeroIn b (o + 3) 1 || !zeroIn b (o + 6) 2

def planPorts (b : List Byte) : List PlanPort := (List.range 32).map (fun p => portEntry b (320 + 40 * p))

def planRoutes (b : List Byte) : List Route :=
  (List.range (fieldLe b 26 2)).map (fun i =>
    let o := 1600 + 8 * i
    ⟨fieldLe b o 2, fieldLe b (o + 2) 2, fieldLe b (o + 4) 1, fieldLe b (o + 5) 1 == 1⟩)

/-! The Mill section (Tables 10-1, 10-2). -/

/-- A link entry at an offset, and its form. -/
def linkEntry (b : List Byte) (o : Nat) : MLink := ⟨fieldLe b o 1, fieldLe b (o + 2) 2⟩

def linkBad (l : MLink) : Bool := l.link > 31 && l.link != 0x40 && l.link != 0x41 && l.link != 0xFF

/-- The group entry at an offset. -/
def groupEntry (b : List Byte) (o : Nat) : MGroup :=
  let ring := fieldLe b o 1 == 1
  let rails := fieldLe b (o + 1) 1
  let size := fieldLe b (o + 6) 2
  { ring := ring, rails := rails, fore := fieldLe b (o + 2) 1 % 2 == 1, gid := fieldLe b (o + 4) 2, size := size,
    rank := fieldLe b (o + 8) 2,
    links := if ring && size ≥ 2 then (List.range rails).map (fun k => (linkEntry b (o + 16 + 8 * k), linkEntry b (o + 20 + 8 * k))) else [],
    parent := if ring then {} else linkEntry b (o + 16),
    kids := if ring then [] else (List.range (fieldLe b (o + 3) 1)).map (fun k => linkEntry b (o + 48 + 4 * k)) }

/-- A group entry breaks R296 or R297 on its own. -/
def groupEntryBad (b : List Byte) (o : Nat) : Bool :=
  let kind := fieldLe b o 1
  let rails := fieldLe b (o + 1) 1
  let nch := fieldLe b (o + 3) 1
  let size := fieldLe b (o + 6) 2
  let rank := fieldLe b (o + 8) 2
  let g := groupEntry b o
  let gap (i n : Nat) : Bool := !zeroIn b (o + i) n
  kind < 1 || kind > 2 || fieldLe b (o + 2) 1 > 1 || fieldLe b (o + 4) 2 == 0 || size < 1 || size > 4096 || rank ≥ size || gap 10 6 || gap 176 80 ||
    (if kind == 1 then
      rails < 1 || rails > 4 || nch != 0 || gap 48 128 ||
        (if size ≥ 2 then g.links.any (fun l => l.1.link == 0xFF || l.2.link == 0xFF) || gap (16 + 8 * rails) (32 - 8 * rails) else gap 16 32)
     else
      rails != 1 || nch > 32 || gap 20 28 || gap (48 + 4 * nch) (128 - 4 * nch) || ((g.parent.link == 0xFF) != (rank == 0)) ||
        g.kids.any (fun l => l.link == 0xFF)) ||
    (g.links.flatMap (fun l => [l.1, l.2]) ++ g.parent :: g.kids).any linkBad ||
    (List.range ((if kind == 1 then 8 else 1) + nch)).any (fun i =>
      let p := if kind == 1 then o + 16 + 4 * i else if i == 0 then o + 16 else o + 48 + 4 * (i - 1)
      !zeroIn b (p + 1) 1)

def groupLinks (g : MGroup) : List MLink :=
  (g.links.flatMap (fun l => [l.1, l.2]) ++ g.parent :: g.kids).filter (fun l => l.link != 0xFF)

/-- Device IDs that the ranges cover. -/
def rangeCount (rs : List (Nat × Nat)) : Nat := (rs.map (fun r => r.2 + 1 - r.1)).sum

/-- The Mill section breaks R297. -/
def millSectionBad (p : Plan) (b : List Byte) (len : Nat) : Bool :=
  if len == 0 then rangeCount p.ranges != 1
  else
    let n := fieldLe b 3649 1
    let gids := p.groups.map (fun g => g.gid)
    fieldLe b 3648 1 != 1 || n < 1 || n > 64 || len != 32 + 256 * n || !zeroIn b 3651 29 ||
      (List.range n).any (fun g => groupEntryBad b (3680 + 256 * g)) || gids.eraseDups.length != gids.length ||
      p.groups.any (fun g => (groupLinks g).any (fun l => l.nid == p.dev ||
        (l.link < 32 && (let e := p.ports.getD l.link {}; !e.used || e.nid != l.nid)))) ||
      (match p.groups[p.jobTree]? with
       | some g => g.ring || g.size != rangeCount p.ranges
       | none => true)

/-- The plan of a body. -/
def planOf (b : List Byte) : Plan :=
  let len := fieldLe b 28 2
  { degraded := fieldLe b 2 1 % 2 == 1, planId := fieldLe b 4 8, seq := fieldLe b 12 4, part := fieldLe b 16 2, dev := fieldLe b 18 2,
    shard := fieldLe b 20 4, buddy := fieldLe b 24 2, ranges := planRanges b, ports := planPorts b, routes := planRoutes b,
    groups := if len == 0 then [] else (List.range (fieldLe b 3649 1)).map (fun g => groupEntry b (3680 + 256 * g)),
    jobTree := if len == 0 then 0 else fieldLe b 3650 1 }

/-- Check 2 of Table 9-14: the form of a body (R289, R297). -/
def planFormBad (b : List Byte) : Bool :=
  let nr := fieldLe b 3 1
  let nt := fieldLe b 26 2
  let len := fieldLe b 28 2
  b.length < 3648 || fieldLe b 0 2 != 1 || fieldLe b 2 1 > 1 || nr < 1 || nr > 64 || fieldLe b 16 2 == 0 || nt > 256 || len > 16416 ||
    b.length != 3648 + len || !zeroIn b 30 2 || !zeroIn b (64 + 4 * nr) (256 - 4 * nr) || !zeroIn b (1600 + 8 * nt) (2048 - 8 * nt) ||
    (planRanges b).any (fun r => r.1 > r.2) || (List.range 32).any (fun p => portEntryBad b (320 + 40 * p)) ||
    (List.range nt).any (fun i => fieldLe b (1600 + 8 * i + 4) 1 > 31 || fieldLe b (1600 + 8 * i + 5) 1 > 1 || !zeroIn b (1600 + 8 * i + 6) 2) ||
    millSectionBad (planOf b) b len

def inRanges (rs : List (Nat × Nat)) (d : Nat) : Bool := rs.any (fun r => r.1 ≤ d && d ≤ r.2)

/-- A route's range lies in the ranges. -/
def spanInRanges (rs : List (Nat × Nat)) (lo hi : Nat) : Bool :=
  inRanges rs lo && inRanges rs hi && rs.all (fun r => !(lo ≤ r.2 && r.2 < hi) || inRanges rs (r.2 + 1))

def rangesOverlap : List (Nat × Nat) → Bool
  | [] => false
  | r :: t => t.any (fun q => r.1 ≤ q.2 && q.1 ≤ r.2) || rangesOverlap t

/-- Ascending without overlap. -/
def routesAscend : List Route → Bool
  | [] => true
  | [r] => r.lo ≤ r.hi
  | r :: q :: t => r.lo ≤ r.hi && r.hi < q.lo && routesAscend (q :: t)

/-- Check 8 of Table 9-14: a plan's routes and the ports they name. -/
def routesBad (p : Plan) : Bool :=
  !routesAscend p.routes || p.routes.any (fun r => !(p.ports.getD r.port {}).used || (r.lo ≤ p.dev && p.dev ≤ r.hi))

/-- Checks 3, 6, 7 and 8 of Table 9-14: the first that fails, 0 for none. `own`: the device's identity digest;
`tee`: the ports that TEE amendments name. -/
def planBodyCheck (own digest : List Byte) (p : Plan) (tee : List Nat) : Nat :=
  let used := p.ports.zipIdx.filter (fun e => e.1.used)
  if digest != own then 3
  else if used.any (fun e => !genAllowed e.2 e.1.gen) then 6
  else if !inRanges p.ranges p.dev || rangesOverlap p.ranges ||
      used.any (fun e => !inRanges p.ranges e.1.nid || (e.1.nid == p.dev && !tee.contains e.2)) ||
      p.routes.any (fun r => !spanInRanges p.ranges r.lo r.hi) ||
      p.groups.any (fun g => (groupLinks g).any (fun l => !inRanges p.ranges l.nid)) then 7
  else if routesBad p then 8
  else 0

/-- R290: what a degraded plan may change. -/
def degradedBad (old new : Plan) : Bool :=
  !(new.planId == old.planId && new.part == old.part && new.dev == old.dev && new.shard == old.shard && new.buddy == old.buddy &&
    new.ranges == old.ranges && new.groups == old.groups && new.jobTree == old.jobTree &&
    (old.ports.zip new.ports).all (fun e => e.1 == e.2 || (e.1.used && !e.2.used)))

/-! Endpoints (Table 16-7). -/

/-- The 64-byte entry of an endpoint; 64 to 67 are the management entries (R482). -/
def epEntry (s : State) (i : Nat) : List Byte :=
  let t := if i < 64 then tget [] s.doms (okey 0x2051 1) else tget [] s.doms (okey 0x2051 2)
  lslice t (64 * (if i < 64 then i else i - 64)) 64

/-- KIND: 0 unused, 1 DEVICE, 2 STORAGE, 3 MANAGER. -/
def epKind (s : State) (i : Nat) : Nat := fieldLe (epEntry s i) 0 1

def epPort (s : State) (i : Nat) : Nat := fieldLe (epEntry s i) 1 1

def epDev (s : State) (i : Nat) : Nat := fieldLe (epEntry s i) 4 2

def epDigest (s : State) (i : Nat) : List Byte := lslice (epEntry s i) 32 32

def allEps : List Nat := List.range 68

/-- The link key of a DEVICE endpoint: its device at its Ethernet port (R318, R481). -/
def epKey (s : State) (i : Nat) : Nat := bulkKey (epPort s i) (epDev s i)

/-- The DEVICE endpoint of a link key. -/
def epOfKey (s : State) (key : Nat) : Option Nat := (List.range 64).find? (fun i => epKind s i == 1 && epKey s i == key)

/-- A plan's Ethernet links name DEVICE endpoints (R481). -/
def ethLinksBad (s : State) (p : Plan) : Bool :=
  p.groups.any (fun g => (groupLinks g).any (fun l =>
    (l.link == 0x40 || l.link == 0x41) &&
      !(List.range 64).any (fun i => epKind s i == 1 && epDev s i == l.nid && epPort s i == l.link - 0x40)))

/-- Checks 2 to 9 of Table 9-14, in order; 0 when the plan passes. -/
def planCheck (s : State) (b : List Byte) : Nat :=
  let p := planOf b
  let c := planBodyCheck (idDigest s) (lslice b 32 32) p []
  if planFormBad b || ethLinksBad s p then 2
  else if c == 3 then 3
  else if (match s.lock.planSeq with
    | some n => decide (p.seq ≤ n)
    | none => false) then 4
  else if stepOpen s then 5
  else if c != 0 then c
  else if p.degraded && (match s.plan with
    | some q => degradedBad q p
    | none => true) then 9
  else 0

/-! Taking effect. -/

/-- A checkpoint is abandoned, one that waits for its step open too (R363, R372, assumption log 132). -/
def ckptAbandon (s : State) : State :=
  if s.fronts.any (fun f => f.kind == 2) || s.rcv.ckptSent.isSome || s.rcv.ckptDue.isSome then
    raise { s with fronts := s.fronts.filter (fun f => f.kind ≠ 2), rcv := { s.rcv with ckptSent := none, ckptDue := none } } 0x0F1C []
  else s

/-- A plan becomes the device's plan, its body kept for measurement 7; discovery begins on every port (R288). -/
def takePlan (s : State) (body : List Byte) (p : Plan) : State :=
  let s1 := { s with plan := some p, ranks := [], doms := tset s.doms (okey 0x2031 1) body, inPlan := false, rcv := { s.rcv with mirrorDue := p.buddy != p.dev } }
  let s2 := if oget s1 0x5800 1 == 1 then oset s1 0x5800 1 2 else s1
  discoverAll s2

/-- PLAN: a plan that passes every check takes effect whole (R288). -/
def acceptPlan (s : State) (b : List Byte) : State :=
  let p := planOf b
  takePlan (raise (ckptAbandon { s with lock := { s.lock with planSeq := some p.seq } }) 0x0D18 []) b p

/-- A refused plan changes nothing but the reason (R288). -/
def refusePlan (s : State) (reason planId : Nat) : State :=
  raise (oset s 0x2030 0x0D reason) 0x0D17 ([reason] ++ List.replicate 7 0 ++ pb planId 8)

/-- The plan is dropped (R423, R433, R371); every port is discovered again. -/
def dropPlan (s : State) : State :=
  let s1 := oset { s with plan := none, ranks := [], doms := tdel s.doms (okey 0x2031 1), inPlan := false, rcv := { s.rcv with mirrorDue := false },
                          fronts := s.fronts.filter (fun f => f.kind == 2) } 0x5800 2 0
  discoverAll (oset s1 0x5800 4 0xFFFFFFFF)

end Sys2Proof.Machine
end

