-- ==== Sys2Proof/Machine/Bulk.lean ====
section
/-! DEFINITION. The bulk transport (R481-R489): the endpoint table, packets and frames, sessions and their keys, sending in
order within the window, and the messages that wait for a DEVICE peer. -/
namespace Sys2Proof.Machine

/-! Frames (R480, R483). -/

def getEth (s : State) (p : Nat) : EthSt := tget {} s.eth p

def ethUp (s : State) (p : Nat) : Bool := oget s (0x2048 + p) 3 == 1

/-- The sum of big-endian 16-bit words. -/
def sum16 : List Byte → Nat
  | a :: b :: t => 256 * a.toNat + b.toNat + sum16 t
  | [a] => 256 * a.toNat
  | [] => 0

/-- The Internet checksum. -/
def netSum (bs : List Byte) : Nat :=
  let f (n : Nat) : Nat := n % 65536 + n / 65536
  65535 - f (f (sum16 bs))

/-- An Ethernet header with an optional VLAN tag. -/
def ethHead (dst src : List Byte) (vlan ty : Nat) : List Byte :=
  dst ++ src ++ (if vlan == 0 then [] else natBe 0x8100 2 ++ natBe vlan 2) ++ natBe ty 2

/-- An IPv4 header without options, DF set. -/
def ip4Head (tos len id proto : Nat) (src dst : List Byte) : List Byte :=
  let h (c : Nat) : List Byte := [0x45#8] ++ natBe tos 1 ++ natBe len 2 ++ natBe id 2 ++ natBe 0x4000 2 ++ natBe 64 1 ++ natBe proto 1 ++
    natBe c 2 ++ src ++ dst
  h (netSum (h 0))

/-- An IPv6 header. -/
def ip6Head (tc flow len nxt hop : Nat) (src dst : List Byte) : List Byte :=
  natBe (6 * 2 ^ 28 + tc * 2 ^ 20 + flow) 4 ++ natBe len 2 ++ natBe nxt 1 ++ natBe hop 1 ++ src ++ dst

/-- The pseudo-header of an upper layer's checksum. -/
def pseudo (v4 : Bool) (src dst : List Byte) (proto len : Nat) : List Byte :=
  if v4 then src ++ dst ++ [0#8] ++ natBe proto 1 ++ natBe len 2 else src ++ dst ++ natBe len 4 ++ zeros 3 ++ natBe proto 1

/-- A UDP datagram. -/
def udpOf (v4 : Bool) (src dst : List Byte) (sp dp : Nat) (pl : List Byte) : List Byte :=
  let n := 8 + pl.length
  let h (c : Nat) : List Byte := natBe sp 2 ++ natBe dp 2 ++ natBe n 2 ++ natBe c 2 ++ pl
  let c := netSum (pseudo v4 src dst 17 n ++ h 0)
  h (if c == 0 then 0xFFFF else c)

/-- The frame of a packet to an endpoint; `bits`: what the spec leaves open in its IP header. -/
def bulkFrame (s : State) (ep bits : Nat) (pkt : List Byte) : List Byte :=
  let e := epEntry s ep
  let p := epPort s ep
  let x := getEth s p
  let v4 := fieldLe e 2 1 == 4
  let src := if v4 then x.v4 else x.v6
  let dst := if v4 then lslice e 16 4 else lslice e 16 16
  let u := udpOf v4 src dst x.udp (fieldLe e 6 2) pkt
  let tos := 4 * x.dscp + 2
  ethHead (lslice e 8 6) (Config.ethMac p) x.vlan (if v4 then 0x0800 else 0x86DD) ++
    (if v4 then ip4Head tos (20 + u.length) (bits % 65536) 17 src dst else ip6Head tos (bits % 2 ^ 20) u.length 17 64 src dst) ++ u

/-- A packet leaves while the endpoint's Ethernet port is up. -/
def sendPkt (s : State) (ep : Nat) (pkt : List Byte) : State :=
  if !ethUp s (epPort s ep) then s
  else
    let (n, s1) := draw s
    emit s1 (.eth (epPort s ep) (bulkFrame s ep (Config.packetBits n) pkt))

/-! Packets (Table 16-8). -/

structure BHead where
  ty      : Nat
  chan    : Nat := 0
  session : Nat := 0
  psn     : Nat := 0
  ack     : Nat := 0
  sack    : Nat := 0
  len     : Nat := 0
  ce      : Bool := false
  deriving DecidableEq, Repr

def bheadBytes (h : BHead) : List Byte :=
  natLe 1 1 ++ natLe h.ty 1 ++ natLe h.chan 1 ++ natLe 0 1 ++ natLe h.session 4 ++ natLe h.psn 6 ++ natLe h.ack 6 ++ natLe h.sack 8 ++
    natLe h.len 2 ++ natLe (if h.ce then 1 else 0) 1 ++ natLe 0 1

/-- The header of a packet; none when it breaks its form. -/
def bheadOf (b : List Byte) : Option BHead :=
  let h : BHead := { ty := fieldLe b 1 1, chan := fieldLe b 2 1, session := fieldLe b 4 4, psn := fieldLe b 8 6, ack := fieldLe b 14 6,
                     sack := fieldLe b 20 8, len := fieldLe b 28 2, ce := fieldLe b 30 1 == 1 }
  if b.length < 48 || fieldLe b 0 1 != 1 || h.ty < 1 || h.ty > 5 || (if h.ty == 3 then h.chan > 4 else h.chan != 0) || !zeroIn b 3 1 ||
      fieldLe b 30 1 > 1 || !zeroIn b 31 1 || b.length != 48 + h.len || ((h.ty == 1 || h.ty == 2) && (h.len != 196 || h.psn != 0)) ||
      (h.ty == 1 && h.session != 0) || ((h.ty == 4 || h.ty == 5) && h.len != 0) then none
  else some h

def getB (s : State) (ep : Nat) : BSess := tget {} s.bulk ep

def setB (s : State) (ep : Nat) (x : BSess) : State := { s with bulk := tset s.bulk ep x }

/-- Bytes of a sealed packet: header, ciphertext, tag (R485). -/
def sealPkt (x : BSess) (h : BHead) (nonce : Nat) (pl : List Byte) : List Byte :=
  let aad := bheadBytes h
  let (ct, tag) := gcmSeal x.keyTx (x.saltTx ++ natLe nonce 8) aad pl
  aad ++ ct ++ tag

/-- ACKPSN: the highest PSN with every lower one received (2^48 - 1 before the first), and the SACK bits above it. -/
def ackFields (x : BSess) : Nat × Nat :=
  ((x.rxNext + 2 ^ 48 - 1) % 2 ^ 48,
   (x.held.map (fun q => if x.rxNext < q.1 && q.1 ≤ x.rxNext + 64 then 2 ^ (q.1 - x.rxNext - 1) else 0)).sum)

/-- An ACK or CLOSE, with the direction's next control number. -/
def sendCtl (s : State) (ep ty : Nat) : State :=
  let x := getB s ep
  let (a, k) := ackFields x
  let h : BHead := { ty := ty, session := x.far, psn := x.ctl, ack := a, sack := k, ce := x.ce }
  sendPkt (setB s ep { x with ctl := x.ctl + 1, ce := false, got := 0 }) ep (sealPkt x h (x.ctl + 2 ^ 63) [])

/-! Opening (R484, R485). -/

/-- The clear payload of OPEN and ACCEPT up to its signature. -/
def handBody (s : State) (id eph : Nat) : List Byte := natLe id 4 ++ idKey s ++ p256Pub eph

/-- Sends OPEN or ACCEPT with a fresh ephemeral key of the DRBG; the session ID is a free value. -/
def sendHand (s : State) (ep ty far : Nat) (put : BSess → BSess) : State :=
  let (a, s1) := draw s
  let (eph, s2) := drbgKey s1
  let id := a % (2 ^ 32 - 1) + 1
  let body := handBody s id eph
  let h := bheadBytes { ty := ty, session := far, len := 196 }
  let (sig, s3) := idkSign s2 (h ++ body)
  let x := put { getB s3 ep with mine := id, eph := eph, clear := body, far := far }
  sendPkt (setB s3 ep x) ep (h ++ body ++ sig ++ zeros 16)

/-- The device opens a session with a DEVICE or STORAGE endpoint when it needs one. -/
def bulkOpen (s : State) (ep : Nat) : State :=
  if (getB s ep).phase != 0 || !(epKind s ep == 1 || epKind s ep == 2) || !ethUp s (epPort s ep) then s
  else sendHand s ep 1 0 (fun x => { x with phase := 1, opener := true })

/-- The four parts of the key material: (key, salt) opener to acceptor, then back. -/
def bulkKeys (z opn acc : List Byte) : (List Byte × List Byte) × (List Byte × List Byte) :=
  let okm := hkdf (sha256 (opn ++ acc)) z (ascii "RLM4-BULK") 72
  ((okm.take 32, lslice okm 64 4), (lslice okm 32 32, lslice okm 68 4))

/-- The rate of an endpoint's kind (R487). -/
def bulkRate (s : State) (ep : Nat) : Nat :=
  match epKind s ep with
  | 1 => oget s 0x2050 3
  | 2 => oget s 0x2050 4
  | _ => oget s 0x2050 5

/-- The handshake is complete: the keys stand, and event 0x1018 names the endpoint. -/
def bulkUp (s0 : State) (ep : Nat) (z far : List Byte) : State :=
  let s := stamp s0
  let x := getB s ep
  let ((k1, i1), (k2, i2)) := if x.opener then bulkKeys z x.clear far else bulkKeys z far x.clear
  let y := { x with phase := 2, psn := 0, ctl := 0, pace := bulkRate s ep, paceAt := s.now }
  let w := if x.opener then { y with keyTx := k1, saltTx := i1, keyRx := k2, saltRx := i2 }
    else { y with keyTx := k2, saltTx := i2, keyRx := k1, saltRx := i1 }
  raise (setB s ep w) 0x1018 [ep]

/-! Closing (R485, R488). -/

/-- A session's end: what waits to be sent stays, the rest goes. -/
def bulkEnd (s : State) (ep : Nat) : State :=
  let x := getB s ep
  setB s ep { waitq := x.waitq }

/-- A transfer of an object is aborted for a reason of R452 other than XABORT: counted, and event 0x0710. -/
def xferAborted (s : State) (e k reason : Nat) : State :=
  raise (bumpErr (loadAborted s k) 0x1F20 3 1 0x0714) 0x0710 ([e, 0] ++ pb (k / 256) 2 ++ [k % 256, reason])

/-- The objects of an endpoint's open transfers, the write first. -/
def openXfers (x : Endpoint) : List Nat :=
  (match x.xw with
    | some (k, _, _) => [k]
    | none => []) ++
  (match x.xr with
    | some (k, _) => [k]
    | none => [])

/-- An endpoint's open transfers are aborted. -/
def abortXfers (s : State) (e reason : Nat) : State :=
  let x := getEp s e
  (openXfers x).foldl (fun s k => xferAborted s e k reason) (setEp s e { x with xw := none, xr := none })

/-- An endpoint goes down: its open transfers are aborted, its unanswered requests lost (R447, R452). -/
def epDown (s : State) (e : Nat) : State :=
  let s1 := abortXfers s e 3
  let x := getEp s1 e
  let s2 := setEp s1 e { x with up := false, awaiting := 0, unacked := [] }
  { s2 with lock := { s2.lock with waits := s2.lock.waits.filter (fun w => w.1 ≠ e) } }

/-- The MANAGER session that carries endpoint 3 has ended. -/
def mgrGone (s : State) (ep : Nat) : State := if s.mgr == some ep then epDown { s with mgr := none, mgmtTx := [] } 3 else s

/-- The device closes a session and says so. -/
def bulkClose (s : State) (ep : Nat) : State :=
  let s1 := if (getB s ep).phase == 2 then sendCtl s ep 5 else s
  mgrGone (bulkEnd s1 ep) ep

/-- After 2^48 packets or 16 failures the session closes and the device opens a new one. -/
def bulkRenew (s : State) (ep : Nat) : State := bulkOpen (bulkClose s ep) ep

/-- An ACK. A direction that would reach 2^48 control packets closes the session instead. -/
def sendAck (s : State) (ep : Nat) : State := if (getB s ep).ctl + 2 ≥ 2 ^ 48 then bulkRenew s ep else sendCtl s ep 4

/-! Sending (R486). -/

/-- The port's MTU holds a packet of a payload: its IP and UDP headers, bulk header and tag (R483). -/
def mtuHolds (s : State) (ep : Nat) (pl : List Byte) : Bool :=
  (if fieldLe (epEntry s ep) 2 1 == 4 then 20 else 40) + 56 + pl.length ≤ (getEth s (epPort s ep)).mtu

/-- Forms the next DATA packet of a payload. -/
def sendData (s : State) (ep chan : Nat) (pl : List Byte) : State :=
  let x := getB s ep
  let (a, k) := ackFields x
  let h : BHead := { ty := 3, chan := chan, session := x.far, psn := x.psn, ack := a, sack := k, len := pl.length }
  let pkt := sealPkt x h x.psn pl
  sendPkt (bumpPerf (setB s ep { x with psn := x.psn + 1, unack := x.unack ++ [(x.psn, (pkt, 0))] }) 0x2052 1 1) ep pkt

/-- Sends payloads that wait while the window has room. One that the MTU cannot hold is never formed (R483, assumption log 125); a
direction that would reach 2^48 DATA packets closes the session, and the device opens a new one (R485). -/
def pumpSess (s : State) (ep : Nat) : Nat → State
  | 0 => s
  | n + 1 =>
    let x := getB s ep
    match x.waitq with
    | [] => s
    | (c, pl) :: t =>
      if x.phase != 2 || x.unack.length ≥ oget s 0x2050 1 then s
      else if !mtuHolds s ep pl then pumpSess (setB s ep { x with waitq := t }) ep n
      else if x.psn + 1 ≥ 2 ^ 48 then bulkRenew s ep
      else pumpSess (sendData (setB s ep { x with waitq := t }) ep c pl) ep n

def pumpEp (s : State) (ep : Nat) : State := pumpSess s ep (getB s ep).waitq.length

/-- Gives a payload to a channel of an endpoint; a session is opened when there is none. -/
def sendChan (s : State) (ep chan : Nat) (pl : List Byte) : State :=
  let x := getB s ep
  let s1 := setB s ep { x with waitq := x.waitq ++ [(chan, pl)] }
  if x.phase == 2 then pumpEp s1 ep else bulkOpen s1 ep

/-- A word of a message in a payload: its 36 bytes as they are (R248, R318). A poisoned word whose check symbols do not show it is marked
by two inverted check bytes, which no receiver can correct (assumption log 57). -/
def bulkWord (w : DWord) : List Byte :=
  let b := (w.bytes ++ zeros 32).take 32
  let c := if w.chk.isEmpty then wordCheck b else w.chk
  if w.poison && (wordDecode (b ++ c)).isSome then b ++ (c.take 2).map (fun x => ~~~x) ++ c.drop 2 else b ++ c

def bulkMsg (m : Msg) : List Byte := bulkWord { bytes := hdrWord m } ++ m.data.flatMap bulkWord

/-- Mill messages travel on channel 1, the others on CONTROL. -/
def chanOf (m : Msg) : Nat := if 0x30 ≤ m.mtype && m.mtype ≤ 0x3F then 1 else 2

/-- Messages that wait for a DEVICE peer go to its session. -/
def pumpDev (s : State) (key : Nat) (ms : List Msg) : State :=
  match epOfKey s key with
  | none => s
  | some ep => ms.foldl (fun s m => sendChan s ep (chanOf m) (bulkMsg m)) { s with txq := tset s.txq key [] }

/-- Everything that waits for the bulk transport is handed to it. -/
def bulkPump (s : State) : State :=
  let s1 := (s.txq.filter (fun q => q.1 ≥ 0x10000 && !q.2.isEmpty)).foldl (fun s q => pumpDev s q.1 q.2) s
  let s2 := match s1.mgr with
    | some ep => s1.mgmtTx.foldl (fun s b => sendChan s ep 0 b) { s1 with mgmtTx := [] }
    | none => { s1 with mgmtTx := [] }
  allEps.foldl (fun s ep => if (getB s ep).phase == 0 && !(getB s ep).waitq.isEmpty then bulkOpen s ep else pumpEp s ep) s2

end Sys2Proof.Machine
end

