-- ==== Sys2Proof/Machine/Fronts.lean ====
section
/-! DEFINITION. Copy fronts (R356-R360), checkpoints (R372-R374, R429) and the tee's end (R371). -/
namespace Sys2Proof.Machine

/-! Checkpoint shards. -/

/-- The largest magnitude's exponent, at least -127; none when every value is zero. -/
def blockExp (xs : List XVal) : Option Int :=
  xs.foldl (fun m x => match x with
    | .fin _ n d e => if n == 0 then m else
        let k := max (floorLog2 n d e) (-127)
        some (match m with
          | some j => max j k
          | none => k)
    | _ => m) none

/-- R374: one block of 32 FP32 codes: its scale and its BF16 codes. -/
def narrowBlock (cs : List Nat) : Nat × List Nat :=
  let xs := cs.map (fun c => decFlt fp32 c)
  let put (k : Int) (x : XVal) : Nat := (toFlt bf16 false .rne 0 (xScale2 x k)).code
  if xs.any (fun x => !xFinite x) then (0xFF, xs.map (put 0))
  else match blockExp xs with
    | none => (0x7F, xs.map (put 0))
    | some xe => ((xe + 127).toNat, xs.map (put xe))

/-- FP32 codes of a run of bytes. -/
def codes32 (bs : List Byte) : List Nat := (blocksOf 4 (bs.length / 4 + 1) bs).map leNat

def groups32 (n : Nat) (l : List Nat) : List (List Nat) := (List.range n).map (fun i => lslice l (32 * i) 32)

/-- A BANK_MOMENT32 section: elements, then scales (R374). -/
def narrow (bs : List Byte) : List Byte :=
  let bl := (groups32 (bs.length / 128) (codes32 bs)).map narrowBlock
  bl.flatMap (fun b => b.2.flatMap (fun c => natLe c 2)) ++ bl.map (fun b => BitVec.ofNat 8 b.1)

/-- The FP32 bytes that a section of a region of n bytes widens to (R374). -/
def widen (n : Nat) (bs : List Byte) : List Byte :=
  let scales := bs.drop (n / 2)
  (List.range (n / 4)).flatMap (fun i =>
    let y := decFlt bf16 (leNat (lslice bs (2 * i) 2))
    let sc := (scales.getD (i / 32) 0#8).toNat
    let x := if sc == 0xFF then y else xScale2 y (127 - (sc : Int))
    natLe (toFlt fp32 false .rne 0 x).code 4)

/-- One section: kind, region index, source bytes, content. -/
structure Section where
  kind : Nat
  ix   : Nat
  src  : Nat
  body : List Byte
  deriving DecidableEq, Repr

/-- Bytes that a front gathered from the units of a region copy. -/
def gathered (f : Front) (base size : Nat) : List Byte :=
  (unitsOf base size).flatMap (fun u => (tget [] f.data u).flatMap (fun w => w.bytes))

/-- The sections of a checkpoint in their order (Table 12-7). -/
def ckptSections (s : State) (f : Front) : List Section :=
  ((bankRegions s).filter (fun k => oget s 0x5802 (k + 1) / 2 % 4 != 2)).map (fun k =>
      let b := gathered f (bankBase s k ((f.step + 1) % 2)) (bankSize s k)
      if oget s 0x5802 (k + 1) / 2 % 4 == 1 then ⟨2, k, b.length, narrow b⟩ else ⟨1, k, b.length, b⟩) ++
    ((singles s).filter (fun k => singleFlags s k / 2 % 2 == 1)).map (fun k =>
      let b := gathered f (singleBase s k) (singleSize s k)
      ⟨3, k, b.length, b⟩) ++
    [⟨4, 0, 262144, snapBytes f.vtab⟩]

/-- Offset of each section, from the header's end on, each on a 32-byte boundary. -/
def placed : Nat → List Section → List (Nat × Section)
  | _, [] => []
  | o, x :: t => (o, x) :: placed ((o + x.body.length + 31) / 32 * 32) t

def planShard (s : State) : Nat := (s.plan.map (fun p => p.shard)).getD 0

def planIdOf (s : State) : Nat := (s.plan.map (fun p => p.planId)).getD 0

/-- The plaintext with a digest in its header. -/
def shardWith (s : State) (f : Front) (ps : List (Nat × Section)) (dig : List Byte) : List Byte :=
  let tab := ps.flatMap (fun p => natLe p.2.kind 1 ++ natLe p.2.ix 7 ++ natLe p.2.src 8 ++ natLe p.1 8 ++ natLe p.2.body.length 8)
  let head := natLe 0x4B434C52 4 ++ natLe 1 2 ++ natLe ps.length 1 ++ natLe 0 1 ++ natLe (oget s 0x5801 1) 8 ++ natLe f.step 8 ++
    natLe (planShard s) 4 ++ natLe f.epoch 4 ++ natLe (oget s 0x5401 2) 8 ++ natLe (planIdOf s) 8 ++ dig ++ zeros 16 ++ tab
  ps.foldl (fun b p => b ++ zeros (p.1 - b.length) ++ p.2.body) (head ++ zeros (4096 - head.length))

/-- The plaintext of a checkpoint shard. -/
def shardPlain (s : State) (f : Front) : List Byte :=
  let ps := placed 4096 (ckptSections s f)
  shardWith s f ps (sha256 (shardWith s f ps (zeros 32)))

def segSize : Nat := 2097152

def segsOf (n : Nat) : Nat := (n + segSize - 1) / segSize

/-- Bytes 0-79 of a clear header decide the key of its segments (R429). -/
def shardKey (jsk clear : List Byte) : List Byte := hkdf (clear.take 80) jsk (ascii "RLM4-CKPT") 32

def clearHead (plain : List Byte) (nonce : Nat) : List Byte :=
  natLe 0x53454C52 4 ++ natLe 1 2 ++ natLe 0 2 ++ lslice plain 8 20 ++ zeros 4 ++ lslice plain 48 32 ++ natLe nonce 8 ++
    natLe plain.length 8 ++ natLe (segsOf plain.length) 4 ++ zeros 44

/-- Segment i, sealed: ciphertext and tag. -/
def sealSeg (jsk clear plain : List Byte) (i : Nat) : List Byte :=
  let (ct, tag) := gcmSeal (shardKey jsk clear) (natLe i 8 ++ zeros 4) clear (lslice plain (segSize * i) segSize)
  ct ++ tag

/-- A storage operation's header (R490). -/
def opHead (op step shard off count : Nat) : List Byte :=
  natLe op 1 ++ zeros 7 ++ natLe step 8 ++ natLe shard 4 ++ natLe off 8 ++ natLe count 4

/-- Bytes of one PUT that fit an Ethernet payload, a multiple of 32 (assumption log 57). -/
def putChunk (s : State) (ep : Nat) : Nat := max 32 (((getEth s (epPort s ep)).mtu - 128) / 32 * 32)

/-- PUTs of a run of bytes at an offset. -/
def putBytes (s : State) (ep step off : Nat) (bs : List Byte) : State :=
  let n := putChunk s ep
  (List.range ((bs.length + n - 1) / n)).foldl (fun s i =>
    let d := lslice bs (n * i) n
    sendChan s ep 3 (opHead 1 step (planShard s) (off + n * i) d.length ++ d)) s

/-- The checkpoint is gathered: it is sealed and sent, segment 0 last (R373, R429). -/
def ckptSeal (s : State) (f : Front) : State :=
  let plain := shardPlain s f
  let (n, s1) := drbgBytes s 8
  let clear := clearHead plain (leNat n)
  let k := segsOf plain.length
  let at_ (i : Nat) : Nat := 128 + i * (segSize + 16)
  let s2 := (List.range (k - 1)).foldl (fun s i => putBytes s f.dest f.step (at_ (i + 1)) (sealSeg s.lock.jsk clear plain (i + 1))) s1
  let s3 := putBytes (putBytes s2 f.dest f.step 0 clear) f.dest f.step 128 (sealSeg s2.lock.jsk clear plain 0)
  let total := 128 + plain.length + 16 * k
  sendChan { s3 with rcv := { s3.rcv with ckptSent := some (f.dest, f.step) } } f.dest 3 (opHead 2 f.step (planShard s3) 0 total)

/-! The fronts. -/

/-- Where a mirror front stands in its walk. -/
def frontPos (s : State) (f : Front) : Nat :=
  match f.units with
  | u :: _ => (passUnits s false).findIdx (fun x => x == u)
  | [] => (passUnits s false).length

def putFront (s : State) (f : Front) : State := { s with fronts := s.fronts.map (fun g => if g.kind == f.kind then f else g) }

def showPos (s : State) (f : Front) : State := if f.kind == 0 then oset s 0x5800 4 (frontPos s f) else s

/-- A front that has passed its last unit and sent all it holds is done. -/
def passCheck (s : State) (kind : Nat) : State :=
  match s.fronts.find? (fun f => f.kind == kind) with
  | none => s
  | some f =>
    if !f.units.isEmpty || !f.cow.isEmpty then s
    else
      let s1 := { s with fronts := s.fronts.filter (fun g => g.kind ≠ kind) }
      if kind == 0 then
        let s2 := raise (oset (oset s1 0x5800 2 2) 0x5800 4 0xFFFFFFFF) 0x0F11 []
        match routeOf s2 f.dest with
        | some (port, _) => enqueue s2 port (mirrorMsg s2 f.dest 2)
        | none => s2
      else if kind == 1 then { s1 with tee := s1.tee.map (fun t => { t with passed := true }) }
      else if epKind s1 f.dest != 2 then raise s1 0x0F1C []
      else ckptSeal s1 f

/-- The tee's port carries traffic. -/
def teeReady (s : State) : Bool :=
  match s.tee with
  | some t => (match t.ports with
    | p :: _ => portState s p == 3
    | [] => false)
  | none => false

/-- A unit leaves: old contents that copy-on-write took, or the front's next unit (R358, R359). -/
def sendUnit (s : State) (f : Front) : State :=
  match f.cow, f.units with
  | u :: t, _ =>
    let ws := tget [] f.data u
    let g := { f with cow := t, data := if f.kind == 2 then f.data else tdel f.data u }
    bumpPerf (sendScr (putFront s g) (if f.kind == 2 || ws.isEmpty then [] else unitMsgs s f u ws)) 0x5800 9 1
  | [], u :: t =>
    let ws := readUnit s u
    let g := { f with units := t, pos := f.pos + 1, data := if f.kind == 2 then tset f.data u ws else f.data }
    showPos (bumpPerf (sendScr (putFront s g) (if f.kind == 2 then [] else unitMsgs s f u ws)) 0x5800 8 1) g
  | [], [] => s

/-- COPY_FRONT_UNIT: the front of a kind sends its next unit (0 mirror, 1 shadow, 2 checkpoint). -/
def copyFrontUnit (s : State) (kind : Nat) : State :=
  match s.fronts.find? (fun f => f.kind == kind) with
  | none => s
  | some f =>
    if kind == 0 && (liveRoute s f.dest).isNone then mirrorLost s
    else if kind == 1 && !teeReady s then s
    else passCheck (sendUnit (hbmSeen s) f) kind

/-- Writes that waited proceed: they are written through, and remote WRITEs are answered. -/
def pendGo (s : State) : State :=
  let (s1, done) := pendStep s
  let s2 := if done.any (fun w => inJournal s w.a (pendLen w)) then flushLdg s1 else flushOther s1
  ledgerSettle (done.foldl (fun s w => match w.resp with
    | some (key, m) => writeDone s key m
    | none => s) s2)

/-- COW_READ_DONE: the old contents of the unit that has waited longest are placed in the send buffer; its write may proceed.
The copy-on-write half holds two units (R360); how long the write waited is free. -/
def cowReadDone (s : State) : State :=
  match s.cowQ with
  | [] => if s.pendW.isEmpty then s else pendGo s
  | u :: _ =>
    if cowHeld s ≥ 2 then s
    else
      let s1 := cowPlace s u
      pendGo (s1.fronts.foldl showPos s1)

/-! The end of a tee at the pattern. -/

/-- SHADOW_ENDED at the pattern (R371). -/
def teeEnded (s : State) : State := if s.tee.isSome then raise (endTee s) 0x0F1A [] else s

/-- The pattern ends the tee when its TEE port is no longer its shadow's: the promoted shadow has dropped its plan (R371). -/
def teeWatch (old new : State) (p : Nat) : State :=
  let st := portState new p
  match old.tee with
  | some t => if t.ports.contains p && portState old p == 3 && (st == 0 || st == 2 || st == 4 || st == 5) then endTee new else new
  | none => new

end Sys2Proof.Machine
end

