-- ==== Sys2Proof/Machine/Recovery.lean ====
section
/-! DEFINITION. Recovery orders (R361-R365), takeover (R366, R367), restore (R375), shadows (R370, R371), retirement (R532). -/
namespace Sys2Proof.Machine

/-! The journal as memory holds it (R325, R326). -/

/-- An entry's header from its bytes; a POSTED entry that has an open time has been opened before. -/
def hdrOf (s : State) (p : Nat) : JEntry :=
  let b := memRead s (entryAddr s p) 104
  let st := fieldLe b 80 1 % 4
  { estate := st, step := fieldLe b 0 8, epochOpen := fieldLe b 8 4, replays := fieldLe b 12 4, planId := fieldLe b 16 8,
    seed := fieldLe b 24 8, len := fieldLe b 32 8, digest := lslice b 40 32, openTime := fieldLe b 72 8,
    fold := BitVec.ofNat 64 (fieldLe b 88 8), foldWords := fieldLe b 96 8, opened := st == 3 || fieldLe b 72 8 != 0 }

/-- A version-table entry of a snapshot (R325). -/
def vtEntryOf (b : List Byte) (step : Nat) : VtEntry :=
  let c := fieldLe b 0 4
  let bit (i : Nat) : Bool := c / 2 ^ i % 2 == 1
  let held (i : Nat) : List Nat := (if bit i then [0] else []) ++ (if bit (i + 1) then [1] else [])
  let v := fieldLe b 44 8
  let t := fieldLe b 52 8
  { en := bit 0, cur := c / 2 % 2, ref0 := c / 4 % 128, ref1 := c / 2 ^ 9 % 128, held0 := held 16, held1 := held 18,
    valid0 := bit 20, valid1 := bit 21, claimed := bit 22, wait := bit 23, ver0 := fieldLe b 4 4, ver1 := fieldLe b 8 4,
    w0 := fieldLe b 12 8, w1 := fieldLe b 20 8, t0 := fieldLe b 28 8, t1 := fieldLe b 36 8,
    tags := ((List.range 64).filter (fun i => v / 2 ^ i % 2 == 1)).map (fun i => (i, t / 2 ^ i % 2, step)) }

/-- A snapshot from its 256 KiB; tags belong to the step before. -/
def snapOf (bs : List Byte) (step : Nat) : Tab VtEntry :=
  (List.range 4096).filterMap (fun i =>
    let b := lslice bs (64 * i) 64
    if b.all (fun x => x == 0#8) then none else some (i, vtEntryOf b step))

/-- A comparator from its setting (the reverse of `cmpBits`). -/
def cmprOf (v : Nat) : Cmpr :=
  { armed := v / 4 % 2 == 1, ca := v / 8 % 8, rel := v / 64 % 4, bsrc := v / 256 % 2 == 1, cb := v / 512 % 8, act := v / 4096 % 2 == 1,
    imm := BitVec.ofNat 32 (v / 2 ^ 13), flag := v / 2 ^ 45 % 256 }

/-- A stream's record in an entry: it counts when its ring index holds the STEPMARK of the step (R367). -/
def recordOf (s : State) (step c k : Nat) : Option Restart :=
  let b := memRead s (entryAddr s (step % 2) + 0x1000 + 128 * (4 * c + k)) 128
  let x := getStrm s c k
  let pos := fieldLe b 0 4 % 2 ^ x.log2
  match (decodeCmd (memLe s (x.base + 16 * pos) 16)).2 with
  | some (.stepmark m) =>
    if m.toNat == step % 2 ^ 32 then
      some ⟨step, pos, (List.range 8).map (fun i => (i, BitVec.ofNat 32 (fieldLe b (4 + 4 * i) 4))),
            (List.range 4).map (fun j => (j, cmprOf (fieldLe b (36 + 8 * j) 8)))⟩
    else none
  | _ => none

/-- A commit list's entry from its 64 bytes, whose coding the spec leaves open. -/
def commitOf (step : Nat) (b : List Byte) : Option CommitEnt :=
  match Config.commitList b with
  | [w, a, a', x, x', sat] =>
    (match (decodeCmd w).2 with
     | some (.ucommit op) => some { step := step, op := op, hba := BitVec.ofNat 512 a, hbb := BitVec.ofNat 512 a', hw := BitVec.ofNat 512 x,
                                    hwt := BitVec.ofNat 512 x', sat := sat == 1 }
     | _ => none)
  | _ => none

/-- A cell's commit list of a step as its entry holds it: the entries before the first that is none. -/
def commitsOf (s : State) (step c : Nat) : List CommitEnt :=
  let l := (List.range 8192).map (fun i => commitOf step (memRead s (entryAddr s (step % 2) + 0x200000 + (c * 8192 + i) * 64) 64))
  (l.takeWhile (fun x => x.isSome)).filterMap id

/-- An entry of the journal read back whole. -/
def entryOf (s : State) (p : Nat) : JEntry :=
  let j := hdrOf s p
  { j with vtSnap := snapOf (memRead s (entryAddr s p + 0x10000) 262144) (j.step - 1) }

/-- A stream as a role's journal starts it at step u; without a record it starts at the HEAD that was loaded (R367). -/
def loadStream (s : State) (u c k : Nat) : State :=
  modStrm (abortStream s c k) c k (fun x =>
    let y := { x with mode := .aborted, step := 0, entered := false, ctr := [], cmp := [], fly := [], win := [], queue := [] }
    match recordOf s u c k with
    | some r => { y with restarts := [r] }
    | none => { y with restarts := [] })

/-- Steps 3 to 5 of R344 from a journal that memory holds: the entries below u are FREE, the opened ones from u on are steps to be
replayed. -/
def loadRole (s : State) (u : Nat) : State :=
  let ent (s : State) (p : Nat) : State :=
    let j := entryOf s p
    setJr s p (if j.step < u then { j with estate := 0 } else { j with estate := if j.estate == 3 then 2 else j.estate })
  let s1 := ent (ent s 0) 1
  let live := ([u, u + 1]).filter (fun n => let j := getJr s1 (n % 2); j.step == n && j.estate != 0 && j.opened)
  let posted := ([u, u + 1]).filter (fun n => let j := getJr s1 (n % 2); j.step == n && j.estate == 2)
  let s2 := { s1 with steps := live.map (fun n => ({ num := n, isOpen := false } : StepSt)), released := u - 1, lastPosted := posted.getLast? }
  let s3 := { s2 with cells := (List.range 64).foldl (fun cs c =>
      let l := live.flatMap (fun n => commitsOf s2 n c)
      if l.isEmpty && (tfind cs c).isNone then cs else tset cs c { tget ({} : Cell) cs c with commits := l }) s2.cells }
  let s4 := allStreams.foldl (fun s p => loadStream s u p.1 p.2) s3
  rollRestore { s4 with alm := { s4.alm with freezeDue := true } } { m := u, steps := live, hold := true }

/-! Orders (Tables 12-3, 12-4). -/

structure Order where
  kind   : Nat
  epoch  : Nat
  u      : Nat
  job    : Nat
  target : List Byte
  pdig   : List Byte
  peer   : Nat
  ep     : Nat
  amends : List (Nat × Nat × PlanPort)
  cands  : List (Nat × List Byte)
  plan   : List Byte
  deriving DecidableEq, Repr

def orderOf (b : List Byte) : Order :=
  { kind := fieldLe b 2 1, epoch := fieldLe b 4 4, u := fieldLe b 8 8, job := fieldLe b 16 8, target := lslice b 24 32, pdig := lslice b 56 32,
    peer := fieldLe b 88 2, ep := fieldLe b 90 2,
    amends := (List.range (fieldLe b 3 1)).map (fun i =>
      let o := 128 + 44 * i
      (fieldLe b o 1, fieldLe b (o + 1) 1, portEntry b (o + 2))),
    cands := (List.range (fieldLe b 92 1)).map (fun i => (fieldLe b (1536 + 40 * i) 8, lslice b (1544 + 40 * i) 32)),
    plan := b.drop 1696 }

/-- Check 2: the form of a body. -/
def orderFormBad (b : List Byte) : Bool :=
  let o := orderOf b
  b.length < 1696 || fieldLe b 0 2 != 1 || o.kind < 1 || o.kind > 7 || fieldLe b 3 1 > 32 || !zeroIn b 93 35 ||
    (o.kind == 7 && (o.cands.length < 1 || o.cands.length > 4)) || (o.kind != 2 && o.kind != 5 && b.length != 1696) ||
    (List.range (min 32 (fieldLe b 3 1))).any (fun i => fieldLe b (128 + 44 * i) 1 > 31 || fieldLe b (129 + 44 * i) 1 > 3 ||
      !zeroIn b (128 + 44 * i + 42) 2)

/-- An amendment breaks checks 2, 6 or 7 of Table 9-14 for a device's ranges. -/
def amendBad (b : List Byte) (i dev : Nat) (rs : List (Nat × Nat)) : Bool :=
  let o := 128 + 44 * i
  let mode := fieldLe b (o + 1) 1
  let e := portEntry b (o + 2)
  portEntryBad b (o + 2) || e.used != (mode != 1) ||
    (e.used && (!genAllowed (fieldLe b o 1) e.gen || !inRanges rs e.nid || (mode != 3 && e.nid == dev)))

/-- Check 5: the epoch of a kind. -/
def orderEpochOk (s : State) (o : Order) : Bool :=
  if o.kind ≤ 3 then decide (o.epoch > s.epoch)
  else if o.kind == 7 then (if s.epoch == 0xFFFFFFFF then o.epoch == 0 else decide (o.epoch > s.epoch))
  else if o.kind == 5 then decide (o.epoch ≥ s.epoch)
  else o.epoch == s.epoch

/-- Check 6 (R363). -/
def orderStepOk (s : State) (u : Nat) : Bool :=
  match s.steps.head? with
  | some t => t.num == u || (t.num + 1 == u && t.computed)
  | none => u == oget s 0x5400 3 + 1

/-- Check 7. -/
def orderRoleOk (s : State) (o : Order) : Bool :=
  let role := oget s 0x5800 1
  if o.kind == 2 || o.kind == 5 then role == 1
  else if o.kind == 7 then role == 2 && (s.epoch == 0xFFFFFFFF || (s.steps.isEmpty && (getJr s 0).estate == 0 && (getJr s 1).estate == 0))
  else role == 2

def setPorts (p : Plan) (am : List (Nat × Nat × PlanPort)) : Plan :=
  { p with ports := am.foldl (fun ps a => ps.set a.1 { a.2.2 with used := a.2.1 != 1 }) p.ports }

/-- Check 8: the plan body, each amendment, and the routes on the amended ports. -/
def orderPlanOk (s : State) (b : List Byte) : Bool :=
  let o := orderOf b
  let tee := (o.amends.filter (fun a => a.2.1 == 3)).map (fun a => a.1)
  let am (dev : Nat) (rs : List (Nat × Nat)) : Bool := (List.range o.amends.length).all (fun i => !amendBad b i dev rs)
  if o.kind == 2 || o.kind == 5 then
    let p := planOf o.plan
    !planFormBad o.plan && !ethLinksBad s p && planBodyCheck (idDigest s) (lslice o.plan 32 32) p tee == 0 && am p.dev p.ranges &&
      !routesBad (setPorts p o.amends)
  else match s.plan with
    | some p => am p.dev p.ranges && !routesBad (setPorts p o.amends)
    | none => o.amends.isEmpty

/-- Checks 2 to 10 of Table 12-4 in order; 0 when the order passes. -/
def orderCheck (s : State) (b : List Byte) : Nat :=
  let o := orderOf b
  if orderFormBad b then 2
  else if o.target != idDigest s then 3
  else if oget s 0x5801 1 == 0 || o.job != oget s 0x5801 1 then 4
  else if !orderEpochOk s o then 5
  else if (o.kind == 1 || o.kind == 3) && !orderStepOk s o.u then 6
  else if !orderRoleOk s o then 7
  else if !orderPlanOk s b then 8
  else if o.kind == 3 && o.peer != ownId s && oget s 0x5800 3 != 2 then 9
  else if o.kind == 6 && s.fronts.any (fun f => f.kind == 2) then 10
  else 0

/-- A refused order changes nothing but the reason (R362). -/
def refuseOrder (s : State) (reason epoch : Nat) : State :=
  raise (oset s 0x5800 0xF reason) 0x0F15 ([reason, 0, 0, 0] ++ pb epoch 4)

/-! Applying (R364). -/

/-- The work of an earlier order stops. -/
def orderAbandon (s : State) : State :=
  let r := s.rcv
  let s1 := { s with rcv := { r with kind := 0, readySent := false, kidsReady := [], xfer := none, waitXfer := false, restore := none,
                                     orderDue := false, amends := [] }, xferFrom := none }
  teeEnded (ckptAbandon { s1 with trk := s1.trk.filter (fun e => e.2.kind ≠ 3), scrQ := s1.scrQ.filter (fun w => w.kind ≠ 3) })

/-- Amendments change port entries; a changed port is discovered again (R364, R287). -/
def amend (s : State) (am : List (Nat × Nat × PlanPort)) : State :=
  let s1 := { s with plan := s.plan.map (fun p => setPorts p am) }
  let keep := s1.rcv.xferPorts.filter (fun p => !am.any (fun a => a.1 == p))
  let s2 := { s1 with rcv := { s1.rcv with xferPorts := keep ++ (am.filter (fun a => a.2.1 == 2)).map (fun a => a.1) } }
  enterPlan (am.foldl (fun x a => if planPort s a.1 == planPort s2 a.1 then x else discover x a.1) s2)

/-- The event and the object of an applied order. -/
def orderNoted (s : State) (epoch : Nat) : State := raise (oset s 0x5800 0xE epoch) 0x0F16 []

/-- Where a donor reads a unit (R366). -/
def xferSource (s : State) (own : Bool) (u : Nat) : Nat :=
  if own then u
  else match mirrorOff u (mirrorParts s) 0 with
    | some o => oget s 0x5801 3 + o
    | none => u

/-- WRITE messages of one unit, spread over the TRANSFER ports. -/
def xferMsgs (s : State) (dev : Nat) (ports : List Nat) (src u : Nat) : List Stall :=
  xferSpread ports ((List.range 4096).map (fun i => reqMsg s 1 0 dev false (u + 512 * i) 0 (readWords s ((src + 512 * i) / 32) 16)))

/-- DONOR: the role's state goes to the spare (R366). -/
def startXfer (s : State) : State :=
  let own := s.rcv.peer == ownId s
  let us := passUnits s true
  let ports := s.rcv.xferPorts
  let x : XferSt := { peer := s.rcv.peer, ports := ports, out := 4096 * us.length, sent := us.length }
  if ports.isEmpty then s
  else if us.isEmpty then xferFinish s x
  else sendScr { s with rcv := { s.rcv with xfer := some x } } (us.flatMap (fun u => xferMsgs s s.rcv.peer ports (xferSource s own u) u))

/-- The rest of a RESUME or DONOR order once its rollback is done. -/
def orderRest (s : State) : State :=
  if !s.rcv.orderDue || s.roll.isSome then s
  else
    let s1 := amend { s with rcv := { s.rcv with orderDue := false, amends := [] } } s.rcv.amends
    let s2 := orderNoted s1 s.rcv.epoch
    if s.rcv.kind != 3 then s2
    else startXfer (if s.rcv.peer == ownId s2 then oset s2 0x2062 1 2 else s2)

/-- RESUME and DONOR up to the rollback. -/
def applyResume (s : State) (o : Order) : State :=
  let s1 := adoptEpoch (orderAbandon s) o.epoch
  let s2 := match s1.steps.head? with
    | some t => if t.num + 1 == o.u then sealStep s1 t (t.verdict != some true) else s1
    | none => s1
  let s3 := { s2 with rcv := { s2.rcv with kind := o.kind, u := o.u, epoch := o.epoch, peer := o.peer, orderDue := true, amends := o.amends } }
  startRoll { s3 with selfUp := [], selfDown := [] } o.u true

/-- TAKEOVER: a spare takes the role's plan and waits for its state (R364, R367). -/
def applyTakeover (s : State) (o : Order) : State :=
  let s1 := adoptEpoch (orderAbandon s) o.epoch
  let p := setPorts (planOf o.plan) o.amends
  let s2 := { s1 with holding := true, ldg := { s1.ldg with unrepaired := false }, steps := [], jr := [], xferFrom := some o.peer, lock := { s1.lock with planSeq := some p.seq } }
  let s3 := { s2 with rcv := { s2.rcv with kind := 2, u := o.u, epoch := o.epoch, peer := o.peer, waitXfer := true,
                                           xferPorts := (o.amends.filter (fun a => a.2.1 == 2)).map (fun a => a.1) } }
  let s4 := takePlan (raise s3 0x0D18 []) o.plan p
  orderNoted { s4 with rcv := { s4.rcv with mirrorDue := false } } o.epoch

/-- PATTERN: a shadow pass begins, or the tee ends (R370, R371). -/
def applyPattern (s : State) (o : Order) : State :=
  let s1 := amend (orderAbandon s) o.amends
  if o.pdig.all (fun b => b == 0#8) then orderNoted s1 o.epoch
  else
    let ports := (o.amends.filter (fun a => a.2.1 == 3)).map (fun a => a.1)
    let us := passUnits s1 true
    let f : Front := { kind := 1, units := us, dest := o.peer }
    orderNoted { s1 with tee := some { dev := o.peer, digest := o.pdig, ports := ports }, fronts := s1.fronts ++ [f] } o.epoch

/-- SHADOW: a spare computes beside its pattern; every entry of the plan but the TEE ports is unused (R370). -/
def applyShadow (s : State) (o : Order) : State :=
  let tee := o.amends.filter (fun a => a.2.1 == 3)
  let p := planOf o.plan
  let p1 := setPorts { p with ports := p.ports.map (fun _ => {}) } tee
  let s1 := adoptEpoch (orderAbandon s) o.epoch
  let s2 := { s1 with steps := [], jr := [], rcv := { s1.rcv with kind := 5, u := 0, epoch := o.epoch, peer := o.peer, shFolds := [], shDec := [],
                                                                  teePorts := tee.map (fun a => a.1), shCount := 0 } }
  let s3 := oset (takePlan (oset (raise s2 0x0D18 []) 0x5800 1 3) o.plan p1) 0x5800 0xC 0
  orderNoted { s3 with rcv := { s3.rcv with mirrorDue := false } } o.epoch

/-! Restore (R375, R430). -/

/-- The clear fields of a sealed shard and its plaintext, when it authenticates. -/
def shardOpen (s : State) (b : List Byte) : Option (List Byte) :=
  let clear := b.take 128
  let n := fieldLe clear 72 8
  let k := fieldLe clear 80 4
  if b.length < 128 || fieldLe clear 0 4 != 0x53454C52 || fieldLe clear 4 2 != 1 || !zeroIn clear 6 2 || !zeroIn clear 28 4 || !zeroIn clear 84 44 ||
      fieldLe clear 8 8 != oget s 0x5801 1 || k != segsOf n || b.length != 128 + n + 16 * k then none
  else
    let key := shardKey s.lock.jsk clear
    let seg (i : Nat) : Option (List Byte) :=
      let x := lslice b (128 + i * (segSize + 16)) (segSize + 16)
      gcmOpen key (natLe i 8 ++ zeros 4) clear (x.take (x.length - 16)) (x.drop (x.length - 16))
    let segs := (List.range k).map seg
    if segs.any (fun x => x.isNone) then none
    else
      let p := (segs.filterMap id).flatten
      if lslice p 8 20 == lslice clear 8 20 && lslice p 48 32 == lslice clear 32 32 then some p else none

/-- Check 3: the stamps. -/
def stampsOk (s : State) (p : List Byte) (cand : Nat × List Byte) : Bool :=
  fieldLe p 8 8 == oget s 0x5801 1 && fieldLe p 24 4 == planShard s && fieldLe p 16 8 == cand.1 && lslice p 48 32 == cand.2 &&
    cand.2 == sha256 (p.take 48 ++ zeros 32 ++ p.drop 80)

/-- The sections of a plaintext: kind, region, source bytes, offset, length. -/
def sectionTab (p : List Byte) : List (Nat × Nat × Nat × Nat × Nat) :=
  (List.range (fieldLe p 6 1)).map (fun i =>
    let o := 96 + 32 * i
    (fieldLe p o 1, fieldLe p (o + 1) 1, fieldLe p (o + 8) 8, fieldLe p (o + 16) 8, fieldLe p (o + 24) 8))

/-- Check 4: the size of every section. -/
def sizesOk (s : State) (p : List Byte) : Bool :=
  fieldLe p 0 4 == 0x4B434C52 && fieldLe p 4 2 == 1 && 1 ≤ fieldLe p 6 1 && fieldLe p 6 1 ≤ 97 && p.length ≥ 4096 &&
    (sectionTab p).all (fun x =>
      let (kind, ix, src, off, len) := x
      decide (off + len ≤ p.length) &&
        (if kind == 1 then ix < 64 && src == bankSize s ix && len == src
         else if kind == 2 then ix < 64 && src == bankSize s ix && len == src / 2 + src / 128
         else if kind == 3 then ix < 32 && src == singleSize s ix && len == src
         else kind == 4 && src == 262144 && len == src))

/-- Step 5: a section goes into both copies of its region. -/
def writeSection (s : State) (p : List Byte) (x : Nat × Nat × Nat × Nat × Nat) : State :=
  let (kind, ix, src, off, len) := x
  let b := lslice p off len
  let put (b : List Byte) : State := otherWrite (otherWrite s (bankBase s ix 0) b) (bankBase s ix 1) b
  if kind == 1 then put b
  else if kind == 2 then put (widen src b)
  else if kind == 3 then otherWrite s (singleBase s ix) b
  else s

/-- The device's shard of the candidate has been judged: `bad` is the failing check, 0 for none. -/
def restoreJudge (s : State) (r : RestoreSt) (bad stamped : Nat) (p : List Byte) : State :=
  let s1 := { s with rcv := { s.rcv with restore := some { r with buf := [], shard := p, result := some (bad == 0) } } }
  if bad == 0 then s1
  else
    let cand := (r.cands.getD r.idx (0, [])).1
    raise (if bad == 2 then logRefusal s1 7 2 r.ep else s1) 0x0F1D (pb cand 8 ++ pb stamped 8 ++ [bad])

/-- The whole shard has come, or none (R375 checks 1 to 5). -/
def restoreCheck (s : State) (r : RestoreSt) (whole : Option (List Byte)) : State :=
  match whole with
  | none => restoreJudge s r 1 0 []
  | some b =>
    let st := fieldLe b 16 8
    match shardOpen s b with
    | none => restoreJudge s r 2 st []
    | some p =>
      if !stampsOk s p (r.cands.getD r.idx (0, [])) then restoreJudge s r 3 st []
      else if !sizesOk s p then restoreJudge s r 4 st []
      else flushOther ((sectionTab p).foldl (fun s x => writeSection s p x) (restoreJudge s r 0 st p))

/-- A round begins: the shard of its candidate is asked for. -/
def restoreAsk (s : State) (r : RestoreSt) : State :=
  let step := (r.cands.getD r.idx (0, [])).1
  let r1 := { r with buf := [], shard := [], result := none, kids := [], sentUp := false }
  let s1 := { s with rcv := { s.rcv with restore := some r1 } }
  if epKind s1 r.ep != 2 then restoreJudge s1 r1 1 0 [] else sendChan s1 r.ep 3 (opHead 4 step (planShard s1) 0 0)

/-- A job-tree message of a recovery. -/
def rcvMsg (s : State) (mtype step : Nat) (data : List DWord) : Msg := { jobMsg s mtype step false [] with vc := 5, data := data }

/-- The job's start values after a restore or a takeover. -/
def jobFrom (s : State) (start seed epoch : Nat) : State := oset (oset (oset s 0x5401 1 start) 0x5401 2 seed) 0x5401 3 epoch

/-- A decision of a round is applied: 1 USE, 2 NEXT, 3 NONE. -/
def restoreApply (s : State) (r : RestoreSt) (dec : Nat) : State :=
  if dec == 2 then restoreAsk s { r with idx := r.idx + 1 }
  else
    let s1 := { s with rcv := { s.rcv with restore := none } }
    if dec != 1 then raise s1 0x0F1F []
    else
      let p := r.shard
      let vt := match (sectionTab p).find? (fun x => x.1 == 4) with
        | some x => snapOf (lslice p x.2.2.2.1 x.2.2.2.2) 0
        | none => []
      let clean (e : VtEntry) : VtEntry := { e with ref0 := 0, ref1 := 0, held0 := [], held1 := [], tags := [] }
      let cells := (List.range 64).foldl (fun cs c =>
        let mine := (vt.filter (fun q => q.1 / 64 == c)).map (fun q => (q.1 % 64, clean q.2))
        if mine.isEmpty && (tget ({} : Cell) cs c).vt.isEmpty then cs else tset cs c { tget ({} : Cell) cs c with vt := mine }) s1.cells
      let s2 := jobFrom { s1 with cells := cells, lastPosted := none, released := 0, past := [], once := stepsAnew s1 } (fieldLe p 16 8 + 1) (fieldLe p 32 8) r.epoch
      raise s2 0x0F1E (pb (fieldLe p 28 4) 4)

/-- Result word of a restore message. -/
def restoreWord (code dev : Nat) : List DWord := [dword (natLe code 1 ++ natLe 0 1 ++ natLe dev 2)]

/-- The results are combined and go up, or rank 0 decides. -/
def restoreRound (s : State) : State :=
  match s.rcv.restore with
  | none => s
  | some r => match r.result with
    | none => s
    | some own =>
      if r.sentUp || r.kids.length < (jobKids s).length then s
      else
        let ok := own && r.kids.all (fun k => k.2.1)
        let dev := ((if own then [] else [ownId s]) ++ r.kids.map (fun k => k.2.2)).foldl min 0xFFFF
        let step := (r.cands.getD r.idx (0, [])).1
        let r1 := { r with sentUp := true }
        let s1 := { s with rcv := { s.rcv with restore := some r1 } }
        if !isRank0 s1 then toParent s1 (rcvMsg s1 0x53 step (restoreWord (if ok then 1 else 0) dev))
        else
          let dec := if ok then 1 else if r.idx + 1 < r.cands.length then 2 else 3
          restoreApply (toKids s1 (rcvMsg s1 0x54 step (restoreWord dec dev)) (jobKids s1)) r1 dec

/-- The rounds go on while one is complete as it begins: an order names at most four candidates. -/
def restoreAdvance (s : State) : State := (List.range 4).foldl (fun s _ => restoreRound s) s

/-- RESTORE: the epoch is set, held messages go, and the first round begins. -/
def applyRestore (s : State) (o : Order) : State :=
  let limit := s.epoch == 0xFFFFFFFF
  let s0 := orderAbandon s
  let s1 := setEpoch { s0 with later := [] } o.epoch
  let s2 := if limit then { s1 with steps := [], jr := [], holding := false, roll := none } else s1
  restoreAdvance (restoreAsk (orderNoted s2 o.epoch) { epoch := o.epoch, ep := o.ep, cands := o.cands })

/-- An order of Table 12-3 that a signed request carries: a repeat, a refusal, or it is applied. Answers whether it was taken. -/
def takeOrder (s : State) (b : List Byte) : State × Bool :=
  if !s.rcv.last.isEmpty && s.rcv.last == b then (s, true)
  else
    let o := orderOf b
    match orderCheck s b with
    | 0 =>
      let t := match o.kind with
        | 2 => applyTakeover s o
        | 4 => applyPattern s o
        | 5 => applyShadow s o
        | 6 =>
          let s1 := orderAbandon s
          orderNoted { s1 with rcv := { s1.rcv with ckptDue := some o.ep } } o.epoch
        | 7 => applyRestore s o
        | _ => applyResume s o
      ({ t with rcv := { t.rcv with last := b } }, true)
    | r => (refuseOrder s r o.epoch, false)

/-! Ready and resume (R365). -/

/-- Retirement (R532, R534): what the role left unsealed goes with it (assumption log 60). -/
def retireRole (s : State) : State :=
  let s1 := { s with steps := [], jr := [], holding := false, roll := none, tee := none, fronts := s.fronts.filter (fun f => f.kind ≠ 1),
                     rcv := { s.rcv with kind := 0, teePorts := [], xferPorts := [], xfer := none, waitXfer := false } }
  oset (oset (oset (dropPlan (oset s1 0x5800 1 1)) 0x5800 2 0) 0x5800 3 0) 0x2062 1 0

/-- TRANSFER entries become unused; a neighbour still there is EXTRA. -/
def endTransferPorts (s : State) : State :=
  let ps := s.rcv.xferPorts
  let s1 := { s with plan := s.plan.map (fun p => { p with ports := ps.foldl (fun l q => l.set q {}) p.ports }), xferFrom := none,
                     rcv := { s.rcv with xferPorts := [] } }
  ps.foldl discover s1

/-- The device leaves HOLDING and its streams resume. -/
def doResume (s : State) (step : Nat) : State :=
  let kind := s.rcv.kind
  let drain := kind == 3 && s.rcv.peer == ownId s
  let s1 := toKids s (rcvMsg s 0x52 step []) (jobKids s)
  let s2 := raise { rollResume s1 with holding := false } 0x0F17 []
  let s3 := endTransferPorts { s2 with rcv := { s2.rcv with kind := 0, mirrorDue := kind != 2 && (buddyOf s2).isSome } }
  if drain then retireRole s3 else if kind == 2 then oset s3 0x5800 2 2 else s3

/-- The device is ready under its order. -/
def rcvIsReady (s : State) : Bool :=
  s.holding && !s.ldg.unrepaired && 1 ≤ s.rcv.kind && s.rcv.kind ≤ 3 && s.rcv.epoch == s.epoch && s.roll.isNone && !s.rcv.orderDue && s.rcv.xfer.isNone &&
    !s.rcv.waitXfer && (List.range 32).all (fun p => !usedPort s p || portState s p == 3) &&
    s.rcv.kidsReady.length ≥ (jobKids s).length && !s.rcv.readySent

/-- RECOVERY_READY: RCV_READY goes up, or rank 0 resumes the job. -/
def recoveryReady (s : State) : State :=
  if !rcvIsReady s then s
  else
    let s1 := { s with rcv := { s.rcv with readySent := true } }
    if isRank0 s1 then doResume s1 s.rcv.u else toParent s1 (rcvMsg s1 0x51 s.rcv.u [])

/-- Recovery messages and the epoch (R313): handled, held or dropped. -/
def rcvEpoch (s : State) (key : Nat) (m : Msg) (go : State → State) : State :=
  if mEpoch m < s.epoch then staleMill s
  else if mEpoch m > s.epoch then { withhold s key m with later := s.later ++ [(key, m)] }
  else go s

/-- The place of a job-tree child that a message comes from. -/
def jobKidIx (s : State) (key : Nat) (m : Msg) : Option Nat := (jobGroup s).bind (fun g => kidIx s g key m)

def fromParent (s : State) (key : Nat) (m : Msg) : Bool :=
  match jobGroup s with
  | some g => fromUp s g key m
  | none => false

/-- RCV_READY of a child. -/
def rcvReadyRx (s0 : State) (key : Nat) (m : Msg) : State :=
  rcvEpoch (takeRx s0 key m) key m (fun s =>
    match jobKidIx s key m with
    | some i => recoveryReady (if s.rcv.kidsReady.contains i then s else { s with rcv := { s.rcv with kidsReady := s.rcv.kidsReady ++ [i] } })
    | none => nakMsg s key m 1)

/-- RCV_RESUME from the parent. -/
def rcvResumeRx (s0 : State) (key : Nat) (m : Msg) : State :=
  rcvEpoch (takeRx s0 key m) key m (fun s =>
    if !fromParent s key m then nakMsg s key m 1
    else if s.holding && s.rcv.readySent then doResume s (fullStep s (mStep m)) else s)

/-- RCV_RESTORE_UP of a child. -/
def restoreUpRx (s0 : State) (key : Nat) (m : Msg) : State :=
  rcvEpoch (takeRx s0 key m) key m (fun s =>
    match s.rcv.restore, jobKidIx s key m with
    | some r, some i =>
      if r.kids.any (fun k => k.1 == i) then stayRx s key m
      else restoreAdvance { s with rcv := { s.rcv with restore := some { r with kids := r.kids ++ [(i, mByte m 0 == 1, mLe m 2 2)] } } }
    | _, none => nakMsg s key m 1
    | none, _ => s)

/-- RCV_RESTORE_DOWN: forwarded and applied. -/
def restoreDownRx (s0 : State) (key : Nat) (m : Msg) : State :=
  rcvEpoch (takeRx s0 key m) key m (fun s =>
    if !fromParent s key m then nakMsg s key m 1
    else match s.rcv.restore with
      | none => s
      | some r =>
        let s1 := toKids s (rcvMsg s 0x54 (fullStep s (mStep m)) m.data) (jobKids s)
        restoreAdvance (restoreApply s1 r (mByte m 0)))

/-- MIRROR_STATE of the buddy (R356). -/
def mirrorStateRx (s0 : State) (key : Nat) (m : Msg) : State :=
  rcvEpoch (takeRx s0 key m) key m (fun s => if buddyOf s == some m.src then oset (teeMsg s m) 0x5800 3 (m.spec % 4) else s)

/-- XFER_DONE at the spare: step u is its start, and its streams and tables stand as the journal says (R367). -/
def xferDoneRx (s0 : State) (key : Nat) (m : Msg) : State :=
  rcvEpoch (takeRx s0 key m) key m (fun s =>
    if !s.rcv.waitXfer || s.xferFrom != some m.src then s
    else
      let u := s.rcv.u
      let seed := (hdrOf s (u % 2)).seed
      let s1 := loadRole (jobFrom s u seed s.epoch) u
      { s1 with rcv := { s1.rcv with waitXfer := false } })

/-! Shadows (R370, R371). -/

/-- A shadow's run ends: it drops its plan and is a SPARE. -/
def shadowEnd (s : State) (code : Nat) (payload : List Nat) : State :=
  let s1 := allStreams.foldl (fun s p => abortStream s p.1 p.2) s
  let s2 := { s1 with steps := [], jr := [], holding := false, roll := none,
                      rcv := { s1.rcv with kind := 0, teePorts := [], shFolds := [], shDec := [], u := 0 } }
  raise (dropPlan (oset s2 0x5800 1 1)) code payload

/-- SHADOW_ENDED: a shadow's own run ends with the tee, as far as it can see the end (R371, assumption log 122). -/
def shadowStop (s : State) : State := if isShadow s then shadowEnd s 0x0F1A [] else s

/-- What the end of a tee on a port means on either side: a shadow's run ends when a port that links it to its pattern leaves ACTIVE. -/
def linkWatch (old new : State) (p : Nat) : State :=
  if teePort old p && teePort new p && portState old p == 3 && portState new p != 3 then shadowStop new else teeWatch old new p

/-- A step of a shadow is judged once it is computed, its pattern's fold is in and the decision has come. -/
def shadowAdvance (s : State) : State :=
  match s.steps.find? (fun t => t.isOpen) with
  | none => s
  | some t =>
    match (if isShadow s && t.computed then tfind s.rcv.shFolds t.num else none), tfind s.rcv.shDec t.num with
    | some (v, w), some dec =>
      if v != t.foldVal || w != t.foldWords then
        shadowEnd s 0x0F18 (pb t.num 8 ++ pb t.foldVal.toNat 8 ++ pb v.toNat 8)
      else
        let s1 := sealStep s t (dec == 2)
        let n := oget s1 0x5800 0xC + 1
        let s2 := oset { s1 with rcv := { s1.rcv with shFolds := tdel s1.rcv.shFolds t.num } } 0x5800 0xC n
        if n ≥ oget s2 0x5800 0xB then shadowEnd s2 0x0F19 [] else s2
    | _, _ => s

/-- SHADOW_FOLD: the pattern's fold of a step. -/
def shadowFoldRx (s0 : State) (key : Nat) (m : Msg) : State :=
  rcvEpoch (takeRx s0 key m) key m (fun s =>
    if !isShadow s then s
    else shadowAdvance { s with rcv := { s.rcv with shFolds := tset s.rcv.shFolds (fullStep s (mStep m)) (BitVec.ofNat 64 (mLe m 0 8), mLe m 8 8) } })

/-- A teed decision: SEAL and SKIP wait for the step's judgement, ROLLBACK and HOLD are followed at once. -/
def shadowDecision (s0 : State) (key : Nat) (m : Msg) : State :=
  rcvEpoch (takeRx s0 key m) key m (fun s =>
    let n := fullStep s (mStep m)
    let dec := mByte m 0
    if dec == 1 || dec == 2 then shadowAdvance { s with rcv := { s.rcv with shDec := tset s.rcv.shDec n dec } }
    else if sealing s then stayRx s key m
    else applyRoll s n (mLe m 2 2) (mByte m 4) (mLe m 8 4) (dec == 4))

/-- MILL_SEAL_DOWN, also at a shadow. -/
def sealDownRx (s : State) (key : Nat) (m : Msg) : State := if isShadow s && key != selfKey then shadowDecision s key m else millSealDown s key m

/-- A SHADOW_RSP answers the READ or CAS with its cell, stream, position and ordinal (Table 12-5). -/
def rspHit (s : State) (m : Msg) (e : Nat × Trk) : Bool :=
  let f (i n : Nat) : Nat := m.spec / 2 ^ i % 2 ^ n
  e.2.kind == 0 && e.2.cell == f 0 6 && e.2.strm == f 6 2 && e.2.ord == f 28 16 &&
    (match trkFly s e.2 with
     | some g => g.pos == f 8 20
     | none => false)

/-- SHADOW_RSP: the answer that the pattern had is the shadow's, too; one that nothing waits for yet stays. -/
def shadowRspRx (s0 : State) (key : Nat) (m : Msg) : State :=
  rcvEpoch (takeRx s0 key m) key m (fun s =>
    let status := m.spec / 2 ^ 44 % 2 ^ 4
    if !isShadow s then s
    else match s.trk.find? (rspHit s m) with
      | none => stayRx s key m
      | some (e, t) =>
        if status != 0 then trkEnd s e t (statusCause status)
        else if t.msg.mtype == 2 then readAnswer s e t m.data
        else okAck s e t (mLe m 0 8) (mByte m 8 % 2 == 1))

/-- The entries of a shadow's journal copy that a free entry of its own can take up: posted by the pattern. -/
def shadowJournal (s : State) (p : Nat) : State :=
  let j := hdrOf s p
  if (getJr s p).estate != 0 || j.estate < 2 || j.step ≤ s.released then s
  else setJr s p { j with estate := 2, opened := false, epochOpen := 0, replays := 0, vtSnap := [] }

/-- A shadow's first step: its entry is posted and the teed seal of the step before has come. -/
def shadowStart (s : State) : State :=
  match ([0, 1].map (hdrOf s)).find? (fun j => j.estate ≥ 2 && (tfind s.rcv.shDec (j.step - 1)).isSome && j.step != 0) with
  | none => s
  | some j =>
    let s1 := loadRole (jobFrom s j.step j.seed s.epoch) j.step
    let s2 := { s1 with steps := [], rcv := { s1.rcv with u := j.step } }
    let s3 := setJr s2 (j.step % 2) { getJr s2 (j.step % 2) with opened := false }
    allStreams.foldl (fun s p => resumeStream s p.1 p.2) (setJr s3 ((j.step + 1) % 2) {})

/-- STEP_OPEN: a shadow first looks at its journal copy. -/
def openRow (s : State) : State :=
  if !isShadow s then stepOpenDo s
  else
    let s1 := if s.rcv.u == 0 then shadowStart s else s
    if s1.rcv.u == 0 then s1 else stepOpenDo (shadowJournal (shadowJournal s1 0) 1)

/-- STEP_COMPUTED, also at a shadow. -/
def computedRow (s : State) : State := shadowAdvance (stepComputed s)

/-- ROLLBACK_DONE, and what an order waits for. -/
def rollbackRow (s : State) : State := orderRest (rollbackDone s)

end Sys2Proof.Machine
end

