-- ==== Sys2Proof/Machine/BulkRx.lean ====
section
/-! DEFINITION. What comes from the ordinary network (R480-R490): packets of the bulk transport, storage operations, and Ethernet
frames. `mgmt` is the dictionary's handler of a message on channel 0. -/
namespace Sys2Proof.Machine

/-- A dictionary endpoint comes up; what is due to it is sent (R447, R460). -/
def epUp (s : State) (e : Nat) : State := notifyEp (setEp s e { getEp s e with up := true }) e false

/-! Peers (R488). -/

/-- A restore shard cannot be read. -/
def restoreLost (s : State) : State :=
  match s.rcv.restore with
  | some r => if r.result.isNone then restoreAdvance (restoreJudge s r 1 0 []) else s
  | none => s

/-- Loss of a STORAGE peer: its checkpoint is abandoned, its shard counts as failed. -/
def storageLost (s : State) (ep : Nat) : State :=
  let mine := s.fronts.any (fun f => f.kind == 2 && f.dest == ep) || (s.rcv.ckptSent.map (fun p => p.1)) == some ep || s.rcv.ckptDue == some ep
  let s1 := if mine then ckptAbandon s else s
  if (s1.rcv.restore.map (fun r => r.ep)) == some ep then restoreLost s1 else s1

/-- A peer is lost: its session closes, and its traffic ends. -/
def peerLost (s : State) (ep : Nat) : State :=
  let s1 := raise (bulkEnd s ep) 0x1016 [ep]
  match epKind s ep with
  | 1 =>
    let key := epKey s ep
    millLinkDown { setB s1 ep {} with txq := tset s1.txq key [] } key
  | 2 => storageLost (setB s1 ep {}) ep
  | _ => mgrGone s1 ep

/-- A packet goes again, byte for byte; after 64 times the peer is lost. -/
def resendPkt (s : State) (ep psn : Nat) : State :=
  let x := getB s ep
  match tfind x.unack psn with
  | none => s
  | some (pkt, n) =>
    if n ≥ 64 then peerLost s ep
    else sendPkt (bumpPerf (setB s ep { x with unack := tset x.unack psn (pkt, n + 1) }) 0x2052 3 1) ep pkt

/-- BULK_RESEND_TIMER. -/
def bulkResendTimer (s : State) (ep psn : Nat) : State := if (getB s ep).phase == 2 then resendPkt s ep psn else s

/-- BULK_ACK_TIMER. -/
def bulkAckTimer (s : State) (ep : Nat) : State :=
  let x := getB s ep
  if x.phase == 2 && x.got > 0 then sendAck s ep else s

/-- PEER_TIMEOUT: ACKPSN has not advanced for the peer timeout while packets are outstanding. -/
def peerTimeout (s : State) (ep : Nat) : State :=
  let x := getB s ep
  if (x.phase == 2 && !x.unack.isEmpty) || x.phase == 1 then peerLost s ep else s

/-! Handshakes (R484, R485). -/

/-- A refused handshake is answered by nothing. -/
def handRefused (s : State) (ep : Nat) : State := raise (logRefusal s 8 0 ep) 0x1017 [ep]

/-- The signature and the identity of a handshake packet. -/
def handOk (s : State) (ep : Nat) (pkt : List Byte) : Bool :=
  let pl := lslice pkt 32 196
  let dig := epDigest s ep
  ecdsaOk (lslice pl 4 64) (pkt.take 164) (lslice pl 132 64) && (dig.all (fun b => b == 0#8) || dig == sha256 (lslice pl 4 64)) &&
    fieldLe pl 0 4 != 0 && zeroIn pkt 228 16

/-- The session of a MANAGER carries endpoint 3. -/
def managerUp (s : State) (ep : Nat) : State := if epKind s ep == 3 then epUp { s with mgr := some ep } 3 else s

/-- BULK_OPEN: authenticated and answered with ACCEPT. -/
def bulkOpenRx (s : State) (ep : Nat) (pkt : List Byte) : State :=
  match bheadOf pkt with
  | none => bumpErr s 0x2052 4 1 0x1019
  | some h =>
    if h.ty != 1 then s
    else if epKind s ep == 0 then bumpErr s 0x2052 5 1 0x1019
    else if !handOk s ep pkt then handRefused s ep
    else
      let pl := lslice pkt 32 196
      let s1 := mgrGone (bulkEnd s ep) ep
      let s2 := sendHand s1 ep 2 (fieldLe pl 0 4) (fun x => { x with opener := false })
      match ecdh (getB s2 ep).eph (lslice pl 68 64) with
      | none => handRefused s ep
      | some z => pumpEp (managerUp (bulkUp s2 ep z (pl.take 132)) ep) ep

/-- BULK_ACCEPT: the handshake is complete. -/
def bulkAcceptRx (s : State) (ep : Nat) (pkt : List Byte) : State :=
  let x := getB s ep
  match bheadOf pkt with
  | none => bumpErr s 0x2052 4 1 0x1019
  | some h =>
    if h.ty != 2 || x.phase != 1 || h.session != x.mine then s
    else if !handOk s ep pkt then handRefused s ep
    else
      let pl := lslice pkt 32 196
      match ecdh x.eph (lslice pl 68 64) with
      | none => handRefused s ep
      | some z => pumpEp (bulkUp (setB s ep { x with far := fieldLe pl 0 4 }) ep z (pl.take 132)) ep

/-! Sealed packets (R485-R487). -/

/-- A tag has failed: sixteen in a row close the session. -/
def tagFail (s : State) (ep : Nat) : State :=
  let x := getB s ep
  let s1 := bumpErr (setB s ep { x with fails := x.fails + 1 }) 0x2052 6 1 0x1019
  if x.fails + 1 ≥ 16 then bulkRenew s1 ep else s1

/-- The payload of a sealed packet of this session. -/
def openPkt (x : BSess) (h : BHead) (nonce : Nat) (pkt : List Byte) : Option (List Byte) :=
  gcmOpen x.keyRx (x.saltRx ++ natLe nonce 8) (pkt.take 32) (lslice pkt 32 h.len) (pkt.drop (32 + h.len))

/-- The session's pace now: 1 Gb/s more per ms, up to its kind's rate (R487). -/
def paceNow (s : State) (ep : Nat) : Nat :=
  let x := getB s ep
  min (bulkRate s ep) (x.pace + (s.now - x.paceAt) / 1000000)

/-- ACKPSN and SACK of a packet: what is acknowledged retires, gaps are resent once, CE halves the pace. -/
def takeBulkAck (s0 : State) (ep : Nat) (h : BHead) : State :=
  let s := stamp s0
  let x := getB s ep
  let first := h.ack == 2 ^ 48 - 1
  let left := x.unack.filter (fun p => first || h.ack < p.1)
  let sacked (p : Nat) : Bool :=
    let b := if first then 1 else h.ack + 2
    b ≤ p && p < b + 64 && h.sack / 2 ^ (p - b) % 2 == 1
  let y := { x with unack := left }
  let z := if h.ce then { y with pace := max 1 (paceNow s ep / 2), paceAt := s.now } else y
  let gaps := left.filter (fun p => !sacked p.1 && left.any (fun q => p.1 < q.1 && sacked q.1))
  pumpEp (gaps.foldl (fun s p => resendPkt s ep p.1) (setB s ep z)) ep

/-- A channel that a kind of peer may use (Table 16-9). -/
def chanOk (kind chan : Nat) : Bool :=
  match chan with
  | 0 => kind == 3
  | 1 | 2 => kind == 1
  | 3 | 4 => kind == 2
  | _ => false

/-- A word of a message in a payload, as it came; one that cannot be corrected counts as poisoned. -/
def bulkWordOf (b : List Byte) : DWord := (passWord b (wordDecode b).isNone).1

/-- The messages of a MILL or CONTROL payload. -/
def bulkMsgs : Nat → List Byte → List Msg
  | 0, _ => []
  | n + 1, b =>
    if b.length < 36 then []
    else
      let h := decoded (bulkWordOf (b.take 36))
      let k := hdrLen h.bytes
      let ws := (List.range k).map (fun i => bulkWordOf (lslice b (36 + 36 * i) 36))
      parseMsg h.bytes ws h.poison :: bulkMsgs n (b.drop (36 + 36 * k))

/-- A MILL or CONTROL message stands in its peer's buffer; one that is malformed or on the wrong channel is discarded and counted
(R274, R489). -/
def bulkMsgIn (s : State) (ep chan : Nat) (m : Msg) : State :=
  let key := epKey s ep
  if m.bad || chanOf m != chan || !(0x30 ≤ m.mtype && m.mtype ≤ 0x3F || 0x50 ≤ m.mtype && m.mtype ≤ 0x58) then countRx s key
  else { s with rxq := tset s.rxq key (tget [] s.rxq key ++ [m]) }

/-! Storage operations (R490). -/

/-- Fields that an operation does not use are zero. -/
def opFormOk (pl : List Byte) : Bool :=
  let op := fieldLe pl 0 1
  let z (i n : Nat) : Bool := zeroIn pl i n
  pl.length ≥ 32 && z 1 7 &&
    (if op == 3 then z 20 12 && pl.length == 32
     else if op == 5 then fieldLe pl 28 4 == pl.length - 32
     else if op == 6 then z 20 8 && pl.length == 32
     else if op == 7 then z 16 4 && fieldLe pl 28 4 == pl.length - 32
     else op == 8 && z 16 12 && pl.length == 32)

/-- COMMITTED: the shard is stored. -/
def storeCommitted (s : State) (ep : Nat) (pl : List Byte) : State :=
  if s.rcv.ckptSent == some (ep, fieldLe pl 8 8) && fieldLe pl 16 4 == planShard s then raise { s with rcv := { s.rcv with ckptSent := none } } 0x0F1B [] else s

/-- The restore that an operation belongs to. -/
def restoreFor (s : State) (ep : Nat) (pl : List Byte) : Option RestoreSt :=
  match s.rcv.restore with
  | some r => if r.ep == ep && r.result.isNone && fieldLe pl 16 4 == planShard s && fieldLe pl 8 8 == (r.cands.getD r.idx (0, [])).1 then some r else none
  | none => none

/-- DATA: bytes of the shard asked for. -/
def storeData (s : State) (ep : Nat) (pl : List Byte) : State :=
  match restoreFor s ep pl with
  | some r => { s with rcv := { s.rcv with restore := some { r with buf := r.buf ++ [(fieldLe pl 20 8, pl.drop 32)] } } }
  | none => s

/-- The bytes of a shard from its parts, when they leave no gap. -/
def assemble (buf : List (Nat × List Byte)) : Nat → Nat → List Byte
  | 0, _ => []
  | n + 1, o => match buf.find? (fun p => p.1 == o && !p.2.isEmpty) with
    | some p => p.2 ++ assemble buf n (o + p.2.length)
    | none => []

/-- END: the shard is whole, or was not found. -/
def storeEnd (s : State) (ep : Nat) (pl : List Byte) : State :=
  match restoreFor s ep pl with
  | some r =>
    let n := fieldLe pl 28 4
    let b := assemble r.buf r.buf.length 0
    restoreAdvance (restoreCheck s r (if n == 0 || b.length != n then none else some b))
  | none => s

/-- The input area of an entry takes a write only while the entry is FREE; others are dropped and counted (R328). -/
def inputWrite (s : State) (p off : Nat) (bs : List Byte) : State :=
  if s.hasJournal && (getJr s p).estate == 0 && off + bs.length ≤ oget s 0x5402 2 * 0x100000 then
    flushOther (otherWrite s (entryAddr s p + 0x02200000 + off) bs)
  else bumpErr s 0x5400 0xF 1 0x0C1C

/-- IWRITE. -/
def storeIwrite (s : State) (pl : List Byte) : State := inputWrite s (fieldLe pl 8 8 % 2) (fieldLe pl 20 8) (pl.drop 32)

/-- IPOST: the two post registers are written (R327). -/
def storeIpost (s : State) (pl : List Byte) : State :=
  let n := fieldLe pl 8 8
  let len := fieldLe pl 28 4
  post { s with ldg := { s.ldg with postStep := n, postLen := len } } n len

/-- A storage operation of a channel. -/
def storageIn (s : State) (ep chan : Nat) (pl : List Byte) : State :=
  if !opFormOk pl then s
  else match chan, fieldLe pl 0 1 with
    | 3, 3 => storeCommitted s ep pl
    | 3, 5 => storeData s ep pl
    | 3, 6 => storeEnd s ep pl
    | 4, 7 => storeIwrite s pl
    | 4, 8 => storeIpost s pl
    | _, _ => s

/-- A row of Table 16-10 that storage sends: the operation of its own number on a session that is up. -/
def storageRow (s : State) (ep chan op : Nat) (pl : List Byte) : State :=
  if (getB s ep).phase == 2 && epKind s ep == 2 && fieldLe pl 0 1 == op then storageIn s ep chan pl else s

/-! Delivery (R486, R489). -/

/-- A payload goes to its channel. -/
def deliver (mgmt : State → List Byte → State) (s : State) (ep chan : Nat) (pl : List Byte) : State :=
  if !chanOk (epKind s ep) chan then bumpErr s 0x2052 5 1 0x1019
  else match chan with
    | 0 => if s.mgr == some ep then mgmt s pl else s
    | 1 | 2 => (bulkMsgs (pl.length / 36 + 1) pl).foldl (fun s m => bulkMsgIn s ep chan m) s
    | c => storageIn s ep c pl

/-- Packets held out of order go on in their order. -/
def deliverHeld (mgmt : State → List Byte → State) (s : State) (ep : Nat) : Nat → State
  | 0 => s
  | n + 1 =>
    let x := getB s ep
    match tfind x.held x.rxNext with
    | none => s
    | some (c, pl) => deliverHeld mgmt (deliver mgmt (setB s ep { x with held := tdel x.held x.rxNext, rxNext := x.rxNext + 1 }) ep c pl) ep n

/-- BULK_DATA. -/
def bulkDataRx (mgmt : State → List Byte → State) (s : State) (ep : Nat) (ce : Bool) (pkt : List Byte) : State :=
  let x := getB s ep
  match bheadOf pkt with
  | none => bumpErr s 0x2052 4 1 0x1019
  | some h =>
    if h.ty != 3 || x.phase != 2 || h.session != x.mine then s
    else match openPkt x h h.psn pkt with
      | none => tagFail s ep
      | some pl =>
        let s1 := bumpPerf (setB s ep { x with fails := 0, ce := x.ce || ce, got := x.got + 1 }) 0x2052 2 1
        let s2 := takeBulkAck s1 ep h
        let y := getB s2 ep
        let fresh := y.rxNext ≤ h.psn && h.psn < y.rxNext + 4096 && (tfind y.held h.psn).isNone
        let s3 := if fresh then
            deliverHeld mgmt (setB s2 ep { y with held := y.held ++ [(h.psn, (h.chan, pl))] }) ep (y.held.length + 1) else s2
        if (getB s3 ep).phase == 2 && (getB s3 ep).got ≥ 16 then sendAck s3 ep else s3

/-- An ACK or CLOSE whose control number is above the last. -/
def bulkCtlRx (s : State) (ep ty : Nat) (pkt : List Byte) (act : State → BHead → State) : State :=
  let x := getB s ep
  match bheadOf pkt with
  | none => bumpErr s 0x2052 4 1 0x1019
  | some h =>
    if h.ty != ty || x.phase != 2 || h.session != x.mine then s
    else match openPkt x h (h.psn + 2 ^ 63) pkt with
      | none => tagFail s ep
      | some _ =>
        if (match x.ctlRx with
          | some n => decide (h.psn ≤ n)
          | none => false) then s
        else act (setB s ep { x with fails := 0, ctlRx := some h.psn }) h

/-- BULK_ACK. -/
def bulkAckRx (s : State) (ep : Nat) (pkt : List Byte) : State := bulkCtlRx s ep 4 pkt (fun s h => takeBulkAck s ep h)

/-- BULK_CLOSE. -/
def bulkCloseRx (s : State) (ep : Nat) (pkt : List Byte) : State := bulkCtlRx s ep 5 pkt (fun s _ => mgrGone (bulkEnd s ep) ep)

/-- A packet of an endpoint by its type. -/
def bulkPacket (mgmt : State → List Byte → State) (s : State) (ep : Nat) (ce : Bool) (pkt : List Byte) : State :=
  match fieldLe pkt 1 1 with
  | 1 => bulkOpenRx s ep pkt
  | 2 => bulkAcceptRx s ep pkt
  | 3 => bulkDataRx mgmt s ep ce pkt
  | 4 => bulkAckRx s ep pkt
  | 5 => bulkCloseRx s ep pkt
  | _ => bumpErr s 0x2052 4 1 0x1019

/-! Ethernet frames (R480). -/

def frameDrop (s : State) : State := bumpErr s 0x2052 4 1 0x1019

/-- The endpoint that an address and UDP port of an Ethernet port name. -/
def epOfAddr (s : State) (p : Nat) (v4 : Bool) (addr : List Byte) (port : Nat) : Option Nat :=
  allEps.find? (fun i =>
    let e := epEntry s i
    fieldLe e 0 1 != 0 && fieldLe e 1 1 == p && fieldLe e 2 1 == (if v4 then 4 else 6) && fieldLe e 6 2 == port &&
      lslice e 16 (if v4 then 4 else 16) == addr)

/-- A frame as it stands behind its header: destination and source MAC, type, and the IP packet or ARP body. -/
structure EthIn where
  dst  : List Byte
  src  : List Byte
  ty   : Nat
  vlan : Nat
  body : List Byte
  deriving DecidableEq, Repr

def ethOf (f : List Byte) : EthIn :=
  let ty := beNat (lslice f 12 2)
  if ty == 0x8100 then ⟨f.take 6, lslice f 6 6, beNat (lslice f 16 2), beNat (lslice f 14 2) % 4096, f.drop 18⟩
  else ⟨f.take 6, lslice f 6 6, ty, 0, f.drop 14⟩

/-- An answer leaves by the port it was asked on. -/
def ethReply (s : State) (p : Nat) (dst : List Byte) (ty : Nat) (body : List Byte) : State :=
  emit s (.eth p (ethHead dst (Config.ethMac p) (getEth s p).vlan ty ++ body))

/-- An ARP request for the port's own address. -/
def arpRx (s : State) (p : Nat) (e : EthIn) : State :=
  let b := e.body
  let own := (getEth s p).v4
  if lslice b 0 8 == [0#8, 1#8, 8#8, 0#8, 6#8, 4#8, 0#8, 1#8] && lslice b 24 4 == own && !own.all (fun x => x == 0#8) then
    ethReply s p (lslice b 8 6) 0x0806 ([0#8, 1#8, 8#8, 0#8, 6#8, 4#8, 0#8, 2#8] ++ Config.ethMac p ++ own ++ lslice b 8 10)
  else frameDrop s

/-- An ICMP message with its checksum put in at bytes 2 and 3. -/
def icmpSum (pre bs : List Byte) : List Byte := bs.take 2 ++ natBe (netSum (pre ++ bs.take 2 ++ zeros 2 ++ bs.drop 4)) 2 ++ bs.drop 4

/-- An IPv4 packet for the port. -/
def ip4Rx (mgmt : State → List Byte → State) (s : State) (p : Nat) (e : EthIn) : State :=
  let x := getEth s p
  let len := beNat (lslice e.body 2 2)
  let b := e.body.take len
  let own := x.v4
  let src := lslice b 12 4
  let pl := b.drop 20
  if len < 20 || e.body.length < len || len > x.mtu || b.getD 0 0#8 != 0x45#8 || netSum (b.take 20) != 0 || beNat (lslice b 6 2) % 0x4000 != 0 ||
      lslice b 16 4 != own || own.all (fun y => y == 0#8) then frameDrop s
  else match (b.getD 9 0#8).toNat with
    | 1 =>
      if (pl.getD 0 0#8) == 8#8 && (pl.getD 1 0#8) == 0#8 && netSum pl == 0 then
        let (n, s1) := draw s
        ethReply s1 p e.src 0x0800 (ip4Head (4 * x.dscp + 2) len (Config.packetBits n % 65536) 1 own src ++ icmpSum [] (0#8 :: pl.drop 1))
      else frameDrop s
    | 17 =>
      let ul := beNat (lslice pl 4 2)
      if ul < 8 || ul != pl.length || netSum (pseudo true src own 17 ul ++ pl) != 0 || beNat (lslice pl 6 2) == 0 || beNat (lslice pl 2 2) != x.udp then
        frameDrop s
      else match epOfAddr s p true src (beNat (lslice pl 0 2)) with
        | some ep => bulkPacket mgmt s ep ((b.getD 1 0#8).toNat % 4 == 3) (pl.drop 8)
        | none => bumpErr s 0x2052 5 1 0x1019
    | _ => frameDrop s

/-- A Neighbour Solicitation for the port's own address. -/
def nsReply (s : State) (p : Nat) (e : EthIn) (src : List Byte) : State :=
  let x := getEth s p
  let anon := src.all (fun b => b == 0#8)
  let dst := if anon then [0xFF#8, 0x02#8] ++ zeros 13 ++ [1#8] else src
  let mac := if anon then [0x33#8, 0x33#8, 0#8, 0#8, 0#8, 1#8] else e.src
  let (n, s1) := draw s
  let body := [136#8, 0#8, 0#8, 0#8, (if anon then 0x20#8 else 0x60#8)] ++ zeros 3 ++ x.v6 ++ [2#8, 1#8] ++ Config.ethMac p
  ethReply s1 p mac 0x86DD (ip6Head (4 * x.dscp + 2) (Config.packetBits n % 2 ^ 20) 32 58 255 x.v6 dst ++ icmpSum (pseudo false x.v6 dst 58 32) body)

/-- An IPv6 packet for the port. -/
def ip6Rx (mgmt : State → List Byte → State) (s : State) (p : Nat) (e : EthIn) : State :=
  let x := getEth s p
  let len := beNat (lslice e.body 4 2)
  let b := e.body.take (40 + len)
  let src := lslice b 8 16
  let dst := lslice b 24 16
  let pl := b.drop 40
  let none6 := x.v6.all (fun y => y == 0#8)
  if e.body.length < 40 + len || 40 + len > x.mtu || (b.getD 0 0#8).toNat / 16 != 6 || none6 then frameDrop s
  else match (b.getD 6 0#8).toNat with
    | 58 =>
      let ok := netSum (pseudo false src dst 58 len ++ pl) == 0
      if ok && lslice pl 0 2 == [135#8, 0#8] && lslice pl 8 16 == x.v6 && (b.getD 7 0#8) == 255#8 then nsReply s p e src
      else if ok && lslice pl 0 2 == [128#8, 0#8] && dst == x.v6 then
        let (n, s1) := draw s
        ethReply s1 p e.src 0x86DD (ip6Head (4 * x.dscp + 2) (Config.packetBits n % 2 ^ 20) len 58 64 x.v6 src ++
          icmpSum (pseudo false x.v6 src 58 len) (129#8 :: pl.drop 1))
      else frameDrop s
    | 17 =>
      let ul := beNat (lslice pl 4 2)
      if ul < 8 || ul != pl.length || dst != x.v6 || netSum (pseudo false src dst 17 ul ++ pl) != 0 || beNat (lslice pl 6 2) == 0 ||
          beNat (lslice pl 2 2) != x.udp then frameDrop s
      else match epOfAddr s p false src (beNat (lslice pl 0 2)) with
        | some ep => bulkPacket mgmt s ep (beNat (lslice b 0 2) / 16 % 4 == 3) (pl.drop 8)
        | none => bumpErr s 0x2052 5 1 0x1019
    | _ => frameDrop s

/-- ETH_FRAME_RX: a frame without its FCS, and whether the FCS was right. -/
def ethFrameRx (mgmt : State → List Byte → State) (s : State) (p : Nat) (f : List Byte) (fcsOk : Bool) : State :=
  let e := ethOf f
  let x := getEth s p
  if !ethUp s p then s
  else if !fcsOk || f.length < 14 || e.body.length > max x.mtu 46 || e.vlan != x.vlan ||
      !(e.dst == Config.ethMac p || (e.dst.getD 0 0#8).toNat % 2 == 1) then frameDrop s
  else match e.ty with
    | 0x0806 => arpRx s p e
    | 0x0800 => ip4Rx mgmt s p e
    | 0x86DD => ip6Rx mgmt s p e
    | _ => frameDrop s

/-! Links (R491, R492). -/

/-- A port's values in effect from its link training on. -/
def ethTake (s : State) (p : Nat) : EthSt :=
  let i := 0x2048 + p
  { mode := oget s i 2, mtu := oget s i 4, vlan := oget s i 5, v6 := (tget [] s.doms (okey i 6) ++ zeros 16).take 16,
    v4 := (tget [] s.doms (okey i 7) ++ zeros 4).take 4, udp := oget s i 8, dscp := oget s i 9 }

/-- ETH_LINK_UP. -/
def ethLinkUp (s : State) (p : Nat) : State :=
  if ethUp s p || s.board.pllLost.contains (16 + p) then s
  else raise (oset { s with eth := tset s.eth p (ethTake s p) } (0x2048 + p) 3 1) 0x1015 [p]

/-- ETH_LINK_DOWN. -/
def ethLinkDown (s : State) (p : Nat) : State :=
  if ethUp s p then raise (oset s (0x2048 + p) 3 0) 0x1014 [p] else s

end Sys2Proof.Machine
end

