-- ==== Sys2Proof/Machine/Locksmith.lean ====
section
/-! DEFINITION. The Locksmith (R422-R427, R431-R433): job registration and release, signed requests, debug tokens, and the guarded
objects' owners (R324, R419, R481, R534). -/
namespace Sys2Proof.Machine

/-! Status codes (Table 15-6). -/

def stOk : Nat := 0
def stNoObject : Nat := 1
def stAccess : Nat := 2
def stLength : Nat := 3
def stRange : Nat := 4
def stState : Nat := 5
def stSignature : Nat := 6
def stBusy : Nat := 7
def stXferOrder : Nat := 8
def stXferNone : Nat := 9
def stMalformed : Nat := 10
def stPersist : Nat := 11
def stType : Nat := 12

/-- The device has reported READY (R529). -/
def isReady (s : State) : Bool := oget s 0x2060 2 == 1

/-- A step is unsealed (R331). -/
def unsealed (s : State) : Bool := !s.steps.isEmpty

/-! Registration and release (R422, R423, R558). -/

/-- JSK, unwrapped from a record. -/
def unwrapJsk (s : State) (r : List Byte) : Option (List Byte) :=
  match ecdh s.lock.dek (lslice r 112 64) with
  | none => none
  | some z => gcmOpen (hkdf (lslice r 8 40) z (ascii "RLM4-WRAP") 32) (zeros 12) (r.take 168) (lslice r 176 32) (lslice r 208 16)

/-- The first check of Table 14-15 that fails, 0 for none. -/
def regCheck (s : State) (r : List Byte) : Nat :=
  if s.lock.jok.isSome then 1
  else if s.lock.debug != 0 then 2
  else if r.length != 288 || fieldLe r 0 4 != 0x4A524C52 || fieldLe r 4 2 != 1 || !zeroIn r 6 2 then 3
  else if lslice r 16 32 != idDigest s then 4
  else if fieldLe r 8 8 == 0 then 5
  else if !ecdsaOk (lslice r 48 64) (r.take 224) (lslice r 224 64) then 6
  else if (unwrapJsk s r).isNone then 7
  else 0

/-- JOB_REGISTRATION: the record is taken or refused whole. -/
def jobRegister (s : State) (r : List Byte) : State × Nat :=
  if !isReady s then (s, stState)
  else match regCheck s r with
    | 0 =>
      let id := fieldLe r 8 8
      let s1 := { s with lock := { s.lock with jok := some (lslice r 48 64), jsk := (unwrapJsk s r).getD [], lastReq := [], planSeq := none } }
      (raise (oset (oset (oset s1 0x5801 1 id) 0x6010 4 0) 0x5800 1 1) 0x0811 (pb id 8), stOk)
    | c => (raise (logRefusal s 2 c 0x6010) 0x0813 [c], if c ≤ 2 then stState else stSignature)

/-- JOB_RELEASE: the job keys go and the plan is dropped. -/
def jobRelease (s : State) : State × Nat :=
  if unsealed s then (s, stState)
  else
    let id := oget s 0x5801 1
    let s1 := { s with lock := { s.lock with jok := none, jsk := [], lastReq := [], planSeq := none } }
    (raise (oset (dropPlan (oset (oset s1 0x5801 1 0) 0x5401 1 0)) 0x5800 1 0) 0x0812 (pb id 8), stOk)

/-! Owners of guarded objects. -/

/-- R324: a job start object. A write of START_STEP begins a new numbering of posts (R327). -/
def jobStartWrite (s : State) (idx sub v : Nat) : State × Nat :=
  if unsealed s || [0, 1].any (fun p => (getJr s p).estate == 1 || (getJr s p).estate == 2) then (s, stState)
  else if idx == 0x5401 && sub == 1 && v == 2 ^ 64 - 1 then (s, stRange)
  else
    let s1 := oset s idx sub v
    (if idx == 0x5401 && sub == 1 then { s1 with lastPosted := none, released := 0, past := [], once := stepsAnew s1 } else s1, stOk)

/-- A plan body that a signed request carries. -/
def planWrite (s : State) (b : List Byte) : State × Nat :=
  if !isReady s then (s, stState)
  else match planCheck s b with
    | 0 => (acceptPlan s b, stOk)
    | r => (refusePlan s r (fieldLe b 4 8), if r == 5 then stState else stRange)

/-- An order body that a signed request carries. -/
def orderWrite (s : State) (b : List Byte) : State × Nat :=
  if !isReady s then (s, stState)
  else
    let r := orderCheck s b
    let (s1, ok) := takeOrder s b
    (s1, if ok then stOk else if r == 5 || r == 6 || r == 7 || r ≥ 9 then stState else stRange)

/-- An activation request (R419): at once without a job key, else at the next seal; the object keeps the value written (R453). -/
def activate (s : State) (k : Nat) : State × Nat :=
  if !mayActivate s k then (s, stState)
  else if s.lock.jok.isSome then (oset (oset s 0x6031 1 k) 0x6031 2 k, stOk)
  else (patchEnter (oset s 0x6031 1 k) k, stOk)

/-- A field of an endpoint entry is out of range (Table 16-7). -/
def epEntryBad (e : List Byte) (manager : Bool) : Bool :=
  let kind := fieldLe e 0 1
  if kind == 0 then false
  else
    kind > 3 || (manager && kind != 3) || fieldLe e 1 1 > 1 || !(fieldLe e 2 1 == 4 || fieldLe e 2 1 == 6) || !zeroIn e 3 1 ||
      (kind != 1 && !zeroIn e 4 2) || !zeroIn e 14 2 || (fieldLe e 2 1 == 4 && !zeroIn e 20 12) ||
      ((kind == 1 || manager) && zeroIn e 32 32)

/-- The entries of a table. -/
def epEntries (b : List Byte) : List (List Byte) := (List.range (b.length / 64)).map (fun i => lslice b (64 * i) 64)

/-- Two DEVICE entries share a device and a port. -/
def epTwice : List (List Byte) → Bool
  | [] => false
  | e :: t => (fieldLe e 0 1 == 1 && t.any (fun f => fieldLe f 0 1 == 1 && fieldLe f 4 2 == fieldLe e 4 2 && fieldLe f 1 1 == fieldLe e 1 1)) ||
      epTwice t

/-- An entry that the plan in force uses (R481). -/
def epInUse (s : State) (i : Nat) : Bool :=
  match s.plan with
  | none => false
  | some p => epKind s i == 1 && p.groups.any (fun g => (groupLinks g).any (fun l =>
      (l.link == 0x40 || l.link == 0x41) && l.nid == epDev s i && l.link - 0x40 == epPort s i))

/-- Sessions with entries that a write changes close. -/
def closeChanged (s0 s : State) : State :=
  allEps.foldl (fun x i => if epEntry s0 i != epEntry s i && (getB x i).phase != 0 then mgrGone (setB x i {}) i else x) s

/-- ENDPOINT_TABLE_WRITE: the whole table (R481). -/
def epTableWrite (s : State) (b : List Byte) : State × Nat :=
  if unsealed s then (s, stState)
  else if b.length != 4096 then (s, stLength)
  else
    let es := epEntries b
    if es.any (fun e => epEntryBad e false) || epTwice es || (List.range 64).any (fun i => epInUse s i && epEntry s i != lslice b (64 * i) 64) then
      (s, stRange)
    else (closeChanged s { s with doms := tset s.doms (okey 0x2051 1) b }, stOk)

/-- The management entries (R482). -/
def mgmtEntriesBad (b : List Byte) : Bool := b.length > 256 || b.length % 64 != 0 || (epEntries b).any (fun e => epEntryBad e true)

/-- ROLE_RETIRE (R534). -/
def roleRetire (s : State) (v : Nat) : State × Nat :=
  if v != 1 then (s, stRange)
  else if oget s 0x5800 1 < 2 then (s, stState)
  else (raise (retireRole (allStreams.foldl (fun s p => abortStream s p.1 p.2) s)) 0x111B [], stOk)

/-- The payload of a request that passed Table 14-8 goes to its owner. -/
def guardedOwner (s : State) (idx sub : Nat) (pl : List Byte) : State × Nat :=
  match idx, sub with
  | 0x2031, 1 => planWrite s pl
  | 0x2051, 1 => epTableWrite s pl
  | 0x2062, 7 => roleRetire s (leNat pl)
  | 0x5820, 1 => orderWrite s pl
  | 0x6010, 2 => jobRelease s
  | 0x6031, 1 => activate s (leNat pl)
  | _, _ => jobStartWrite s idx sub (leNat pl)

/-! Signed requests (R424-R427). -/

/-- The descriptor of a guarded object. -/
def guardedDesc (idx sub : Nat) : Option ODesc :=
  match objDesc idx sub with
  | some d => if d.acc == .g then some d else none
  | none => none

/-- The payload length that a request's object takes. -/
def reqLenOk (idx sub len : Nat) : Bool :=
  if idx == 0x6010 && sub == 2 then len == 0
  else 1 ≤ len && len ≤ 65536 && (match guardedDesc idx sub with
    | some d => d.ty == .dom || len == d.ty.size
    | none => true)

/-- The first check of Table 14-8 that fails, 0 for none. -/
def reqCheck (s : State) (idx sub : Nat) (b : List Byte) : Nat :=
  let len := fieldLe b 12 4
  let i := fieldLe b 8 2
  let j := fieldLe b 10 1
  if b.length < 128 || fieldLe b 0 4 != 0x51534C52 || fieldLe b 4 2 != 1 || !zeroIn b 6 2 || !zeroIn b 11 1 || !zeroIn b 96 32 ||
      b.length != 192 + len || !reqLenOk i j len then 1
  else match s.lock.jok with
    | none => 2
    | some jok =>
      if lslice b 64 32 != sha256 jok then 3
      else if fieldLe b 16 8 != oget s 0x5801 1 then 4
      else if lslice b 32 32 != idDigest s && !zeroIn b 32 32 then 5
      else if (guardedDesc i j).isNone || i != idx || j != sub then 6
      else if !ecdsaOk jok (b.take (128 + len)) (lslice b (128 + len) 64) then 7
      else if !s.lock.lastReq.isEmpty && (fieldLe b 24 8 < oget s 0x6010 4 || (fieldLe b 24 8 == oget s 0x6010 4 && b != s.lock.lastReq)) then 8
      else 0

/-- A refused request (R427): logged, its event, and a plan's or order's own refusal. -/
def reqRefused (s : State) (idx sub r : Nat) (b : List Byte) : State :=
  let s1 := raise (logRefusal s 1 r idx) 0x0810 ([r, 0] ++ pb (fieldLe b 8 2) 2 ++ [fieldLe b 10 1])
  let pl := b.drop 128
  if idx == 0x2031 && sub == 1 then refusePlan s1 1 (fieldLe pl 4 8)
  else if idx == 0x5820 && sub == 1 then refuseOrder s1 1 (fieldLe pl 4 4)
  else s1

/-- A signed request that a segmented transfer has delivered to a guarded object; the status of its answer. -/
def signedRequest (s : State) (idx sub : Nat) (b : List Byte) : State × Nat :=
  match reqCheck s idx sub b with
  | 0 =>
    if s.lock.lastReq == b then (s, stOk)
    else
      let (s1, st) := guardedOwner s idx sub (lslice b 128 (fieldLe b 12 4))
      if st == stOk then (oset { s1 with lock := { s1.lock with lastReq := b } } 0x6010 4 (fieldLe b 24 8), st) else (s1, st)
  | r => (reqRefused s idx sub r b, stSignature)

/-! Debug tokens (R431-R433). -/

/-- A new challenge from the DRBG. -/
def newChallenge (s : State) : State :=
  let (n, s1) := drbgBytes s 32
  { s1 with lock := { s1.lock with challenge := n } }

/-- The first check of a token that fails, 0 for none. -/
def tokenCheck (s : State) (t : List Byte) : Nat :=
  if t.length != 200 || fieldLe t 0 4 != 0x47444C52 || fieldLe t 4 2 != 1 || fieldLe t 6 1 < 1 || fieldLe t 6 1 > 2 || !zeroIn t 7 1 then 1
  else if lslice t 8 32 != idDigest s then 2
  else if lslice t 40 32 != s.lock.challenge then 3
  else if sha256 (lslice t 72 64) != Config.debugKey then 4
  else if !ecdsaOk (lslice t 72 64) (t.take 136) (lslice t 136 64) then 5
  else 0

/-- Every port retrains and its link keys go. -/
def retrainAll (s : State) : State :=
  (List.range 32).foldl (fun s p =>
    let s1 := modPort (dropRxGroups s p) p (fun x => { x with keyTx := [], keyRx := [] })
    if portState s p == 0 || portState s p == 4 then s1 else retrain s1 p) s

/-- DEBUG_TOKEN: an accepted one takes effect at once, in any step state. -/
def debugToken (s : State) (t : List Byte) : State × Nat :=
  match tokenCheck s t with
  | 0 =>
    let s1 := allStreams.foldl (fun s p => abortStream s p.1 p.2) s
    let s2 := { s1 with lock := { s1.lock with jok := none, jsk := [], lastReq := [], planSeq := none, debug := fieldLe t 6 1,
                                               unlocks := s1.lock.unlocks + 1 }, ssess := [], ide := [] }
    let s3 := oset (oset (oset s2 0x5801 1 0) 0x6010 4 0) 0x2040 8 0
    let s4 := oset (retrainAll (dropPlan s3)) 0x5800 1 0
    (newChallenge (raise s4 0x0819 []), stOk)
  | r => (newChallenge (raise (logRefusal s 4 r 0x6040) 0x081A []), stSignature)

end Sys2Proof.Machine
end

