-- ==== Sys2Proof/Machine/Service.lean ====
section
/-! DEFINITION. The person at the tray (R531-R539): the service button, the drain request, the tray latch, removal, the LED. -/
namespace Sys2Proof.Machine

/-- The boot has failed (R530). -/
def bootFailed (s : State) : Bool := oget s 0x2060 3 != 0

/-- R537: safe to remove. -/
def isSafe (s : State) : Bool :=
  bootFailed s || s.alm.tripped ||
    (isReady s && oget s 0x5800 1 ≤ 1 && (oget s 0x5800 3 == 0 || oget s 0x5800 3 == 3) &&
      s.fronts.all (fun f => f.kind == 0) && !s.holding)

/-- SVC_SAFE when the device becomes safe. -/
def raiseSafe (s : State) : State :=
  if isSafe s == s.board.safe then s
  else
    let s1 := { s with board := { s.board with safe := isSafe s } }
    if isSafe s then raise s1 0x1115 [] else s1

/-! The service LED (R538, R539). -/

/-- Row of Table 18-11 in force. -/
def ledRow (s : State) : Nat :=
  if bootFailed s || s.alm.tripped then 1
  else if s.board.btn == 2 || s.board.btn == 3 then 2
  else if s.board.identify then 3
  else if oget s 0x2062 1 != 0 then 4
  else if isSafe s then 5
  else if (List.range 32).any (fun p => portState s p == 5 && (oget s (portIdx p) 4 == 1 || oget s (portIdx p) 4 == 2)) then 6
  else 7

/-- The port whose number the LED shows in row 6 (R286). -/
def ledPort (s : State) : Option Nat :=
  let q (r : Nat) : Option Nat := (List.range 32).find? (fun p => portState s p == 5 && oget s (portIdx p) 4 == r)
  match q 2 with
  | some p => some p
  | none => q 1

/-- The colours of the LED. -/
inductive Light
  | dark
  | amber
  | blue
  deriving DecidableEq, Repr

/-- One cycle of port p's pattern: colours with their times in ms. -/
def portBlinks (p : Nat) : List (Light × Nat) :=
  (List.replicate (p / 10 + 1) [(.amber, 600), (.dark, 400)]).flatten ++ (.dark, 1000) ::
    ((List.replicate (p % 10 + 1) [(.amber, 200), (.dark, 300)]).flatten ++ [(.dark, 3000)])

/-- The time of a cycle, in ns (R2). -/
def blinkTime (l : List (Light × Nat)) : Nat := 1000000 * (l.map (fun x => x.2)).sum

/-- The pattern that is on the LED: a pattern in progress finishes its cycle before another port is shown. Another row of Table 18-11
takes the LED at once. -/
def ledNext (row : Nat) (port : Option Nat) (now : Nat) : Option LedRun → Option LedRun
  | none => if row == 6 then port.map (fun p => { port := p, since := now }) else none
  | some r => match (if row == 6 then port else none) with
    | none => none
    | some p =>
      if p == r.port && r.last.isNone then some r
      else
        let t := blinkTime (portBlinks r.port)
        let e := r.last.getD (r.since + ((now - r.since) / t + 1) * t)
        if now ≥ e then some { port := p, since := e }
        else some { r with last := if p == r.port then none else some e }

/-- What the LED shows, as a cycle of colours: nothing in reset and before boot stage 1 ends. -/
def ledPattern (s : State) : List (Light × Nat) :=
  if !bootFailed s && !s.alm.tripped && oget s 0x2060 1 < 2 then [(.dark, 1)]
  else match ledRow s with
    | 1 => [(.amber, 1)]
    | 2 => if s.board.btn == 2 then [(.blue, 125), (.dark, 125)] else [(.amber, 125), (.dark, 125)]
    | 3 => [(.blue, 500), (.dark, 500)]
    | 4 => [(.blue, 125), (.dark, 125)]
    | 5 => [(.blue, 1)]
    | 6 => match s.board.led with
      | some r => portBlinks r.port
      | none => [(.dark, 1)]
    | _ => [(.dark, 1)]

/-- SVC_SAFE, and the LED. Every command that can change a condition of R537 ends with it. -/
def watchSafe (s : State) : State :=
  let s1 := raiseSafe s
  let led := ledNext (ledRow s1) (ledPort s1) s1.now s1.board.led
  if led == s1.board.led then s1 else { s1 with board := { s1.board with led := led } }

/-- The role is one that a drain moves. -/
def drainable (s : State) : Bool := oget s 0x5800 1 ≥ 2

/-- R532: a drain request: its event carries the reason and the device ID (Table 18-13), and the role of a device that has no role to
drain (assumption log 124). -/
def drainRequest (s : State) (reason : Nat) : State :=
  if drainable s then
    let s1 := raise s 0x1113 ([reason, 0] ++ pb (ownId s) 2)
    if oget s 0x2062 1 == 0 then oset { s1 with board := { s1.board with reason := reason } } 0x2062 1 1 else s1
  else raise s 0x1113 ([reason, 0] ++ pb (ownId s) 2 ++ [oget s 0x5800 1])

/-- R533: a cancel, with its result. -/
def drainCancel (s : State) : State :=
  match oget s 0x2062 1 with
  | 0 => raise s 0x1114 [2]
  | 1 => raise (oset s 0x2062 1 0) 0x1114 [1]
  | _ => raise s 0x1114 [0]

def setBtn (s : State) (b : Nat) : State := { s with board := { s.board with btn := b } }

/-- SVC_BTN_PRESS: the debounced falling edge. -/
def btnPress (s : State) : State := if s.board.btn == 0 then setBtn s 1 else s

/-- SVC_BTN_HELD: the button has been held for 3 s, or for 8 s. -/
def btnHeld (s : State) (long : Bool) : State :=
  if s.board.btn == 0 || s.board.btn == 4 then s else setBtn s (if long then 3 else max 2 s.board.btn)

/-- SVC_BUTTON_STUCK: held for more than 60 s. -/
def btnStuck (s : State) : State := if s.board.btn == 0 || s.board.btn == 4 then s else raise (setBtn s 4) 0x111A []

/-- An identify starts, by a short press or a write (R531). -/
def identify (s : State) : State := raise { s with board := { s.board with identify := true } } 0x1112 []

/-- SVC_BTN_RELEASE after t ms: the action of Table 18-10; none after more than 60 s. -/
def btnRelease (s : State) (t : Nat) : State :=
  let s1 := setBtn s 0
  if s.board.btn == 0 || s.board.btn == 4 || t > 60000 then s1
  else if t < 1000 then identify s1
  else if t < 3000 then s1
  else if t ≤ 8000 then drainRequest s1 1
  else drainCancel s1

/-- IDENTIFY_END: the 10 s are over. -/
def identifyEnd (s : State) : State := { s with board := { s.board with identify := false } }

/-- TRAY_LATCH: a debounced change (R535). -/
def trayLatch (s : State) (isOpen : Bool) : State :=
  let was := oget s 0x2062 5 == 1
  if was == isOpen then s
  else if isOpen then
    let s1 := raise (oset s 0x2062 5 1) 0x1116 []
    if drainable s1 || oget s1 0x5800 3 == 2 then drainRequest s1 2 else s1
  else
    let s1 := raise (oset s 0x2062 5 0) 0x1117 []
    if oget s1 0x2062 1 == 1 && s1.board.reason == 2 then drainCancel s1 else s1

end Sys2Proof.Machine
end

