-- ==== Sys2Proof/Machine/ObjRead.lean ====
section
/-! DEFINITION. What an object reads as (R443, R445, the object tables): stored values, values computed from the state, and
the bytes of STR and DOM objects. -/
namespace Sys2Proof.Machine

/-- A mask of the numbers below n that satisfy f. -/
def maskOf (n : Nat) (f : Nat → Bool) : Nat := (List.range n).foldl (fun v i => if f i then v + 2 ^ i else v) 0

/-- Decimal digits of a number below 10^k. -/
def decDigits : Nat → Nat → List Byte
  | 0, _ => []
  | k + 1, n => if n < 10 then [BitVec.ofNat 8 (48 + n)] else decDigits k (n / 10) ++ [BitVec.ofNat 8 (48 + n % 10)]

/-- Spare lanes of a stack in use, by channel (Table 8-9). -/
def sparesUsed (t : Tab Nat) (k : Nat) : List Nat := (List.range 32).map (fun ch => tget 0 t (32 * k + ch))

def fewestFree (l : List Nat) : Nat := 2 - l.foldl max 0

/-- Values of Tables 8-9, 9-17, 10-11, 11-1 and 18-12 that follow from the state. -/
def readDevice (s : State) (idx sub : Nat) : Nat :=
  match idx, sub with
  | 0x1018, 1 => Config.vendorId.toNat
  | 0x1018, 3 => Config.revision.toNat
  | 0x1020, 1 => maskOf 4 (fun e => (getEp s e).up)
  | 0x1020, 2 => (getEp s 0).eid
  | 0x1020, 3 => (getEp s 2).eid
  | 0x1F20, 4 => s.board.commits
  | 0x2011, 1 => (spareCells s).length
  | 0x2030, 1 => planState s
  | 0x2030, 2 => (s.plan.map (fun p => p.planId)).getD 0
  | 0x2030, 3 => ownPart s
  | 0x2030, 4 => ownId s
  | 0x2030, 5 => planShard s
  | 0x2030, 6 => (s.plan.map (fun p => p.seq)).getD 0
  | 0x2030, 7 => maskOf 32 (fun p => portState s p == 4)
  | 0x2030, 8 => maskOf 32 (fun p => portState s p == 5)
  | 0x2030, 9 => maskOf 32 (fun p => portState s p == 3)
  | 0x2040, 8 => maskOf 5 (fun i => (tget {} s.ide i).secure)
  | 0x2060, 5 => s.board.cause
  | 0x2061, 1 => s.board.supplies
  | 0x2062, 2 => b2n (isSafe s)
  | 0x2062, 3 => ledRow s
  | 0x2062, 6 => maskOf 32 (fun p => (getPort s p).pres)
  | 0x2410, 8 => (s.plan.map (fun p => p.groups.length)).getD 0
  | 0x5400, 1 => newestOpen s
  | 0x5400, 2 => (s.steps.head?.map (fun t => t.num)).getD 0
  | 0x5400, 5 => s.epoch
  | 0x5400, 9 => b2n s.holding
  | 0x5402, 3 => entrySize s
  | 0x6000, 7 => s.lock.debug
  | 0x6000, 8 => svnFloor s
  | 0x6000, 9 => Config.fusedUnlocks + s.lock.unlocks
  | 0x6030, 2 => activeSlot s
  | 0x6030, 3 => (getSlot s 0).state
  | 0x6030, 4 => (getSlot s 1).state
  | 0x6030, 5 => (getSlot s 0).ver
  | 0x6030, 6 => (getSlot s 1).ver
  | _, _ => oget s idx sub

/-- Table 13-9 but for the regulator's readings. -/
def readAlm (s : State) (sub : Nat) : Nat :=
  match sub with
  | 1 => s.alm.pstate
  | 2 => if s.alm.powers.isEmpty && !s.alm.capped then 0 else galeCauses s
  | 3 => almP100 s / 1000
  | 4 => if s.alm.powers.isEmpty then 0 else roomPct s
  | 5 => s.alm.dDev
  | 6 => s.alm.dGang
  | 7 => s.alm.frozen
  | 8 => s.alm.dGangDev
  | 9 => i32 s.alm.tjMax
  | 0x0A => if s.alm.stackT.isEmpty then 0 else i32 (((s.alm.stackT.map (fun p => p.2)).foldl max (-32768)))
  | 0x0D => b2n s.alm.capped
  | 0x0E => b2n s.alm.avsLost
  | n => oget s 0x5001 n

/-- What holds a cell's duty below 16 (Table 13-10, sub-index 05). -/
def dutyLimits (s : State) (c : Nat) : Nat :=
  let p := physOf s c
  b2n (s.alm.dDev < 16) + 2 * b2n (juncCap (tget (0, 0) s.alm.bands p).1 < 16) + 4 * b2n (stackCap (tget (0, 0) s.alm.sbands p).1 < 16) +
    8 * b2n (tget 16 s.alm.qcaps p < 16)

/-- Table 13-10 for logical cell c. -/
def readCellAlm (s : State) (c sub : Nat) : Nat :=
  match sub with
  | 1 => cellDuty s c
  | 2 => cellWeather s c
  | 3 => i32 (tget 0 s.alm.cellT (physOf s c))
  | 4 => tget 0 s.alm.cellP (physOf s c)
  | 5 => dutyLimits s c
  | n => oget s (0x3024 + 0x40 * c) n

/-- Table 8-9 for stack k. -/
def readStack (s : State) (k sub : Nat) : Nat :=
  match sub with
  | 2 => tget 0 s.scratch k
  | 3 => (sparesUsed s.hbm.used k).sum
  | 4 => fewestFree (sparesUsed s.hbm.used k)
  | n => oget s (0x4800 + 0x40 * k) n

/-- Table 15-13 for endpoint e. -/
def readEp (s : State) (e sub : Nat) : Nat :=
  match sub with
  | 1 => (getEp s e).mask
  | 2 => (getEp s e).ptr
  | 3 => min 1024 (dueRecs s (getEp s e)).length
  | n => oget s (0x1F00 + e) n

/-- The value of a fixed-size object. -/
def objRead (s : State) (idx sub : Nat) : Nat :=
  if sub == 0 then oget s idx sub
  else if 0x1F00 ≤ idx && idx < 0x1F04 then readEp s (idx - 0x1F00) sub
  else if idx == 0x2010 then physOf s (sub - 1)
  else if 0x3000 ≤ idx && idx < 0x4000 && idx % 0x40 == 0x24 then readCellAlm s ((idx - 0x3000) / 0x40) sub
  else if 0x4800 ≤ idx && idx < 0x4B00 then readStack s ((idx - 0x4800) / 0x40) sub
  else if idx == 0x5001 then readAlm s sub
  else if idx == 0x5004 then i32 (tget 0 s.alm.stackT (sub - 1))
  else if idx == 0x7021 then baroRead s sub
  else readDevice s idx sub

/-- "ROM a.b", and " PATCH v" with an active slot (0x100A). -/
def romString (s : State) : List Byte :=
  ascii "ROM " ++ decDigits 10 Config.romRelease.1.toNat ++ ascii "." ++ decDigits 10 Config.romRelease.2.toNat ++
    (if activeSlot s == 0xFF then [] else ascii " PATCH " ++ decDigits 10 (getSlot s (activeSlot s)).ver)

/-- DEK's endorsement by IDK (R413). -/
def dekEndorsement (s : State) : List Byte :=
  ecdsaSign s.lock.idk (ascii "RLM4-DEK" ++ p256Pub s.lock.dek) (Config.dekNonce % (p256n - 1) + 1)

/-- The bytes of a STR or DOM object. -/
def domRead (s : State) (idx sub : Nat) : List Byte :=
  if 0x1F00 ≤ idx && idx < 0x1F04 then (getEp s (idx - 0x1F00)).muted.flatMap (fun c => natLe c 2)
  else if 0x4000 ≤ idx && idx < 0x4400 then (getPort s ((idx - 0x4000) / 0x20)).hello.digest
  else
    match idx, sub with
    | 0x1008, 0 => ascii "RLM4-1536"
    | 0x1009, 0 => [Config.siliconRev.1, Config.siliconRev.2]
    | 0x100A, 0 => romString s
    | 0x1018, 4 => serialBytes
    | 0x1F10, 1 => s.evLog.flatMap evBytes
    | 0x2048, 1 => Config.ethMac 0
    | 0x2049, 1 => Config.ethMac 1
    | 0x2048, 6 => tget (zeros 16) s.doms (okey idx sub)
    | 0x2049, 6 => tget (zeros 16) s.doms (okey idx sub)
    | 0x2048, 7 => tget (zeros 4) s.doms (okey idx sub)
    | 0x2049, 7 => tget (zeros 4) s.doms (okey idx sub)
    | 0x2051, 1 => tget (zeros 4096) s.doms (okey idx sub)
    | 0x6000, 1 => idKey s
    | 0x6000, 2 => idDigest s
    | 0x6000, 3 => p256Pub s.lock.dek
    | 0x6000, 4 => dekEndorsement s
    | 0x6000, 5 => certChain
    | 0x6010, 3 => (match s.lock.jok with
      | some k => sha256 k
      | none => zeros 32)
    | 0x6020, 1 => s.lock.log.flatten
    | 0x6040, 1 => s.lock.challenge
    | 0x7030, 1 => s.baro.log.flatten
    | 0x7031, 3 => s.baro.quar.flatten
    | _, _ => tget [] s.doms (okey idx sub)

/-- The size of an object as DESCRIBE shows it (Table 15-5). -/
def objSize (s : State) (idx sub : Nat) (d : ODesc) : Nat :=
  match d.ty with
  | .str | .dom => (domRead s idx sub).length
  | t => t.size

/-- A default that no table states as a number: the device's own initial value (R445). -/
def objInitial (s : State) (idx sub : Nat) : Nat :=
  if idx == 0x2010 && sub != 0 then Config.factoryMap (sub - 1)
  else if 0x4800 ≤ idx && idx < 0x4B00 && (sub == 3 || sub == 4) then
    let l := sparesUsed s.hbm.first ((idx - 0x4800) / 0x40)
    if sub == 3 then l.sum else fewestFree l
  else
    match idx, sub with
    | 0x1018, 1 => Config.vendorId.toNat
    | 0x1018, 3 => Config.revision.toNat
    | 0x2011, 1 => 2 - ((List.range 66).filter (fun p => Config.factoryBad p)).length
    | 0x6000, 8 => Config.fusedSvn.val
    | 0x6000, 9 => Config.fusedUnlocks
    | _, _ => objDefault idx sub

/-- A bit pattern widened to 64 bits. -/
def wide (v : Int) : Nat := (v % 2 ^ 64).toNat

/-- The descriptor of Table 15-5. -/
def descBytes (s : State) (idx sub : Nat) (d : ODesc) : List Byte :=
  let plain := d.ty != .str && d.ty != .dom
  let dflt := if !plain then 0 else if d.ty == .i32 then wide (sInt 32 (objInitial s idx sub)) else objInitial s idx sub
  natLe d.ty.code 1 ++ natLe d.acc.code 1 ++ natLe d.kind 1 ++ natLe 0 1 ++ natLe (objSize s idx sub d) 4 ++
    natLe (if d.ranged then wide d.lo else 0) 8 ++ natLe (if d.ranged then wide d.hi else 0) 8 ++ natLe dflt 8

end Sys2Proof.Machine
end

