-- ==== Sys2Proof/Machine/ObjWrite.lean ====
section
/-! DEFINITION. What a WRITE does to an object (R440-R442, R454, R462, R463): the checks of the type and of the owning chapter,
and the effects. -/
namespace Sys2Proof.Machine

/-- The bit patterns that a type holds and the range of the object (R440). -/
def typeBad (d : ODesc) (v : Nat) : Bool :=
  let i : Int := if d.ty == .i32 then sInt 32 v else v
  (d.ty == .bool && v > 1) || (d.ranged && (i < d.lo || d.hi < i)) || (d.kind != 0 && v != 0)

/-- A span lies in HBM, on 2 MiB boundaries. -/
def hbmUnits (b n : Nat) : Bool := b % 0x200000 == 0 && n % 0x200000 == 0 && b + n ≤ hbmEnd

/-- Some two spans of a list overlap. -/
def anyOverlap : List (Nat × Nat) → Bool
  | [] => false
  | (a, n) :: t => t.any (fun p => n > 0 && p.2 > 0 && overlaps a n p.1 p.2) || anyOverlap t

def bankSpans (s : State) : List (Nat × Nat) :=
  (bankRegions s).flatMap (fun k => [(bankBase s k 0, bankSize s k), (bankBase s k 1, bankSize s k)])

def journalSpan (s : State) : List (Nat × Nat) := if s.hasJournal then [(journalBase s, 2 * entrySize s)] else []

def singleSpans (s : State) : List (Nat × Nat) := (singles s).map (fun k => (singleBase s k, singleSize s k))

/-- Bytes of the mirror layout (R354). -/
def mirrorLen (s : State) : Nat := ((mirrorParts s).map (fun p => p.2)).sum

/-- A step entry is HASHING, POSTED or IN_USE (R325). -/
def entriesBusy (s : State) : Bool := [0, 1].any (fun p => (getJr s p).estate != 0)

/-- The state after the value stands, for the tests of what it then describes. -/
def withObj (s : State) (idx sub v : Nat) : State :=
  let s1 := oset s idx sub v
  if idx == 0x5402 && sub == 1 then { s1 with hasJournal := true } else s1

/-- The owning chapter's answer to a value that its type holds (R454): a status, 0 to accept. -/
def ownerCheck (s : State) (idx sub v : Nat) : Nat :=
  let t := withObj s idx sub v
  if idx == 0x1011 then (if v == 0x53464544 then stOk else stRange)
  else if 0x1F00 ≤ idx && idx < 0x1F04 && sub == 1 then (if v < 2 ^ 11 then stOk else stRange)
  else if idx == 0x2062 then (if v == 1 then stOk else stRange)
  else if 0x4000 ≤ idx && idx < 0x4400 && sub == 1 then
    (if v % 8 == v && (idx ≥ 0x4380 || v % 2 == 0) then stOk else stRange)
  else if 0x4800 ≤ idx && idx < 0x4B00 && sub == 1 then (if v % 64 == 0 then stOk else stRange)
  else if idx == 0x5402 then
    (if entriesBusy s then stState
     else if hbmUnits (journalBase t) (2 * entrySize t) && oget t 0x5402 2 ≥ 2 && oget t 0x5402 2 % 2 == 0 && oget t 0x5402 2 ≤ 16384 &&
         (!t.hasJournal || (bankSpans s).all (fun p => !overlaps p.1 p.2 (journalBase t) (2 * entrySize t))) then stOk else stRange)
  else if idx == 0x5410 then
    (if unsealed s then stState
     else
       let k := (sub - 1) / 3
       if hbmUnits (bankBase t k 0) (bankSize t k) && hbmUnits (bankBase t k 1) (bankSize t k) && !anyOverlap (bankSpans t ++ journalSpan t)
       then stOk else stRange)
  else if idx == 0x5801 && (sub == 3 || sub == 4) then
    (if unsealed s then stRange
     else
       let b := oget t 0x5801 3
       let n := oget t 0x5801 4
       if b % 0x200000 == 0 && b + n ≤ hbmEnd && (sub != 4 || n == 0 || n ≥ mirrorLen s) && (sub != 3 || n == 0 || n ≥ mirrorLen s) &&
         (bankSpans s ++ singleSpans s ++ journalSpan s).all (fun p => !overlaps b n p.1 p.2) then stOk else stRange)
  else if idx == 0x5801 || idx == 0x5802 || idx == 0x5803 then
    (if unsealed s then stState
     else if idx == 0x5802 then (if v ≤ 5 then stOk else stRange)
     else if idx == 0x5803 then
       (let k := (sub - 1) / 3
        if hbmUnits (singleBase t k) (singleSize t k) && singleFlags t k ≤ 3 then stOk else stRange)
     else stOk)
  else if idx == 0x6031 then (if v ≤ 1 then stOk else stRange)
  else stOk

/-- The scratch share of a stack: at the next seal, or at once while no step is open (R233). -/
def scratchWrite (s : State) (k v : Nat) : State :=
  let s1 := oset s (0x4800 + 0x40 * k) 1 v
  if stepOpen s then { s1 with ldg := { s1.ldg with qScr := tset s1.ldg.qScr k v } } else setScratch s1 k v

/-- Every event pointer returns to 0 (R466). -/
def clearPtrs (s : State) : State :=
  (List.range 4).foldl (fun s e => setEp s e { getEp s e with ptr := 0, unacked := [], lostRun := false }) s

/-- An accepted value takes its place, with what goes with it. -/
def applyValue (s : State) (idx sub v : Nat) : State :=
  if idx == 0x1011 then { s with board := { s.board with defaults := true } }
  else if 0x1F00 ≤ idx && idx < 0x1F04 && sub == 1 then
    (let e := idx - 0x1F00
     notifyEp (setEp s e { getEp s e with mask := v }) e (!(dueRecs s (getEp s e)).isEmpty))
  else if idx == 0x1F10 then clearPtrs (oset s idx sub v)
  else if idx == 0x2062 then identify s
  else if 0x4800 ≤ idx && idx < 0x4B00 && sub == 1 then scratchWrite s ((idx - 0x4800) / 0x40) v
  else if idx == 0x5000 && sub == 7 then (let s1 := oset s idx sub v; { s1 with alm := { s1.alm with mvDue := true } })
  else if idx == 0x2041 then flushVecs (withObj s idx sub v)
  else if idx == 0x5000 && sub == 3 then dutyFall (oset s idx sub v)
  else if idx == 0x5800 && sub == 6 then oset (oset s idx 6 0) idx 7 0
  else withObj s idx sub v

/-- A commit succeeds: as the command says, else by a free value (R462, assumption log 155). -/
def commitOk (s : State) (ok : Option Bool) : Bool := ok.getD (!Config.commitFails s.free)

/-- A commit that fails leaves the object as it is. -/
def commitFailed (s : State) (idx sub : Nat) : State × Nat := (raise { s with free := s.free + 1 } 0x0712 (pb idx 2 ++ [sub]), stPersist)

/-- R462: an RWP value is committed before it is answered. -/
def persistObj (s : State) (idx sub v : Nat) : State :=
  { s with free := s.free + 1, board := { s.board with rwp := tset s.board.rwp (okey idx sub) v, commits := s.board.commits + 1 } }

/-- An ordinary WRITE to a guarded object is one to an RW object (R442): the activation request, without a job key. -/
def openGuard (s : State) (idx sub : Nat) : Bool :=
  s.lock.jok.isNone && sub == 1 && (idx == 0x6031 || idx == 0x2051)

/-- The object is kept across power cycles. -/
def isRwp (idx sub : Nat) : Bool :=
  match objDesc idx sub with
  | some d => d.acc == .rwp
  | none => false

/-- Why a WRITE is refused before its object's owner sees it, 0 when it is not (R440-R442). -/
def writeCheck (s : State) (idx sub : Nat) (bs : List Byte) : Nat :=
  match objDesc idx sub with
  | none => stNoObject
  | some d =>
    if d.acc == .const || d.acc == .ro then stAccess
    else if d.acc == .g && !openGuard s idx sub then stSignature
    else if d.ty == .dom || d.ty == .str then stType
    else if bs.length != d.ty.size then stLength
    else if typeBad d (leNat bs) then stRange
    else stOk

/-- WRITE: the status of its answer. `ok`: how the commit of an RWP value ends, where the command says (R462). -/
def objWrite (s : State) (idx sub : Nat) (bs : List Byte) (ok : Option Bool) : State × Nat :=
  let v := leNat bs
  match writeCheck s idx sub bs with
  | 6 => (logRefusal s 1 1 idx, stSignature)
  | 0 =>
    if idx == 0x6031 then (if v ≤ 1 then activate s v else (s, stRange))
    else
      (match ownerCheck s idx sub v with
       | 0 =>
         if isRwp idx sub then (if commitOk s ok then (applyValue (persistObj s idx sub v) idx sub v, stOk) else commitFailed s idx sub)
         else (applyValue s idx sub v, stOk)
       | st => (s, st))
  | st => (s, st)

/-- RWP DOM objects are committed as bytes (R462). -/
def persistDom (s : State) (idx sub : Nat) (bs : List Byte) : State :=
  { s with free := s.free + 1, doms := tset s.doms (okey idx sub) bs,
           board := { s.board with rwpDom := tset s.board.rwpDom (okey idx sub) bs, commits := s.board.commits + 1 } }

/-- The codes of a run of bytes. -/
def codes16 : List Byte → List Nat
  | a :: b :: t => leNat [a, b] :: codes16 t
  | _ => []

/-- The owner of a DOM or guarded object takes the whole value of a completed transfer (R450); the status of its answer. -/
def domWrite (s : State) (idx sub : Nat) (b : List Byte) (ok : Option Bool) : State × Nat :=
  if idx == 0x2051 && sub == 1 && s.lock.jok.isNone then epTableWrite s b
  else if (guardedDesc idx sub).isSome then signedRequest s idx sub b
  else if idx == 0x6010 then jobRegister s b
  else if idx == 0x6030 then (let (s1, ok) := patchImage s b; (s1, if ok then stOk else stRange))
  else if idx == 0x6040 then debugToken s b
  else if idx == 0x2051 then
    (if b.length > 256 || b.length % 64 != 0 then (s, stLength)
     else if mgmtEntriesBad b then (s, stRange)
     else if commitOk s ok then (closeChanged s (persistDom s idx sub b), stOk) else commitFailed s idx sub)
  else if idx == 0x2048 || idx == 0x2049 then
    (if b.length != (if sub == 6 then 16 else 4) then (s, stLength)
     else if commitOk s ok then (persistDom s idx sub b, stOk) else commitFailed s idx sub)
  else if 0x1F00 ≤ idx && idx < 0x1F04 then
    (if b.length > 32 || b.length % 2 != 0 then (s, stLength)
     else
       let e := idx - 0x1F00
       (notifyEp (setEp s e { getEp s e with muted := codes16 b }) e (!(dueRecs s (getEp s e)).isEmpty), stOk))
  else (s, stAccess)

end Sys2Proof.Machine
end

