-- ==== Sys2Proof/Machine/Dictionary.lean ====
section
/-! DEFINITION. The dictionary's messages (R439, R443-R455, R459, R464): requests, answers, segmented transfers, event reading, and
the Steward's restart. -/
namespace Sys2Proof.Machine

/-- What a request is answered with. -/
structure Ans where
  st   : Nat := 0
  idx  : Nat := 0
  sub  : Nat := 0
  off  : Nat := 0
  sat  : Bool := false
  data : List Byte := []
  deriving DecidableEq, Repr

/-- The answer leaves: counted (0x1F20), and for the host window placed in the response buffer (R464). -/
def answer (s : State) (ep op tag : Nat) (a : Ans) : State :=
  let bs := dictHdr op tag a.st a.idx a.sub (if a.sat then 5 else 1) a.off a.data.length ++ a.data
  let s1 := bumpPerf s 0x1F20 1 1
  let s2 := if a.st == stOk then s1 else bumpErr s1 0x1F20 2 1 0x0714
  if ep == 1 then { s2 with host := { s2.host with rspBuf := bs, done := true, status := a.st } } else emitDict s2 ep bs

/-- An answer of a request's own object. -/
def ansOf (d : DReq) (st : Nat) : Ans := { st := st, idx := d.idx, sub := d.sub }

/-- Operations of Table 15-4 that a request may name. -/
def opCodes : List Nat := [0x01, 0x02, 0x03, 0x04, 0x10, 0x11, 0x13, 0x14, 0x1F, 0x20, 0x21, 0x22]

/-- The payload length that an operation allows (R444, Table 15-4). -/
def opLenOk (op n : Nat) : Bool :=
  if op == 0x02 then n ≤ 1024
  else if op == 0x10 || op == 0x14 then n == 4
  else if op == 0x11 then 1 ≤ n && n ≤ 1024
  else if op == 0x20 then 2 ≤ n && n ≤ 34 && n % 2 == 0
  else if op == 0x21 then n == 1
  else if op == 0x22 then n == 8
  else n == 0

/-- A request is malformed (R444). -/
def reqBad (op : Nat) (d : DReq) : Bool :=
  !opCodes.contains op || d.flags != 0 || (d.off != 0 && op != 0x11 && op != 0x14) || !opLenOk op d.len || d.data.length != d.len ||
    ((op == 0x20 || op == 0x22) && (d.idx != 0 || d.sub != 0))

/-- READ. -/
def readReq (s : State) (d : DReq) : Ans :=
  match objDesc d.idx d.sub with
  | none => ansOf d stNoObject
  | some o =>
    if o.acc == .wo || (o.acc == .g && o.ty == .dom) then ansOf d stAccess
    else if o.ty == .dom then ansOf d stType
    else if o.ty == .str then { ansOf d stOk with data := domRead s d.idx d.sub }
    else
      let v := objRead s d.idx d.sub
      { ansOf d stOk with data := natLe v o.ty.size, sat := o.kind == 2 && v == 0xFFFFFFFF }

/-- DESCRIBE. -/
def describeReq (s : State) (d : DReq) : Ans :=
  match objDesc d.idx d.sub with
  | none => ansOf d stNoObject
  | some o => { ansOf d stOk with data := descBytes s d.idx d.sub o }

/-- NEXT. -/
def nextReq (d : DReq) : Ans :=
  let n := objNext d.idx d.sub
  { st := stOk, idx := n.1, sub := n.2 }

/-! Segmented transfers (R448-R452). -/

/-- The largest value that a transfer may carry to an object: a signed request, an object of a stated length (Tables 15-13, 16-11), or a
patch image; a record whose length its own check tests (R558, R432) may be as long as an image. -/
def xferMax (idx sub : Nat) (a : Acc) : Nat :=
  if a == .g then 128 + 65536 + 64
  else if 0x1F00 ≤ idx && idx < 0x1F04 then 32
  else if idx == 0x2051 then 256
  else if idx == 0x2048 || idx == 0x2049 then (if sub == 6 then 16 else 4)
  else 1048576

/-- Some endpoint has a write transfer open to an object. -/
def xwOpen (s : State) (key : Nat) : Bool := (List.range 4).any (fun e => (getEp s e).xw.any (fun x => x.1 == key))

/-- The whole value goes to its owner. -/
def xwDone (s : State) (d : DReq) (b : List Byte) (ok : Option Bool) : State × Ans :=
  let (s1, st) := domWrite s d.idx d.sub b ok
  (s1, ansOf d st)

/-- XW_START. -/
def xwStart (s : State) (ep : Nat) (d : DReq) (ok : Option Bool) : State × Ans :=
  let total := leNat d.data
  let key := okey d.idx d.sub
  match objDesc d.idx d.sub with
  | none => (s, ansOf d stNoObject)
  | some o =>
    if o.acc == .const || o.acc == .ro then (s, ansOf d stAccess)
    else if o.ty != .dom && o.acc != .g then (s, ansOf d stType)
    else if total > xferMax d.idx d.sub o.acc then (s, ansOf d stLength)
    else if (getEp s ep).xw.isSome then (s, ansOf d stBusy)
    else if key == okey 0x6030 1 && patchBusy s then (s, ansOf d stState)
    else if xwOpen s key then (s, ansOf d stBusy)
    else
      let s1 := if key == okey 0x6030 1 then patchBegin s else s
      if total == 0 then xwDone s1 d [] ok
      else (setEp s1 ep { getEp s1 ep with xw := some (key, total, []) }, ansOf d stOk)

/-- XW_SEG. -/
def xwSeg (s : State) (ep : Nat) (d : DReq) (ok : Option Bool) : State × Ans :=
  let x := getEp s ep
  match x.xw with
  | none => (s, ansOf d stXferNone)
  | some (key, total, got) =>
    if key != okey d.idx d.sub then (s, ansOf d stXferNone)
    else if d.off == got.length then
      (if d.off + d.len > total then (xferAborted (setEp s ep { x with xw := none }) ep key 4, ansOf d stLength)
       else if d.off + d.len == total then xwDone (setEp s ep { x with xw := none }) d (got ++ d.data) ok
       else (setEp s ep { x with xw := some (key, total, got ++ d.data) }, ansOf d stOk))
    else if d.off + d.len ≤ got.length then (s, ansOf d stOk)
    else (s, { ansOf d stXferOrder with off := got.length })

/-- XR_START. -/
def xrStart (s : State) (ep : Nat) (d : DReq) : State × Ans :=
  match objDesc d.idx d.sub with
  | none => (s, ansOf d stNoObject)
  | some o =>
    if o.acc == .wo || (o.acc == .g && o.ty == .dom) then (s, ansOf d stAccess)
    else if o.ty != .dom then (s, ansOf d stType)
    else
      let b := domRead s d.idx d.sub
      (setEp s ep { getEp s ep with xr := some (okey d.idx d.sub, b) }, { ansOf d stOk with data := natLe b.length 4 })

/-- XR_SEG. -/
def xrSeg (s : State) (ep : Nat) (d : DReq) : State × Ans :=
  let x := getEp s ep
  let n := leNat d.data
  match x.xr with
  | none => (s, ansOf d stXferNone)
  | some (key, b) =>
    if key != okey d.idx d.sub then (s, ansOf d stXferNone)
    else if n == 0 || n > 1024 || d.off + n > b.length then (s, ansOf d stLength)
    else
      (if d.off + n == b.length then setEp s ep { x with xr := none } else s,
       { ansOf d stOk with off := d.off, data := lslice b d.off n })

/-- XABORT. -/
def xAbort (s : State) (ep : Nat) (d : DReq) : State × Ans :=
  let key := okey d.idx d.sub
  let x := getEp s ep
  let w := x.xw.any (fun t => t.1 == key)
  let r := x.xr.any (fun t => t.1 == key)
  if !w && !r then (s, ansOf d (if (objDesc d.idx d.sub).isSome then stXferNone else stNoObject))
  else
    let s1 := setEp s ep { x with xw := if w then none else x.xw, xr := if r then none else x.xr }
    (bumpErr (if w then loadAborted s1 key else s1) 0x1F20 3 (b2n w + b2n r) 0x0714, ansOf d stOk)

/-- TRANSFER_TIMEOUT: no segment has come for the transfer timeout (R452). -/
def transferTimeout (s : State) (ep : Nat) (write : Bool) : State :=
  let x := getEp s ep
  if write then
    (match x.xw with
     | some (k, _, _) => xferAborted (setEp s ep { x with xw := none }) ep k 1
     | none => s)
  else
    match x.xr with
    | some (k, _) => xferAborted (setEp s ep { x with xr := none }) ep k 1
    | none => s

/-! Events (R459, R460). -/

/-- SUBSCRIBE. -/
def subscribe (s : State) (ep : Nat) (d : DReq) : State × Ans :=
  let m := leNat (d.data.take 2)
  if m ≥ 2 ^ 11 then (s, ansOf d stRange)
  else
    let x := getEp s ep
    (notifyEp (setEp s ep { x with mask := m, muted := codes16 (d.data.drop 2) }) ep (!(dueRecs s x).isEmpty), ansOf d stOk)

/-- EVREAD. -/
def evRead (s : State) (ep : Nat) (d : DReq) : Ans :=
  let n := leNat d.data
  if n < 1 || n > 16 then ansOf d stRange
  else { ansOf d stOk with data := ((dueRecs s (getEp s ep)).take n).flatMap evBytes }

/-- SEQ of the newest record. -/
def newestSeq (s : State) : Nat := (s.evLog.getLast?.map (fun r => r.seq)).getD 0

/-- EVACK: the pointer passes every record up to a number; NOTIFYs that waited for room leave. -/
def evAck (s : State) (ep : Nat) (d : DReq) : State × Ans :=
  let x := getEp s ep
  let p := max x.ptr (min (leNat d.data) (newestSeq s) + 1)
  let y := { x with ptr := p, lostRun := if p > x.ptr then false else x.lostRun }
  (notifyEp (setEp s ep { y with unacked := x.unacked.filter (fun n => p ≤ n) }) ep true, ansOf d stOk)

/-! Requests. -/

/-- Handles a whole request (R453): the state, and the answer. `ok`: how a commit ends, where the command says (R462). -/
def handleReq (s : State) (ep op : Nat) (d : DReq) (ok : Option Bool) : State × Ans :=
  if reqBad op d then (s, ansOf d stMalformed)
  else
    match op with
    | 0x01 => (s, readReq s d)
    | 0x02 => (let (s1, st) := objWrite s d.idx d.sub d.data ok; (s1, ansOf d st))
    | 0x03 => (s, describeReq s d)
    | 0x04 => (s, nextReq d)
    | 0x10 => xwStart s ep d ok
    | 0x11 => xwSeg s ep d ok
    | 0x13 => xrStart s ep d
    | 0x14 => xrSeg s ep d
    | 0x1F => xAbort s ep d
    | 0x20 => subscribe s ep d
    | 0x21 => (s, evRead s ep d)
    | _ => evAck s ep d

/-- Handles a request and answers it. -/
def serve (s : State) (ep op : Nat) (d : DReq) (ok : Option Bool) : State :=
  let (s1, a) := handleReq s ep op d ok
  answer s1 ep op d.tag a

/-- A whole value has come by segments to an object, or in a WRITE where the object is an ordinary one: its last message, with the
tag given, is handled. An image for a slot that may not be loaded is refused as its transfer would be (R418, R454). -/
def wholeDo (s : State) (ep tag idx sub : Nat) (b : List Byte) : State :=
  if idx == 0x6031 && openGuard s idx sub then serve s ep 0x02 { tag := tag, idx := idx, sub := sub, len := b.length, data := b } none
  else if idx == 0x6030 && patchBusy s then answer s ep 0x11 tag { st := stState, idx := idx, sub := sub }
  else
    let (s1, st) := domWrite s idx sub b none
    answer s1 ep 0x11 tag { st := st, idx := idx, sub := sub }

/-- A message that waited: operation 0x111 stands for the last segment of a whole value. -/
def serveWait (s : State) (ep op : Nat) (d : DReq) (ok : Option Bool) : State :=
  if op == 0x111 then wholeDo s ep d.tag d.idx d.sub d.data else serve s ep op d ok

/-- Requests that wait are handled in their order until one activates an image (R420). -/
def serveWaits : Nat → State → State
  | 0, s => s
  | n + 1, s =>
    match s.lock.running, s.lock.waits with
    | none, (ep, op, d, ok) :: t =>
      let x := getEp s ep
      let s1 := setEp { s with lock := { s.lock with waits := t } } ep { x with awaiting := x.awaiting - 1 }
      serveWaits n (serveWait s1 ep op d ok)
    | _, _ => s

/-- A request of an endpoint that is up: handled at once, kept while a self-check is awaited, or answered with BUSY (R420, R447). -/
def dictReq (s : State) (ep op : Nat) (d : DReq) (ok : Option Bool) : State :=
  let x := getEp s ep
  if ep > 3 || !x.up then s
  else if s.lock.running.isNone then serve s ep op d ok
  else if x.awaiting ≥ 8 then answer s ep op d.tag (ansOf d stBusy)
  else
    setEp { s with lock := { s.lock with waits := s.lock.waits ++ [(ep, op, d, ok)] } } ep { x with awaiting := x.awaiting + 1 }

/-- A whole value for an endpoint that is up, under the same rule. -/
def wholeReq (s : State) (ep tag idx sub : Nat) (b : List Byte) : State :=
  let x := getEp s ep
  if ep > 3 || !x.up then s
  else if s.lock.running.isNone then wholeDo s ep tag idx sub b
  else if x.awaiting ≥ 8 then answer s ep 0x11 tag { st := stBusy, idx := idx, sub := sub }
  else
    let d : DReq := { tag := tag, idx := idx, sub := sub, len := b.length, data := b }
    setEp { s with lock := { s.lock with waits := s.lock.waits ++ [(ep, 0x111, d, none)] } } ep { x with awaiting := x.awaiting + 1 }

/-- The bytes of a message: its operation and fields; a wrong VER or STATUS makes the flags nonzero, so that it is malformed. -/
def parseReq (b : List Byte) : Nat × DReq :=
  let bad := b.length < 16 || fieldLe b 0 1 != 1 || fieldLe b 3 1 != 0
  (fieldLe b 1 1, { tag := fieldLe b 2 1, idx := fieldLe b 4 2, sub := fieldLe b 6 1, flags := if bad then 0x100 else fieldLe b 7 1,
                    off := fieldLe b 8 4, len := fieldLe b 12 4, data := b.drop 16 })

/-- A message as its bytes came. -/
def dictMsg (s : State) (ep : Nat) (b : List Byte) : State :=
  let (op, d) := parseReq b
  dictReq s ep op d none

/-- Endpoint 3's messages (R446). -/
def mgmtMsg (s : State) (b : List Byte) : State := dictMsg s 3 b

/-- The request buffer's bytes. -/
def reqBytes (s : State) : List Byte := (List.range 512).flatMap (fun i => natLe (tget 0 s.host.reqBuf i) 8)

/-- DICT_GO: the message in the request buffer goes to the Steward as endpoint 1; without effect while BUSY (R464). -/
def dictGo (s : State) : State :=
  if !(getEp s 1).up || s.lock.waits.any (fun w => w.1 == 1) then s
  else
    let b := reqBytes s
    dictMsg { s with host := { s.host with done := false } } 1 (b.take (16 + min (fieldLe b 12 4) 4080))

/-! The Steward (R420, R439). -/

/-- PATCH_SELF_CHECK: the image has reported, or has not within 10 ms; then what waited is served. -/
def patchSelfCheck (s : State) (ok : Bool) : State :=
  match s.lock.running with
  | none => s
  | some k =>
    let s1 := { s with lock := { s.lock with running := none } }
    serveWaits (s1.lock.waits.length) (if ok then patchPassed s1 k else patchFailed s1 k)

/-- STEWARD_WATCHDOG: open transfers are aborted; a seal's actions or an order's application that it interrupted is a device
fault. -/
def stewardRestart (s : State) (cut : Bool) : State :=
  let s1 := (List.range 4).foldl (fun s e => abortXfers s e 2) s
  let s2 := raise s1 0x0713 []
  if cut then deviceFault s2 else s2

end Sys2Proof.Machine
end

