-- ==== Sys2Proof/Machine/Host.lean ====
section
/-! DEFINITION. The host link (R468-R479, R494): accesses to the BARs, configuration space, the link and its resets, and the MCTP
endpoint IDs (R446, R447). -/
namespace Sys2Proof.Machine

/-- A request is answered with Unsupported Request, or dropped, and counted (R471, R478, R479). -/
def refuseBar (s : State) : State := bumpErr s 0x2040 6 1 0x1019

/-- An error of an AER class is reported (Table 16-6). -/
def aerSet (s : State) (cls : Nat) : State := { s with host := { s.host with aer := insertAsc cls s.host.aer } }

/-- A read that finds nothing is answered; a write is not. -/
def refuseRead (s : State) (read : Bool) : State := if read then emit (refuseBar s) (.cpl 1 []) else refuseBar s

/-- A TLP fails its IDE integrity check: dropped, and its stream is Insecure (R478). -/
def ideFailed (s : State) (i : Nat) : State :=
  refuseBar (raise { s with ide := tset s.ide i { tget {} s.ide i with secure := false } } 0x1012 [])

/-- A request arrives in a Secure stream: its TLP says so, and some stream is Secure (R478). -/
def inSecure (s : State) (secure : Bool) : Bool := secure && s.ide.any (fun p => p.2.secure)

/-- A request to a BAR goes to f when it arrives well, the function answers, IDE allows it (R478) and, outside the global block,
the device is READY (R529). -/
def barGate (s : State) (src : Src) (read ready : Bool) (f : State → State) : State :=
  match src with
  | .carter => if isReady s then f s else s
  | .host secure tlp =>
    if !s.board.pcieUp then s
    else
      let ok := !(oget s 0x2041 1 == 1 && !inSecure s secure) && !s.host.d3 && (!ready || isReady s)
      match tlp with
      | .malformed => refuseBar (aerSet s 2)
      | .ideFail i => ideFailed s i
      | .poisoned => if ok && read then f s else refuseRead (if read then s else aerSet s 1) read
      | .retried =>
        let s1 := bumpErr (aerSet s 0) 0x2040 5 1 0x1019
        if ok then f s1 else refuseRead s1 read
      | .good => if ok then f s else refuseRead s read

def fromHost (src : Src) : Bool := src != .carter

/-! BAR0 (R494). -/

/-- An offset of the dictionary's request or response buffer. -/
def inDictBuf (off : Nat) : Bool := 0x2000 ≤ off && off < 0x4000

/-- An access of a size at an offset reaches a register of BAR0. -/
def bar0Mapped (off size : Nat) : Bool :=
  inBlocks off && size != 0 && off % size == 0 && (size == 4 || size == 8 || ((size == 1 || size == 2) && inDictBuf off))

/-- A write of 1 or 2 bytes to the request buffer. -/
def reqSmall (s : State) (off size v : Nat) : State :=
  let i := (off - 0x2000) / 8
  let sh := 2 ^ (8 * (off % 8))
  let old := tget 0 s.host.reqBuf i
  let new := old % sh + (v % 2 ^ (8 * size)) * sh + old / (sh * 2 ^ (8 * size)) * (sh * 2 ^ (8 * size))
  { s with host := { s.host with reqBuf := tset s.host.reqBuf i new } }

/-- The write as it reaches a register: which halves it covers. -/
def halfOf (off size v : Nat) (host : Bool) : RegW :=
  if size == 8 then { val := v % 2 ^ 64, host := host }
  else if off % 8 == 0 then { val := v % 2 ^ 32, hi := false, host := host }
  else { val := v % 2 ^ 32 * 2 ^ 32, lo := false, host := host }

/-- Offsets that only the host reaches: the dictionary window, the MSI-X table and its pending bits (R496). -/
def hostOnly (off : Nat) : Bool := (0x1000 ≤ off && off < 0x4000) || (0x10000 ≤ off && off < 0x18100)

/-- REGISTER_WRITE. -/
def registerWrite (s0 : State) (src : Src) (off size v : Nat) : State :=
  barGate s0 src false (off ≥ 0x1000000) (fun s =>
    if !bar0Mapped off size || (!fromHost src && hostOnly off) then (if fromHost src then refuseBar (aerSet s 1) else s)
    else if size < 4 then (if off < 0x3000 then reqSmall s off size v else s)
    else if off == 0x1000 then (if v % 2 == 1 then dictGo s else s)
    else regWrite s (off - off % 8) (halfOf off size v (fromHost src)))

/-- One register's write, 64 bits wide, by the host or a carter. -/
def oneReg (s0 : State) (src : Src) (ready : Bool) (f : State → RegW → State) (v : Nat) : State :=
  barGate s0 src false ready (fun s => f s { val := v % 2 ^ 64, host := fromHost src })

/-- DOORBELL (R474, R475). -/
def doorbellRow (s0 : State) (src : Src) (c k v : Nat) : State :=
  if fromHost src then barGate s0 src false true (fun s => doorbell s c k v) else s0

/-- An access finds a register, a doorbell or the window. -/
def barMapped (s : State) (bar off size : Nat) : Bool :=
  match bar with
  | 0 => bar0Mapped off size && (off < 0x1000000 || isReady s)
  | 2 => off + size ≤ 2 ^ s.host.winLog && isReady s
  | 4 => off < 0x40000 && off % 0x1000 < 0x400 && off % 0x100 == 0 && size == 4 && isReady s
  | _ => false

/-! BAR2 (R473). -/

/-- BAR2_READ: memory through the window, EP set for a poisoned word. -/
def bar2Read (s0 : State) (src : Src) (off n : Nat) : State :=
  barGate s0 src true true (fun s =>
    let a := s.host.winBase + off
    if off + n > 2 ^ s.host.winLog then refuseRead (aerSet s 1) true
    else
      let v := pendView s
      match firstPoison v a n with
      | none => emit (hbmSeen s) (.cpl 0 (memRead v a n))
      | some w => emit (raiseUncorr (hbmSeen s) w (evStep s)) (.cpl 2 (memRead v a n)))

/-- What a read of 1, 2, 4 or 8 bytes of BAR0 returns: a register as it stands, or half of it (R494). -/
def bar0Bytes (s : State) (off size : Nat) : List Byte := lslice (natLe (regRead s (off - off % 8)) 8) (off % 8) size

/-- A host's read of a register of BAR0 or of a doorbell of BAR4 completes with its value. -/
def regReadRow (s0 : State) (src : Src) (bar off size : Nat) : State :=
  barGate s0 src true (bar == 4 || off ≥ 0x1000000) (fun s =>
    emit s (.cpl 0 (if bar == 4 then natLe (getStrm s (off / 0x1000) (off % 0x1000 / 0x100)).tail 4 else bar0Bytes s off size)))

/-- UNMAPPED_ACCESS: an access that finds nothing (R471). A read that finds a register, a doorbell or the window completes with what it
finds; a write that does is the row of what it finds. -/
def unmapped (s0 : State) (src : Src) (bar off size : Nat) (read : Bool) : State :=
  if !fromHost src then s0
  else if barMapped s0 bar off size then
    (if !read then s0 else if bar == 2 then bar2Read s0 src off size else regReadRow s0 src bar off size)
  else barGate s0 src read false (fun s => refuseRead (aerSet s 1) read)

/-- The input area that a span lies in: entry and offset. -/
def inputSpan (s : State) (a n : Nat) : Option (Nat × Nat) :=
  if !s.hasJournal then none
  else ([0, 1].find? (fun p => entryAddr s p + 0x02200000 ≤ a && a + n ≤ entryAddr s p + entrySize s)).map
    (fun p => (p, a - (entryAddr s p + 0x02200000)))

/-- A dropped BAR2 write: counted, and the event once per step with the address of the first (R473). -/
def bar2Drop (s : State) (a : Nat) : State := raiseOnce (bumpErr s 0x2040 7 1 0x1019) 0x1013 (evStep s) (pb a 8)

/-- BAR2_WRITE. -/
def bar2Write (s0 : State) (src : Src) (off : Nat) (bs : List Byte) : State :=
  barGate s0 src false true (fun s =>
    let a := s.host.winBase + off
    let n := bs.length
    if off + n > 2 ^ s.host.winLog then refuseBar (aerSet s 1)
    else if n == 0 then s
    else
      let s1 := match edgePoison s a n with
        | some w => raiseUncorr s w (evStep s)
        | none => s
      match inputSpan s a n with
      | some (p, o) => (if (getJr s p).estate == 0 then inputWrite s1 p o bs else bar2Drop (inputWrite s p o bs) a)
      | none =>
        if !memOk s a n || inJournal s a n || inMirror s a n || (inBank s a n && unsealed s) then bar2Drop s a
        else flushOther (otherWrite s1 a bs))

/-! The link (R477, R479, R523). -/

/-- The highest rate that 0x2040:04 allows. -/
def rateLimit (s : State) : Nat :=
  match oget s 0x2040 4 with
  | 5 => 32
  | 6 => 64
  | _ => 128

/-- IDE streams leave the Secure state and must be keyed again. -/
def ideDown (s : State) : State := { s with ide := [] }

/-- Secured sessions of an endpoint end with it. -/
def spdmDown (s : State) (e : Nat) : State :=
  { s with ssess := s.ssess.filter (fun x => x.ep ≠ e), spdm := tdel s.spdm e }

/-- PCIE_LINK_DOWN. -/
def pcieDown (s : State) : State :=
  if !s.board.pcieUp then s
  else
    let s1 := { ideDown s with board := { s.board with pcieUp := false } }
    let s2 := oset (oset (oset s1 0x2040 1 0) 0x2040 2 0) 0x2040 3 0
    let s3 := spdmDown (epDown (epDown s2 0) 1) 0
    raise (setEp s3 0 { getEp s3 0 with eid := 0 }) 0x1010 []

/-- The Steward serves: boot stage 3 has ended (R525, R530). -/
def serving (s : State) : Bool := oget s 0x2060 1 ≥ 4

/-- The highest of some values, in descending order, that is no higher than a bound. -/
def highest (l : List Nat) (bound : Nat) : Option Nat := l.find? (fun v => v ≤ bound)

/-- The rate and the width of a link whose far end reaches a rate and has some lanes (R468, Table 16-1); none where it trains at none that
the device supports. -/
def trainedTo (s : State) (rate lanes : Nat) : Option (Nat × Nat) :=
  match highest [128, 64, 32] (min rate (rateLimit s)), highest [16, 8, 4] lanes with
  | some r, some w => some (r, w)
  | _, _ => none

/-- PCIE_LINK_UP: the rate that the far end reaches, and its lanes. Held MSI-X messages leave. -/
def pcieLinkUp (s : State) (rate lanes : Nat) : State :=
  if s.board.pcieUp || s.board.perst || s.board.rstLow || oget s 0x2060 1 < 2 || s.board.pllLost.contains 32 then s
  else match trainedTo s rate lanes with
    | none => s
    | some (r, w) =>
      let s1 := { s with board := { s.board with pcieUp := true } }
      let s2 := raise (oset (oset (oset s1 0x2040 1 r) 0x2040 2 w) 0x2040 3 (b2n (r ≥ 64))) 0x1011 []
      flushVecs (if serving s2 then epUp s2 1 else s2)

/-- PERST_N: low resets the PCIe controller, configuration space and the IDE keys. -/
def perstN (s : State) (low : Bool) : State :=
  if !low then { s with board := { s.board with perst := false } }
  else
    let s1 := pcieDown s
    { ideDown s1 with board := { s1.board with perst := true }, msixEn := false, msixOpen := [], msixPend := [],
                      host := { s1.host with msix := [], fmask := false, d3 := false, mps := 128, aer := [], cfg := [], winLog := 34 } }

/-- The capabilities of Table 16-1. -/
inductive PciCap
  | pciExpress
  | msix (vectors : Nat)
  | powerManagement (d3hot : Bool)
  | aer (status : List Nat)
  | serialNumber (bytes : List Byte)
  | resizableBar (bar log : Nat)
  | dataLinkFeature
  | physicalLayer (rate : Nat)
  | laneMargining
  | ide (link selective : Nat)
  deriving DecidableEq, Repr

/-- What configuration space shows of the one function (R468, R557): its Vendor ID, header type, maximum payload and read request sizes
in bytes, and its capabilities, no other being present. The Device Serial Number is the first 8 bytes of 0x1018:04 (assumption log
157). -/
structure PciCfg where
  vendor  : Nat
  header  : Nat
  payload : Nat
  maxRead : Nat
  caps    : List PciCap
  deriving DecidableEq, Repr

def pciCfg (s : State) : PciCfg :=
  { vendor := objRead s 0x1018 1, header := 0, payload := s.host.mps, maxRead := 4096,
    caps := [.pciExpress, .msix 2048, .powerManagement s.host.d3, .aer s.host.aer, .serialNumber (serialBytes.take 8),
             .resizableBar 2 s.host.winLog, .dataLinkFeature, .physicalLayer 16, .physicalLayer 32, .physicalLayer 64, .laneMargining,
             .ide 1 4] }

/-- CONFIG_SPACE_WRITE. -/
def cfgWrite (s : State) (w : CfgW) : State :=
  if !s.board.pcieUp then s
  else
    match w with
    | .rebar n => if 30 ≤ n && n ≤ 36 then { s with host := { s.host with winLog := n } } else s
    | .maxPayload n => if [128, 256, 512].contains n then { s with host := { s.host with mps := n } } else s
    | .aerClear c => { s with host := { s.host with aer := s.host.aer.filter (fun x => x ≠ c) } }
    | .msix e m => flushVecs { s with msixEn := e, host := { s.host with fmask := m } }
    | .power d3 => flushVecs { s with host := { s.host with d3 := d3 } }
    | .other r v => { s with host := { s.host with cfg := tset s.host.cfg r v } }

/-- MSIX_VECTOR_UNMASK. -/
def unmaskVec (s0 : State) (src : Src) (v : Nat) : State :=
  if v ≥ 2048 || !fromHost src then s0 else barGate s0 src false false (fun s => openVec s v)

/-! MCTP (R446, R447). -/

/-- MCTP_ENDPOINT_ID_ASSIGNED: bus 0 is the host's, another the sideband, which runs I3C (1) or SMBus (2). -/
def eidAssigned (s : State) (bus eid mode : Nat) : State :=
  if !serving s then s
  else if bus == 0 then
    (if s.board.pcieUp then epUp (setEp s 0 { getEp s 0 with eid := eid }) 0 else s)
  else epUp (setEp (oset s 0x1020 4 mode) 2 { getEp s 2 with eid := eid }) 2

/-- SIDEBAND_BUS_RESET. -/
def sidebandReset (s : State) : State :=
  let s1 := spdmDown (epDown s 2) 2
  setEp s1 2 { getEp s1 2 with eid := 0 }

end Sys2Proof.Machine
end

