-- ==== Sys2Proof/Machine/Power.lean ====
section
/-! DEFINITION. Reset, supplies, clock and boot (R513-R530), loss and return of a PLL (R523), and the debug port (R431). -/
namespace Sys2Proof.Machine

/-! Reset (R518-R520, R524). -/

def allSupplies : Nat := 0x3FF

/-- The device is held in reset. -/
def inReset (s : State) : Bool := s.board.rstLow || s.board.supplies != allSupplies || !s.board.refOk

/-- What a reset leaves: the always-on domain, the persistent store, the fuses, the levels of the pins, and the model's own
fields. -/
def afterReset (s : State) : State :=
  let b := s.board
  { board := { rstLow := b.rstLow, supplies := b.supplies, refOk := b.refOk, cause := b.cause, perst := b.perst, rwp := b.rwp,
               rwpDom := b.rwpDom, commits := b.commits, defaults := b.defaults },
    lock := { svn := s.lock.svn, unlocks := s.lock.unlocks },
    ports := s.ports.map (fun q => (q.1, { pres := q.2.pres, signal := q.2.signal })),
    objs := if oget s 0x2062 5 == 1 then [(okey 0x2062 5, 1)] else [],
    free := s.free, outbox := s.outbox, pending := s.pending }

/-- The device enters reset for a cause; when causes fall together the lower code stands (R520). -/
def enterReset (s : State) (cause : Nat) : State :=
  let c := if inReset s then min s.board.cause cause else cause
  afterReset { s with board := { s.board with cause := c } }

/-- Out of reset, the boot starts with stage 1 (R525). -/
def startBoot (s : State) : State :=
  if inReset s || s.board.boot then s else oset { s with board := { s.board with boot := true } } 0x2060 1 1

/-- POWER_ON: VDD_AUX alone is in range, SYS_RST_N is low (R515). -/
def powerOn (s : State) : State :=
  let s1 := afterReset (blowCut s)
  { s1 with board := { s1.board with cause := 0, rstLow := true, supplies := 1 } }

/-- SYS_RST_N_ASSERT. -/
def rstAssert (s : State) : State :=
  let s1 := enterReset s 1
  { s1 with board := { s1.board with rstLow := true } }

/-- SYS_RST_N_RELEASE. -/
def rstRelease (s : State) : State := if s.board.rstLow then startBoot { s with board := { s.board with rstLow := false } } else s

/-- The supply mask without supply i. -/
def dropSupply (m i : Nat) : Nat := if m / 2 ^ i % 2 == 1 then m - 2 ^ i else m

/-- SUPPLY_LOW: supply i of Table 18-5 is below its minimum for 5 us. -/
def supplyLow (s : State) (i : Nat) : State :=
  if i > 9 then s
  else
    let s1 := enterReset (blowCut s) 2
    { s1 with board := { s1.board with supplies := dropSupply s1.board.supplies i } }

/-- SUPPLY_RESTORED: every supply has been in range for 1 ms. -/
def supplyRestored (s : State) : State :=
  if s.board.supplies == allSupplies then s else startBoot { s with board := { s.board with supplies := allSupplies } }

/-- REFCLK_LOSS. -/
def refLoss (s : State) : State :=
  let s1 := enterReset s 3
  { s1 with board := { s1.board with refOk := false } }

/-- REFCLK_RESTORED. -/
def refRestored (s : State) : State := if s.board.refOk then s else startBoot { s with board := { s.board with refOk := true } }

/-! PLLs (R523). -/

/-- Ports of a quadrant (Table 1-1). -/
def quadPorts (q : Nat) : List Nat := (List.range 8).map (fun i => 8 * q + i)

/-- The PLL of a link has no lock: 0-3 the Sweul PLL of a quadrant, 16 and 17 an Ethernet port's, 32 PCIe's. -/
def losePll (s : State) (k : Nat) : State := { s with board := { s.board with pllLost := insertAsc k s.board.pllLost } }

def gainPll (s : State) (k : Nat) : State := { s with board := { s.board with pllLost := s.board.pllLost.filter (fun x => x ≠ k) } }

/-- PLL_LOSS after the boot. -/
def pllLoss (s : State) (p : Pll) : State :=
  if !isReady s then s
  else
    match p with
    | .root => startBoot (enterReset s 4)
    | .hbm _ => startBoot (enterReset s 4)
    | .pcie => pcieDown (losePll s 32)
    | .sweul q => (quadPorts (q % 4)).foldl (fun s p => if portState s p == 0 then s else linkWatch s (portDown s p) p) (losePll s (q % 4))
    | .eth e => ethLinkDown (losePll s (16 + e % 2)) (e % 2)

/-- A port trains when its cable is present, its signal is there, its PLL has lock, and stage 3 has ended (R512, R527). -/
def maySignal (s : State) (p : Nat) : Bool := serving s && !s.board.pllLost.contains (p / 8)

/-- PORT_SIGNAL_DETECT. -/
def signalDetect (s : State) (p : Nat) : State :=
  if maySignal s p then portSignal s p else modPort s p (fun x => { x with signal := true })

/-- PORT_PRES_LOW. -/
def presDetect (s : State) (p : Nat) : State :=
  if maySignal s p then presLow s p else modPort s p (fun x => { x with pres := true })

/-- Ports with signal begin to train. -/
def trainPorts (s : State) (ps : List Nat) : State :=
  ps.foldl (fun s p => if (getPort s p).signal then signalDetect s p else s) s

/-- PLL_RELOCK: the links of the PLL retrain. -/
def pllRelock (s : State) (p : Pll) : State :=
  match p with
  | .pcie => gainPll s 32
  | .sweul q => trainPorts (gainPll s (q % 4)) (quadPorts (q % 4))
  | .eth e => gainPll s (16 + e % 2)
  | _ => s

/-! The boot (R525-R530). -/

/-- Units that a stage may fail with (Table 18-8). -/
def stageUnits (stage : Nat) : List Nat :=
  match stage with
  | 1 => [1, 2, 3, 8]
  | 2 => [4]
  | 3 => [5]
  | 4 => [6]
  | 5 => [3, 7]
  | 6 => [7]
  | _ => []

/-- The index that goes with a failed unit (Table 18-9): REFCLK, LOCKSMITH and STEWARD have none. -/
def failIx (unit idx : Nat) : Nat := if unit == 2 || unit == 4 || unit == 5 then 0xFF else idx

/-- The boot stops with a unit and an index. -/
def bootFail (s : State) (unit idx : Nat) : State :=
  let s1 := oset (oset { s with board := { s.board with boot := false } } 0x2060 3 unit) 0x2060 4 (failIx unit idx)
  let s2 := if unit == 8 then { s1 with alm := { s1.alm with tripped := true } } else s1
  if (List.range 4).any (fun e => (getEp s2 e).up) then raise s2 0x1111 [unit, failIx unit idx] else s2

/-- The persistent values are loaded; defaults stand where they were asked for or the store cannot be read (R462, R463, R528). -/
def loadStore (s : State) (readable : Bool) : State :=
  let keep := readable && !s.board.defaults
  let s1 := if keep then s else { s with objs := s.objs.filter (fun q => !isRwp (q.1 / 256) (q.1 % 256)),
                                         doms := s.doms.filter (fun q => !isRwp (q.1 / 256) (q.1 % 256)),
                                         board := { s.board with rwp := [], rwpDom := [] } }
  let s2 : State := { s1 with doms := s1.board.rwpDom.foldl (fun t q => tset t q.1 q.2) s1.doms,
                              objs := s1.board.rwp.foldl (fun t q => tset t q.1 q.2) s1.objs,
                              board := { s1.board with defaults := false } }
  let s3 := oset s2 0x2020 2 (oget s2 0x2020 1)
  let s4 := if s.board.defaults then raise s3 0x0715 [] else s3
  if readable then s4 else raise s4 0x1119 []

/-- Stage 3 has ended: the Steward serves. -/
def stewardUp (s : State) (readable : Bool) : State :=
  let s1 := loadStore s readable
  let s0 := takeLimits { s1 with alm := { s1.alm with avsAt := s1.now } }
  let s2 := oset (emit s0 (.avs (avsTarget s0))) 0x2060 1 4
  let s3 := epUp s2 2
  let s4 := if s3.board.pcieUp then epUp s3 1 else s3
  trainPorts s4 (List.range 32)

/-- A free spare that failed its test is taken out of service (R526). -/
def spareFailed (s : State) (p : Nat) : State :=
  raise (oset { s with baro := { s.baro with out := insertAsc p s.baro.out } } 0x2011 3 p) 0x1118 [p]

/-- The cell tests have ended: the first cell of the factory map that failed. -/
def cellsTested (s : State) (bad : List Nat) : State :=
  let s1 := (bad.filter (fun p => (spareCells s).contains p)).foldl spareFailed s
  match bad.find? (fun p => (List.range 64).any (fun c => physOf s c == p)) with
  | some p => bootFail s1 6 p
  | none => { s1 with board := { s1.board with done4 := true } }

/-- The stacks are trained: the spare lanes in use; a channel with more than two failed lanes fails its stack (R251). -/
def stacksTrained (s : State) (lanes : List (Nat × Nat)) : State :=
  match lanes.find? (fun l => l.2 > 2) with
  | some l => bootFail s 7 (l.1 / 32)
  | none => { s with hbm := { used := lanes, first := lanes }, up := true, board := { s.board with done5 := true } }

/-- Stages 4 and 5 have both ended, or one of them. -/
def joinStages (s : State) : State :=
  if !s.board.boot then s
  else if s.board.done4 && s.board.done5 then oset s 0x2060 1 6
  else if s.board.done4 then oset s 0x2060 1 5 else s

/-- READY (R529). -/
def becomeReady (s : State) (ms : Nat) : State :=
  let s1 := oset (oset (oset { s with mem := [], poison := [], pchk := [], board := { s.board with boot := false } } 0x2060 1 7) 0x2060 2 1) 0x2060 6 ms
  raise s1 0x1110 ([s1.board.cause, 0, 0, 0] ++ pb ms 4)

/-- The stage is one that runs. -/
def stageRuns (s : State) (stage : Nat) : Bool :=
  s.board.boot &&
    (if stage == 4 then (oget s 0x2060 1 == 4 && !s.board.done4)
     else if stage == 5 then ((oget s 0x2060 1 == 4 || oget s 0x2060 1 == 5) && !s.board.done5)
     else oget s 0x2060 1 == stage)

/-- What a stage that has ended well leaves. -/
def stageDone (s : State) (stage : Nat) (r : StageEnd) : State :=
  match stage with
  | 1 => oset (emit s (.avs Config.fusedMv)) 0x2060 1 2
  | 2 => oset (newChallenge (drbgSeed (rebuildKeys s) {})) 0x2060 1 3
  | 3 => stewardUp s r.store
  | 4 => joinStages (cellsTested s r.cells)
  | 5 => joinStages (stacksTrained s r.lanes)
  | 6 => becomeReady s r.ms
  | _ => s

/-- BOOT_STAGE_END. -/
def bootStageEnd (s : State) (stage : Nat) (r : StageEnd) : State :=
  if !stageRuns s stage then s
  else
    match r.fail with
    | some (u, i) => if (stageUnits stage).contains u then bootFail s u i else s
    | none => stageDone s stage r

/-! The debug port (R431). -/

/-- DEBUG_PORT_ACCESS: identification always; the Steward's trace and the management ring from level 1, memories at level 2. By the ring
a cell is inspected, which its registers cover (R18), or paused and resumed (R19). -/
def debugPort (s : State) (q : DbgReq) : State :=
  match q with
  | .ident => emit s (.debug 0 [])
  | .trace => if s.lock.debug ≥ 1 then emit s (.debug 1 []) else s
  | .ringRead c off => if s.lock.debug ≥ 1 then emit s (.debug 3 (natLe (cellReg s c.val off) 8)) else s
  | .ringPause c on => if s.lock.debug ≥ 1 then modCell s c.val (fun x => { x with paused := on }) else s
  | .read a n => if s.lock.debug == 2 && memOk s a n then emit s (.debug 2 (memRead s a n)) else s
  | .write a bs => if s.lock.debug == 2 && memOk s a bs.length then flushOther (otherWrite s a bs) else s

end Sys2Proof.Machine
end

