-- ==== Sys2Proof/Machine/Spdm.lean ====
section
/-! DEFINITION. The SPDM responder (R413-R415, R477): connection stages, certificates, measurements, secured sessions, IDE keys. The
layouts of SPDM messages are DMTF's and not the manual's: an answer is kept as its response code and the values it carries, and a
transcript as the messages so kept (PRESUMED, assumption log 78). -/
namespace Sys2Proof.Machine

/-! Measurements (Table 14-3). -/

/-- The bytes of an object's value. -/
def objBytes (s : State) (idx sub : Nat) : List Byte :=
  match objDesc idx sub with
  | none => []
  | some d => if d.ty == .dom || d.ty == .str then domRead s idx sub else natLe (objRead s idx sub) d.ty.size

/-- Every RWP object's value in ascending order. -/
def rwpBytes (s : State) : List Byte :=
  objIndices.flatMap (fun i => ((objSubs i).filter (isRwp i)).flatMap (objBytes s i))

/-- The fuses: lifecycle, SVN floor, revocation mask, unlock count, factory cell map. -/
def fuseBytes (s : State) : List Byte :=
  natLe 1 1 ++ natLe (svnFloor s) 1 ++ natLe (maskOf 4 (fun k => Config.fwRevoked k)) 1 ++
    natLe (Config.fusedUnlocks + s.lock.unlocks) 1 ++ (List.range 64).flatMap (fun c => natLe (Config.factoryMap c) 1)

/-- The header digest of a slot, zeros where it holds no image. -/
def slotDigest (s : State) (k : Nat) : List Byte :=
  let x := getSlot s k
  if k < 2 && 2 ≤ x.state then x.digest else zeros 32

/-- Measurement i. -/
def measurement (s : State) (i : Nat) : List Byte :=
  match i with
  | 1 => Config.romDigest
  | 2 => sha256 (fuseBytes s)
  | 3 => slotDigest s (activeSlot s)
  | 4 => slotDigest s (inactiveSlot s)
  | 5 => sha256 (natLe s.lock.debug 2 ++ natLe 1 2)
  | 6 => (match s.lock.jok with
    | some k => sha256 (k ++ natLe (oget s 0x5801 1) 8)
    | none => zeros 32)
  | 7 => (match tfind s.doms (okey 0x2031 1) with
    | some b => sha256 b
    | none => zeros 32)
  | _ => sha256 (rwpBytes s)

/-! Connections. -/

def getConn (s : State) (ep : Nat) : SpdmConn := tget {} s.spdm ep

def setConn (s : State) (ep : Nat) (x : SpdmConn) : State := { s with spdm := tset s.spdm ep x }

/-- SPDM runs over the MCTP endpoints 0 and 2 while they are up (R414, R446). -/
def spdmOn (s : State) (ep : Nat) : Bool := (ep == 0 || ep == 2) && (getEp s ep).up

/-- An ERROR response: 1 InvalidRequest, 4 UnexpectedRequest, 7 UnsupportedRequest, 0x0A SessionLimitExceeded, 6 DecryptError. -/
def spdmErr (s : State) (code data : Nat) : State := emit s (.spdm 0x7F [BitVec.ofNat 8 code, BitVec.ofNat 8 data])

/-- A request of an endpoint that is at a stage or beyond it. -/
def spdmAt (s : State) (ep stage : Nat) (f : State → State) : State :=
  if !spdmOn s ep then s else if (getConn s ep).stage < stage then spdmErr s 4 0 else f s

/-- A request and its response join the connection's transcript. -/
def spdmStep (s : State) (ep stage : Nat) (req : List Byte) (code : Nat) (rsp : List Byte) : State :=
  let x := getConn s ep
  emit (setConn s ep { x with stage := stage, vca := x.vca ++ req ++ rsp }) (.spdm code rsp)

/-- GET_VERSION: the connection begins anew. -/
def spdmVersion (s : State) (ep : Nat) : State :=
  if !spdmOn s ep then s else spdmStep (setConn s ep {}) ep 1 [0x84#8] 0x04 [0x13#8]

/-- The features of Table 14-2 as capability flags: certificates, challenge, signed measurements, encryption, authentication, key
exchange, heartbeat, key update. -/
def spdmCaps : Nat := 0x62D6

/-- GET_CAPABILITIES. -/
def spdmCapabilities (s : State) (ep flags : Nat) : State :=
  spdmAt s ep 1 (fun s => spdmStep s ep (max 2 (getConn s ep).stage) (natLe flags 4) 0x61 (natLe spdmCaps 4))

/-- NEGOTIATE_ALGORITHMS: the device's own algorithms, when all are offered. -/
def spdmAlgorithms (s : State) (ep : Nat) (a : SpdmAlgs) : State :=
  spdmAt s ep 2 (fun s =>
    if a.ecdsa && a.sha256 && a.dhe && a.aead then spdmStep s ep 3 [1#8, 1#8, 1#8, 1#8] 0x63 [1#8, 1#8, 1#8, 1#8] else spdmErr s 1 0)

/-- GET_DIGESTS: slot 0. -/
def spdmDigests (s : State) (ep : Nat) : State := spdmAt s ep 3 (fun s => emit s (.spdm 0x01 (sha256 certChain)))

/-- GET_CERTIFICATE: a part of slot 0's chain, with the lengths of the part and of what remains. -/
def spdmCertificate (s : State) (ep slot off len : Nat) : State :=
  spdmAt s ep 3 (fun s =>
    if slot != 0 || off ≥ certChain.length then spdmErr s 1 0
    else
      let part := lslice certChain off len
      emit s (.spdm 0x02 (natLe part.length 2 ++ natLe (certChain.length - off - part.length) 2 ++ part)))

/-- CHALLENGE: the chain's digest and a nonce, signed with IDK over the transcript. -/
def spdmChallenge (s : State) (ep slot : Nat) (nonce : List Byte) : State :=
  spdmAt s ep 3 (fun s =>
    if slot != 0 then spdmErr s 1 0
    else
      let (n, s1) := drbgBytes s 32
      let body := sha256 certChain ++ n
      let (sg, s2) := idkSign s1 ((getConn s ep).vca ++ nonce ++ body)
      emit s2 (.spdm 0x03 (body ++ sg)))

/-- The DMTF type of a measurement's value, a digest: immutable ROM, mutable firmware, hardware configuration (the fuses) or firmware
configuration (assumption log 78). -/
def measType (i : Nat) : Nat :=
  match i with
  | 1 => 0
  | 2 => 2
  | 3 => 1
  | 4 => 1
  | _ => 3

/-- Block i in DMTF form (R415): index, measurement specification 1, size, then the value's type, size and bytes. -/
def measBlock (s : State) (i : Nat) : List Byte :=
  let v := measurement s i
  natLe i 1 ++ natLe 1 1 ++ natLe (v.length + 3) 2 ++ natLe (measType i) 1 ++ natLe v.length 2 ++ v

/-- The blocks of a request: index 0 asks for their number alone, 0xFF for all. -/
def measBlocks (s : State) (i : Nat) : List Byte :=
  if i == 0 then []
  else if i == 0xFF then (List.range 8).flatMap (fun k => measBlock s (k + 1))
  else measBlock s i

/-- GET_MEASUREMENTS: the number of blocks, the blocks, a nonce and, where asked for, a signature. -/
def spdmMeasurements (s : State) (ep i : Nat) (sign : Bool) (nonce : List Byte) : State :=
  spdmAt s ep 3 (fun s =>
    if 8 < i && i != 0xFF then spdmErr s 1 0
    else
      let (n, s1) := drbgBytes s 32
      let body := natLe 8 1 ++ measBlocks s i ++ n
      if sign then
        let (sg, s2) := idkSign s1 ((getConn s ep).vca ++ natLe i 1 ++ nonce ++ body)
        emit s2 (.spdm 0x60 (body ++ sg))
      else emit s1 (.spdm 0x60 body))

/-! Secured sessions: AES-256-GCM, with SPDM 1.3's key schedule (R414; assumption log 78). -/

/-- A secret or key of the key schedule: n bytes expanded under a label and a context. -/
def sessKey (secret : List Byte) (label : String) (ctx : List Byte) (n : Nat) : List Byte :=
  hkdfExpand secret (natLe n 2 ++ ascii "spdm1.3 " ++ ascii label ++ ctx) n

/-- The secret of the handshake. -/
def handSecret (z : List Byte) : List Byte := hkdfExtract (zeros 32) z

/-- The secret of the session's data. -/
def dataSecret (z : List Byte) : List Byte := hkdfExtract (sessKey (handSecret z) "derived" [] 32) (zeros 32)

/-- What proves a direction's end to have the secret over a transcript. -/
def verifyMac (secret th : List Byte) : List Byte := hmac (sessKey secret "finished" [] 32) (sha256 th)

/-- A session after its KEY_EXCHANGE, keyed for the handshake. -/
def newSess (id ep : Nat) (z th : List Byte) : SpdmSess :=
  let key (label : String) : List Byte := sessKey (handSecret z) label (sha256 th) 32
  { id := id, ep := ep, z := z, th := th ++ verifyMac (key "rsp hs data") th, reqSec := key "req hs data", rspSec := key "rsp hs data" }

/-- KEY_EXCHANGE: a session opens, at most four at a time. -/
def spdmKeyExchange (s : State) (ep reqId : Nat) (pub : List Byte) : State :=
  spdmAt s ep 3 (fun s =>
    if s.ssess.length ≥ 4 then spdmErr s 0x0A 0
    else
      let (eph, s1) := drbgKey s
      let (q, s2) := draw s1
      let (n, s3) := drbgBytes s2 32
      match ecdh eph pub with
      | none => spdmErr s3 1 0
      | some z =>
        let id := reqId % 2 ^ 16 + 2 ^ 16 * (q % 2 ^ 16)
        let body := natLe (q % 2 ^ 16) 2 ++ p256Pub eph ++ n
        let (sg, s4) := idkSign s3 ((getConn s ep).vca ++ natLe reqId 2 ++ pub ++ body)
        let th := (getConn s ep).vca ++ natLe reqId 2 ++ pub ++ body ++ sg
        let x := newSess id ep z th
        emit { s4 with ssess := s4.ssess.filter (fun y => y.id ≠ id) ++ [x] } (.spdm 0x64 (body ++ sg ++ x.th.drop th.length)))

/-- What FINISH proves. -/
def finishMac (x : SpdmSess) : List Byte := verifyMac x.reqSec x.th

def putSess (s : State) (x : SpdmSess) : State := { s with ssess := s.ssess.map (fun y => if y.id == x.id then x else y) }

/-- A response of a session under its response key and message number. -/
def sealOut (x : SpdmSess) (code : Nat) (rsp : List Byte) : Out :=
  let iv := xorBytes (sessKey x.rspSec "iv" [] 12) (natLe x.rspSeq 8 ++ zeros 4)
  let pt := natLe (rsp.length + 1) 2 ++ [BitVec.ofNat 8 code] ++ rsp
  let q := gcmSeal (sessKey x.rspSec "key" [] 32) iv (natLe x.id 4 ++ natLe x.rspSeq 2 ++ natLe (pt.length + 16) 2) pt
  .sealed x.id x.rspSeq q.1 q.2

/-- A session whose request has been answered: both directions' message numbers advance. -/
def nextMsg (x : SpdmSess) : SpdmSess := { x with reqSeq := x.reqSeq + 1, rspSeq := x.rspSeq + 1 }

/-- Answers a request of a session. -/
def answerIn (s : State) (x : SpdmSess) (code : Nat) (rsp : List Byte) : State := emit (putSess s (nextMsg x)) (sealOut x code rsp)

/-- A complete session: the keys of its data, over the whole handshake; its message numbers begin again. -/
def doneSess (x : SpdmSess) (mac : List Byte) : SpdmSess :=
  let key (label : String) : List Byte := sessKey (dataSecret x.z) label (sha256 (x.th ++ mac)) 32
  { x with up := true, th := x.th ++ mac, reqSec := key "req app data", rspSec := key "rsp app data", reqSeq := 0, rspSeq := 0 }

/-- FINISH: the session is complete, or it ends with DecryptError. -/
def spdmFinish (s : State) (ep id : Nat) (mac : List Byte) : State :=
  if !spdmOn s ep then s
  else
    match s.ssess.find? (fun x => x.id == id && x.ep == ep && !x.up) with
    | none => spdmErr s 4 0
    | some x =>
      if mac == finishMac x then emit (putSess s (doneSess x mac)) (sealOut x 0x65 [])
      else emit { s with ssess := s.ssess.filter (fun y => y.id ≠ id) } (sealOut x 0x7F [6#8, 0#8])

/-- A message inside a session that is complete; outside one it cannot be read. -/
def inSess (s : State) (ep id : Nat) (f : State → SpdmSess → State) : State :=
  if !spdmOn s ep then s
  else
    match s.ssess.find? (fun x => x.id == id && x.ep == ep && x.up) with
    | some x => f s x
    | none => s

/-- HEARTBEAT. -/
def spdmHeartbeat (s : State) (ep id : Nat) : State := inSess s ep id (fun s x => answerIn s x 0x68 [])

/-- The next generation of a direction's secret. -/
def nextSecret (secret : List Byte) : List Byte := sessKey secret "traffic upd" [] 32

/-- The keys that an update changes: 1 the requester's, 2 both; their message numbers begin again. -/
def updateSess (x : SpdmSess) (op : Nat) : SpdmSess :=
  let y := if op == 1 || op == 2 then { x with reqGen := x.reqGen + 1, reqSec := nextSecret x.reqSec, reqSeq := 0 } else { x with reqSeq := x.reqSeq + 1 }
  if op == 2 then { y with rspGen := y.rspGen + 1, rspSec := nextSecret y.rspSec, rspSeq := 0 } else y

/-- KEY_UPDATE: 1 the requester's key, 2 both, 3 verification of the new key. The answer goes under the response key in force then. -/
def spdmKeyUpdate (s : State) (ep id op tag : Nat) : State :=
  inSess s ep id (fun s x =>
    if op < 1 || op > 3 then answerIn s x 0x7F [1#8, 0#8]
    else
      let y := updateSess x op
      emit (putSess s { y with rspSeq := y.rspSeq + 1 }) (sealOut y 0x69 [BitVec.ofNat 8 op, BitVec.ofNat 8 tag]))

/-- END_SESSION. -/
def spdmEnd (s : State) (ep id : Nat) : State :=
  inSess s ep id (fun s x => emit { s with ssess := s.ssess.filter (fun y => y.id ≠ x.id) } (sealOut x 0x6C []))

/-- UNSUPPORTED_REQUEST. -/
def spdmUnsupported (s : State) (ep code : Nat) : State := if spdmOn s ep then spdmErr s 7 code else s

/-! IDE keys (R477). -/

def ideKey (set dir sub : Nat) : Nat := 8 * set + 4 * dir + sub

/-- The stream, key set, direction and sub-stream are ones that the device has. -/
def ideOk (stream set dir sub : Nat) : Bool := stream < 5 && set < 2 && dir < 2 && sub < 3

/-- Every direction and sub-stream of a key set has been started. -/
def ideAll (x : IdeSt) (set : Nat) : Bool := [0, 1].all (fun d => [0, 1, 2].all (fun u => x.go.contains (ideKey set d u)))

def putIde (s : State) (i : Nat) (x : IdeSt) : State := { s with ide := tset s.ide i x }

/-- One IDE_KM request of a session. A stream whose key set has been started whole is Secure; held MSI-X messages then leave
(R478). -/
def ideKm (s : State) (w : SpdmSess) (q : IdeKm) : State :=
  match q with
  | .query => answerIn s w 0x7E [0#8]
  | .keyProg i set dir sub key =>
    if ideOk i set dir sub && s.board.pcieUp && key.length == 40 then
      let x := tget {} s.ide i
      answerIn (putIde s i { x with keys := tset x.keys (ideKey set dir sub) key }) w 0x7E [1#8, 0#8]
    else answerIn s w 0x7E [1#8, 1#8]
  | .setGo i set dir sub =>
    let x := tget {} s.ide i
    if ideOk i set dir sub && (tfind x.keys (ideKey set dir sub)).isSome then
      let y := { x with go := insertAsc (ideKey set dir sub) x.go }
      flushVecs (answerIn (putIde s i { y with secure := x.secure || ideAll y set }) w 0x7E [2#8])
    else answerIn s w 0x7F [1#8, 0#8]
  | .setStop i set dir sub =>
    let x := tget {} s.ide i
    if ideOk i set dir sub then
      let k := ideKey set dir sub
      let y := { x with go := x.go.filter (fun g => g ≠ k), keys := tdel x.keys k }
      answerIn (putIde s i { y with secure := x.secure && (ideAll y 0 || ideAll y 1) }) w 0x7E [2#8]
    else answerIn s w 0x7F [1#8, 0#8]

/-- VENDOR_DEFINED_REQUEST: IDE key management in a secured session. -/
def spdmVendor (s : State) (ep id : Nat) (q : IdeKm) : State := inSess s ep id (fun s x => ideKm s x q)

end Sys2Proof.Machine
end

