-- ==== Sys2Proof/Machine/Health.lean ====
section
/-! DEFINITION. Canaries (R377-R379) and the scrubber (R250-R252). -/
namespace Sys2Proof.Machine

/-- Chunk time between two canaries of a loom, in LCLK cycles. -/
def canaryEvery : Nat := 30000000

/-- Element (m, n) of a loom's canary bank, +0 until the first canary (R69). The patterns' keys stand in ROM: the product is free. -/
def canaryEl (x : LoomSt) (m n : Nat) : Word :=
  match x.canBank with
  | some (pat, i) => Config.canaryOut i pat (256 * m + n)
  | none => 0#32

/-- CANARY_RUN: at a command boundary the loom starts its next pattern, in its own bank; its time, at most 1,792 LCLK, is free. -/
def canaryRun (s : State) (c l : Nat) : State :=
  let x := getLoom s c l
  if x.canTime < canaryEvery || x.run.isSome || x.canary.isSome || !meterOk s c l then s
  else
    let (t, s1) := drawBelow s 1793
    modLoom (fillIdle s1 c l) c l (fun y => { y with canary := some (y.canPat, t), canBank := some (y.canPat, s.free)
                                                     canPat := (y.canPat + 1) % 16, canTime := y.canTime - canaryEvery,
                                                     meter := y.meter - 16 * (t : Int) })

/-- The times of a corner's mismatches. -/
def cornerTimes (s : State) (k : Nat × Nat × Nat × Nat) : List Nat := ((s.baro.marks.find? (fun p => p.1 == k)).map (fun p => p.2)).getD []

/-- A mismatch counts for a corner; at the cluster size within 24 h the corner waits for the seal (R379). -/
def markCorner (s : State) (k : Nat × Nat × Nat × Nat) : State :=
  let ts := (cornerTimes s k).filter (fun t => s.now < t + 86400000000000) ++ [s.now]
  let s1 := { s with baro := { s.baro with marks := (k, ts) :: s.baro.marks.filter (fun p => p.1 ≠ k) } }
  if ts.length ≥ oget s 0x7031 1 && !s.baro.due.contains k then { s1 with baro := { s1.baro with due := s1.baro.due ++ [k] } } else s1

/-- The record of a canary mismatch (Table 12-9). -/
def canaryRec (s : State) (c l pat n : Nat) : List Byte :=
  natLe s.now 8 ++ natLe (evStep s) 8 ++ natLe (physOf s c) 1 ++ natLe l 1 ++ natLe pat 1 ++ natLe (cellDuty s c) 1 ++
    natLe (i16 (tget 0 s.alm.cellT (physOf s c))) 2 ++ natLe (oget s 0x5001 0x0B) 2 ++ natLe n 4 ++ natLe 0 4

/-- A canary mismatch of n elements (R378, R379). -/
def canaryMiss (s0 : State) (c l pat n : Nat) : State :=
  let s := stamp s0
  let log := s.baro.log ++ [canaryRec s c l pat n]
  let s1 := if log.length > 256 then bumpErr s 0x7030 2 1 0x0F23 else s
  let s2 := raise (baroAdd { s1 with baro := { s1.baro with log := log.drop (log.length - 256) } } 5 1) 0x0F21 []
  let p := physOf s c
  markCorner (markCorner s2 (p, l, 1, ((tget 0 s.alm.cellT p) / 50 % 256).toNat)) (p, l, 2, pat)

/-- CANARY_CHECK: the running canary's output differs from the ROM's reference in n elements. -/
def canaryCheck (s : State) (c l n : Nat) : State :=
  match (getLoom s c l).canary with
  | none => s
  | some (pat, t) =>
    let s1 := modLoom (fillMeter s c l t) c l (fun y => { y with canary := none })
    if n == 0 then s1 else canaryMiss s1 c l pat n

/-! Scrubbing. -/

/-- The channel of a stack offset: bits [12:8] (R229). -/
def hbmChan (off : Nat) : Nat := off / 256 % 32

/-- The lane of symbol sym of the word at a stack offset: lane j carries symbol (j mod 36) of word (j div 36) of its burst (R230). -/
def hbmLane (off sym : Nat) : Nat := sym + 36 * (off / 32 % 2)

/-- A correction in an HBM channel counts for its lane; at 16 within 1 s the lane is suspect (R252). -/
def laneCorr (s0 : State) (k ch lane : Nat) : State :=
  let s := stamp s0
  let l := s.hbm.corr.filter (fun p => s.now < p.2 + 1000000000) ++ [((k, ch, lane), s.now)]
  let n := (l.filter (fun p => p.1 == (k, ch, lane))).length
  { s with hbm := { s.hbm with corr := l,
                               sus := if n ≥ 16 && !s.hbm.sus.contains (k, ch, lane) then s.hbm.sus ++ [(k, ch, lane)] else s.hbm.sus } }

/-- SCRUB: the word of a local address is read. -/
def scrub (s : State) (a : Nat) (f : Found) : State :=
  if !isMem s a || !s.up then s
  else
    match f with
    | .clean => s
    | .corrected sym =>
      let s1 := baroAdd (countWord s a false) 1 1
      let m := oget s 0x2020 2
      let off := stackOffHbm m a
      if a < hbmEnd then laneCorr s1 (stackOfHbm m a) (hbmChan off) (hbmLane off sym.val) else s1
    | .bad => baroAdd (countWord (setPoison s a true) a true) 2 1

end Sys2Proof.Machine
end

