-- ==== Sys2Proof/Machine/Guard.lean ====
section
/-! DEFINITION. How a command's effect becomes an outcome: every command answers a next state (the spec gives each row an effect), and
a unit that does not run yet does nothing (R519, R525, R529). -/
namespace Sys2Proof.Machine

/-- The outcome of a command. -/
abbrev Res := Host.Outcome State Fault Refusal

/-- The effect, and SVC_SAFE where it made the device safe to remove (R537). -/
def safely (s : State) : Res := .next (watchSafe s)

/-- Only a READY device opens steps and lets streams fetch (R529). -/
def ifReady (s : State) (f : State → State) : State := if isReady s then f s else s

/-- The Steward, the Almanac and the ports run from the end of boot stage 3 (R525, R527). -/
def ifServing (s : State) (f : State → State) : State := if serving s then f s else s

/-- A tick with no command waiting: packets that may leave on the bulk transport do (R486, assumption log 50). -/
def idle (s : State) : State := ifServing s bulkPump

end Sys2Proof.Machine
end

