-- ==== Sys2Proof/Machine/CmdCell.lean ====
section
/-! DEFINITION. The meanings of the looms', the Drover's, the canaries' and the scrubber's events (03, 05, 08, 12, 13). -/
namespace Sys2Proof.Machine

/-- LOOM_CHUNK (R86). -/
def execLoomChunk (c : CellIx) (l : Loom) (s : State) : Res := .next (ifReady s (fun s => loomChunk s c.val (loomIx l)))

/-- LOOM_DRAIN (R83). -/
def execLoomDrain (c : CellIx) (l : Loom) (s : State) : Res := .next (ifReady s (fun s => loomDrain s c.val (loomIx l)))

/-- METERED_CHUNK_START: the meter of the loom has refilled to zero or above (R390). -/
def execMeteredChunkStart (c : CellIx) (l : Loom) (s : State) : Res :=
  .next (ifReady s (fun s => meteredStart s c.val (loomIx l)))

/-- DROVER_SELECTION: of session i (R156). -/
def execDroverSelection (i : Nat) (s : State) : Res := .next (ifReady s (fun s => droverSelection s i))

/-- DRV_SEND_DONE: of session i (R162). -/
def execDrvSendDone (i : Nat) (s : State) : Res := .next (ifReady s (fun s => drvSendDone s i))

/-- CANARY_RUN (R377). -/
def execCanaryRun (c : CellIx) (l : Loom) (s : State) : Res := .next (ifReady s (fun s => canaryRun s c.val (loomIx l)))

/-- CANARY_CHECK (R378). -/
def execCanaryCheck (c : CellIx) (l : Loom) (differ : Nat) (s : State) : Res :=
  .next (ifReady s (fun s => canaryCheck s c.val (loomIx l) differ))

/-- SCRUB (R250). -/
def execScrub (addr : Nat) (found : Found) (s : State) : Res := .next (scrub s addr found)

end Sys2Proof.Machine
end

