-- ==== Sys2Proof/Machine/CmdDict.lean ====
section
/-! DEFINITION. The meanings of the dictionary's rows (15): requests, and whole values handed to their owners (09, 12, 14, 16, 18). -/
namespace Sys2Proof.Machine

/-- The KIND of the order that a signed request for 0x5820:01 carries (Tables 14-7, 12-3): it stands in the request's payload. -/
def orderKind (b : List Byte) : Nat := fieldLe b 130 1

/-- A signed request for 0x5820:01 whose order has a KIND; an order whose KIND no row has is handled by any of the rows. -/
def orderRow (s : State) (ep : EpIx) (tag : Byte) (kind : Nat) (b : List Byte) : State :=
  if orderKind b == kind || orderKind b < 1 || 7 < orderKind b then wholeReq s ep.val tag.toNat 0x5820 1 b else s

/-- PLAN: 0x2031:01 (R288). -/
def execPlan (ep : EpIx) (tag : Byte) (bytes : List Byte) (s : State) : Res := safely (wholeReq s ep.val tag.toNat 0x2031 1 bytes)

/-- ORDER_RESUME (R364). -/
def execOrderResume (ep : EpIx) (tag : Byte) (bytes : List Byte) (s : State) : Res := safely (orderRow s ep tag 1 bytes)

/-- ORDER_TAKEOVER (R364). -/
def execOrderTakeover (ep : EpIx) (tag : Byte) (bytes : List Byte) (s : State) : Res := safely (orderRow s ep tag 2 bytes)

/-- ORDER_DONOR (R366). -/
def execOrderDonor (ep : EpIx) (tag : Byte) (bytes : List Byte) (s : State) : Res := safely (orderRow s ep tag 3 bytes)

/-- ORDER_PATTERN (R370). -/
def execOrderPattern (ep : EpIx) (tag : Byte) (bytes : List Byte) (s : State) : Res := safely (orderRow s ep tag 4 bytes)

/-- ORDER_SHADOW (R370). -/
def execOrderShadow (ep : EpIx) (tag : Byte) (bytes : List Byte) (s : State) : Res := safely (orderRow s ep tag 5 bytes)

/-- ORDER_CHECKPOINT (R372). -/
def execOrderCheckpoint (ep : EpIx) (tag : Byte) (bytes : List Byte) (s : State) : Res := safely (orderRow s ep tag 6 bytes)

/-- ORDER_RESTORE (R375). -/
def execOrderRestore (ep : EpIx) (tag : Byte) (bytes : List Byte) (s : State) : Res := safely (orderRow s ep tag 7 bytes)

/-- An object of Table 11-1. -/
def isJobStart (idx sub : Nat) : Bool := idx == 0x5401 && 1 ≤ sub && sub ≤ 4

/-- A signed request for an object of Table 11-1. -/
def jobStartRow (s : State) (ep tag idx sub : Nat) (b : List Byte) : State := if isJobStart idx sub then wholeReq s ep tag idx sub b else s

/-- JOB_START_WRITE: a job start object of Table 11-1 (R324). -/
def execJobStartWrite (ep : EpIx) (tag : Byte) (idx : BitVec 16) (sub : Byte) (bytes : List Byte) (s : State) : Res := safely (jobStartRow s ep.val tag.toNat idx.toNat sub.toNat bytes)

/-- JOB_REGISTRATION: 0x6010:01 (R422). -/
def execJobRegistration (ep : EpIx) (tag : Byte) (bytes : List Byte) (s : State) : Res := safely (wholeReq s ep.val tag.toNat 0x6010 1 bytes)

/-- JOB_RELEASE: 0x6010:02 (R423). -/
def execJobRelease (ep : EpIx) (tag : Byte) (bytes : List Byte) (s : State) : Res := safely (wholeReq s ep.val tag.toNat 0x6010 2 bytes)

/-- PATCH_IMAGE: 0x6030:01 (R418). -/
def execPatchImage (ep : EpIx) (tag : Byte) (bytes : List Byte) (s : State) : Res := safely (wholeReq s ep.val tag.toNat 0x6030 1 bytes)

/-- ACTIVATION_REQUEST: 0x6031:01 (R419). -/
def execActivationRequest (ep : EpIx) (tag : Byte) (bytes : List Byte) (s : State) : Res := safely (wholeReq s ep.val tag.toNat 0x6031 1 bytes)

/-- DEBUG_TOKEN: 0x6040:02 (R433). -/
def execDebugToken (ep : EpIx) (tag : Byte) (bytes : List Byte) (s : State) : Res := safely (wholeReq s ep.val tag.toNat 0x6040 2 bytes)

/-- ROLE_RETIRE: 0x2062:07 (R534). -/
def execRoleRetire (ep : EpIx) (tag : Byte) (bytes : List Byte) (s : State) : Res := safely (wholeReq s ep.val tag.toNat 0x2062 7 bytes)

/-- ENDPOINT_TABLE_WRITE: 0x2051:01 (R481). -/
def execEndpointTableWrite (ep : EpIx) (tag : Byte) (bytes : List Byte) (s : State) : Res := safely (wholeReq s ep.val tag.toNat 0x2051 1 bytes)

/-- PATCH_SELF_CHECK (R420). -/
def execPatchSelfCheck (ok : Bool) (s : State) : Res := safely (patchSelfCheck s ok)

/-- The request READ (R453). -/
def execRead (ep : EpIx) (d : DReq) (s : State) : Res := safely (dictReq s ep.val 0x01 d none)

/-- The request DESCRIBE (R445). -/
def execDescribe (ep : EpIx) (d : DReq) (s : State) : Res := safely (dictReq s ep.val 0x03 d none)

/-- The request NEXT (R444). -/
def execNext (ep : EpIx) (d : DReq) (s : State) : Res := safely (dictReq s ep.val 0x04 d none)

/-- The request XWSTART (R448). -/
def execXwStart (ep : EpIx) (d : DReq) (s : State) : Res := safely (dictReq s ep.val 0x10 d none)

/-- The request XWSEG (R449). -/
def execXwSeg (ep : EpIx) (d : DReq) (s : State) : Res := safely (dictReq s ep.val 0x11 d none)

/-- The request XRSTART (R451). -/
def execXrStart (ep : EpIx) (d : DReq) (s : State) : Res := safely (dictReq s ep.val 0x13 d none)

/-- The request XRSEG (R451). -/
def execXrSeg (ep : EpIx) (d : DReq) (s : State) : Res := safely (dictReq s ep.val 0x14 d none)

/-- The request XABORT (R452). -/
def execXabort (ep : EpIx) (d : DReq) (s : State) : Res := safely (dictReq s ep.val 0x1F d none)

/-- The request SUBSCRIBE (R459). -/
def execSubscribe (ep : EpIx) (d : DReq) (s : State) : Res := safely (dictReq s ep.val 0x20 d none)

/-- The request EVREAD (R459). -/
def execEvread (ep : EpIx) (d : DReq) (s : State) : Res := safely (dictReq s ep.val 0x21 d none)

/-- The request EVACK (R459). -/
def execEvack (ep : EpIx) (d : DReq) (s : State) : Res := safely (dictReq s ep.val 0x22 d none)

/-- The request WRITE; a persistent value is stored, or the commit fails (R453, R462). -/
def execWrite (ep : EpIx) (d : DReq) (ok : Bool) (s : State) : Res := safely (dictReq s ep.val 0x02 d (some ok))

/-- TRANSFER_TIMEOUT (R452). -/
def execTransferTimeout (ep : EpIx) (write : Bool) (s : State) : Res := .next (transferTimeout s ep.val write)

/-- STEWARD_WATCHDOG: cut when it interrupted a seal's actions or an order (R439). -/
def execStewardWatchdog (cut : Bool) (s : State) : Res := safely (ifServing s (fun s => stewardRestart s cut))

end Sys2Proof.Machine
end

