-- ==== Sys2Proof/Machine/CmdLink.lean ====
section
/-! DEFINITION. The meanings of the port, tracker and Sweul message rows (09). -/
namespace Sys2Proof.Machine

/-- REMOTE_TIMEOUT: of tracker entry trk (R281). -/
def execRemoteTimeout (trk : Nat) (s : State) : Res := safely (ifReady s (fun s => remoteTimeout s trk))

/-- REMOTE_RESEND (R243). -/
def execRemoteResend (trk : Nat) (s : State) : Res := safely (ifReady s (fun s => remoteResend s trk))

/-- WINDOW_TIMEOUT: of an operation of a device and its tracker entry (R243). -/
def execWindowTimeout (src trk : Nat) (s : State) : Res := safely (ifReady s (fun s => windowTimeout s src trk))

/-- FRAME_TX (R263). -/
def execFrameTx (p : PortIx) (s : State) : Res := .next (ifServing s (fun s => frameTx s p.val))

/-- FRAME_RX: the four lanes' codewords (R265). -/
def execFrameRx (p : PortIx) (lanes : List (List Byte)) (s : State) : Res := safely (ifServing s (fun s => frameRx s p.val lanes))

/-- RETRY_TIMER (R268). -/
def execRetryTimer (p : PortIx) (s : State) : Res := safely (ifServing s (fun s => retryTimer s p.val))

/-- A port whose signal or cable goes takes the port DOWN, if it was not (R261). -/
def portLosRow (s : State) (p : Nat) : State :=
  if serving s then linkWatch s (portLos s p) p else modPort s p (fun x => { x with signal := false })

def presHighRow (s : State) (p : Nat) : State :=
  if serving s then linkWatch s (presHigh s p) p else modPort s p (fun x => { x with pres := false })

/-- PORT_LOS (R261). -/
def execPortLos (p : PortIx) (s : State) : Res := safely (portLosRow s p.val)

/-- PORT_TRAINED: at a generation, with a round trip and the lane that the far end has spared (7 none), or not (R258, R259). -/
def execPortTrained (p : PortIx) (gen rtt tx : Nat) (ok : Bool) (s : State) : Res := safely (ifServing s (fun s => portTrained s p.val gen rtt tx ok))

/-- HELLO (R285). -/
def execHello (p : PortIx) (bytes : List Byte) (s : State) : Res := safely (ifServing s (fun s => linkWatch s (helloRx s p.val bytes) p.val))

/-- HELLO_RESEND (R284). -/
def execHelloResend (p : PortIx) (s : State) : Res := .next (ifServing s (fun s => helloResend s p.val))

/-- HELLO_TIMEOUT (R285). -/
def execHelloTimeout (p : PortIx) (s : State) : Res := safely (ifServing s (fun s => helloTimeout s p.val))

/-- PORT_PRES_N goes high (R536). -/
def execPortPresHigh (p : PortIx) (s : State) : Res := safely (presHighRow s p.val)

/-- PORT_PRES_N has been low for 10 ms (R536). -/
def execPortPresLow (p : PortIx) (s : State) : Res := .next (presDetect s p.val)

/-- PORT_SIGNAL_DETECT (R259). -/
def execPortSignalDetect (p : PortIx) (s : State) : Res := .next (signalDetect s p.val)

/-- LANE_SIGNAL_LOSS (R260). -/
def execLaneSignalLoss (p : PortIx) (lane : Fin 5) (s : State) : Res := safely (ifServing s (fun s => linkWatch s (laneLoss s p.val lane.val) p.val))

/-- SWEUL_WRITE (R276). -/
def execSweulWrite (key : Nat) (m : MsgIn) (s : State) : Res := safely (ifServing s (fun s => sweulWrite s key m))

/-- SWEUL_READ (R276). -/
def execSweulRead (key : Nat) (m : MsgIn) (s : State) : Res := safely (ifServing s (fun s => sweulRead s key m))

/-- SWEUL_ATOMIC (R242). -/
def execSweulAtomic (key : Nat) (m : MsgIn) (s : State) : Res := safely (ifServing s (fun s => sweulAtomic s key m))

/-- SIGNAL (R276). -/
def execSignal (key : Nat) (m : MsgIn) (s : State) : Res := safely (ifServing s (fun s => signalRx s key m))

/-- ACK (R275). -/
def execAck (key : Nat) (m : MsgIn) (s : State) : Res := safely (ifServing s (fun s => ackRx s key m))

/-- READ_DATA (R275). -/
def execReadData (key : Nat) (m : MsgIn) (s : State) : Res := safely (ifServing s (fun s => readDataRx s key m))

/-- REFUSE (R277). -/
def execRefuse (key : Nat) (m : MsgIn) (s : State) : Res := safely (ifServing s (fun s => refuseRx s key m))

/-- RETRY (R243). -/
def execRetry (key : Nat) (m : MsgIn) (s : State) : Res := safely (ifServing s (fun s => retryRx s key m))

/-- DRV_COUNT (R159). -/
def execDrvCount (key : Nat) (m : MsgIn) (s : State) : Res := safely (ifServing s (fun s => drvCountRx s key m))

end Sys2Proof.Machine
end

