-- ==== Sys2Proof/Machine/CmdNet.lean ====
section
/-! DEFINITION. The meanings of the rows of the bulk transport, of storage, of Ethernet and of the host link (16). -/
namespace Sys2Proof.Machine

/-- BULK_OPEN (R484). -/
def execBulkOpen (ep : PeerIx) (pkt : List Byte) (s : State) : Res := safely (ifServing s (fun s => bulkOpenRx s ep.val pkt))

/-- BULK_ACCEPT (R485). -/
def execBulkAccept (ep : PeerIx) (pkt : List Byte) (s : State) : Res := safely (ifServing s (fun s => bulkAcceptRx s ep.val pkt))

/-- BULK_DATA: with the congestion mark or not (R486). -/
def execBulkData (ep : PeerIx) (ce : Bool) (pkt : List Byte) (s : State) : Res := safely (ifServing s (fun s => bulkDataRx mgmtMsg s ep.val ce pkt))

/-- BULK_ACK (R486). -/
def execBulkAck (ep : PeerIx) (pkt : List Byte) (s : State) : Res := safely (ifServing s (fun s => bulkAckRx s ep.val pkt))

/-- BULK_CLOSE (R485). -/
def execBulkClose (ep : PeerIx) (pkt : List Byte) (s : State) : Res := safely (ifServing s (fun s => bulkCloseRx s ep.val pkt))

/-- BULK_ACK_TIMER (R486). -/
def execBulkAckTimer (ep : PeerIx) (s : State) : Res := .next (ifServing s (fun s => bulkAckTimer s ep.val))

/-- BULK_RESEND_TIMER (R486). -/
def execBulkResendTimer (ep : PeerIx) (psn : Nat) (s : State) : Res := safely (ifServing s (fun s => bulkResendTimer s ep.val psn))

/-- PEER_TIMEOUT (R488). -/
def execPeerTimeout (ep : PeerIx) (s : State) : Res := safely (ifServing s (fun s => peerTimeout s ep.val))

/-- COMMITTED: an operation's payload on the CHECKPOINT channel (R490). -/
def execCommitted (ep : PeerIx) (payload : List Byte) (s : State) : Res := safely (ifReady s (fun s => storageRow s ep.val 3 3 payload))

/-- DATA: an operation's payload on the CHECKPOINT channel (R490). -/
def execData (ep : PeerIx) (payload : List Byte) (s : State) : Res := safely (ifReady s (fun s => storageRow s ep.val 3 5 payload))

/-- END: an operation's payload on the CHECKPOINT channel (R490). -/
def execEndShard (ep : PeerIx) (payload : List Byte) (s : State) : Res := safely (ifReady s (fun s => storageRow s ep.val 3 6 payload))

/-- IWRITE: an operation's payload on the INGEST channel (R490). -/
def execIwrite (ep : PeerIx) (payload : List Byte) (s : State) : Res := safely (ifReady s (fun s => storageRow s ep.val 4 7 payload))

/-- IPOST: an operation's payload on the INGEST channel (R490). -/
def execIpost (ep : PeerIx) (payload : List Byte) (s : State) : Res := safely (ifReady s (fun s => storageRow s ep.val 4 8 payload))

/-- ETH_FRAME_RX (R480). -/
def execEthFrameRx (p : EthIx) (frame : List Byte) (fcsOk : Bool) (s : State) : Res := safely (ifServing s (fun s => ethFrameRx mgmtMsg s p.val frame fcsOk))

/-- ETH_LINK_DOWN (R492). -/
def execEthLinkDown (p : EthIx) (s : State) : Res := safely (ifServing s (fun s => ethLinkDown s p.val))

/-- ETH_LINK_UP (R492). -/
def execEthLinkUp (p : EthIx) (s : State) : Res := .next (ifServing s (fun s => if s.board.pllLost.contains (16 + p.val) then s else ethLinkUp s p.val))

/-- PCIE_LINK_DOWN (R479). -/
def execPcieLinkDown (s : State) : Res := .next (pcieDown s)

/-- PCIE_LINK_UP: at a rate with a number of lanes (R479). -/
def execPcieLinkUp (rate lanes : Nat) (s : State) : Res := .next (pcieLinkUp s rate lanes)

/-- PERST_N goes low or high (R479). -/
def execPerstN (low : Bool) (s : State) : Res := .next (perstN s low)

/-- SIDEBAND_BUS_RESET (R447). -/
def execSidebandBusReset (s : State) : Res := .next (ifServing s sidebandReset)

/-- MCTP_ENDPOINT_ID_ASSIGNED (R446). -/
def execMctpEndpointIdAssigned (bus eid mode : Nat) (s : State) : Res := .next (eidAssigned s bus eid mode)

end Sys2Proof.Machine
end

