-- ==== Sys2Proof/Machine/CmdPower.lean ====
section
/-! DEFINITION. The meanings of the rows of power, reset, boot, weather and the person at the tray (13, 14, 18). -/
namespace Sys2Proof.Machine

/-- POWER_ON (R520). -/
def execPowerOn (s : State) : Res := .next (powerOn s)

/-- SYS_RST_N_ASSERT (R519). -/
def execSysRstNAssert (s : State) : Res := .next (rstAssert s)

/-- SYS_RST_N_RELEASE (R525). -/
def execSysRstNRelease (s : State) : Res := .next (rstRelease s)

/-- BOOT_STAGE_END (R525). -/
def execBootStageEnd (stage : Fin 8) (r : StageEnd) (s : State) : Res := safely (bootStageEnd s stage.val r)

/-- SUPPLY_LOW (R518). -/
def execSupplyLow (i : Fin 10) (s : State) : Res := .next (supplyLow s i.val)

/-- SUPPLY_RESTORED (R518). -/
def execSupplyRestored (s : State) : Res := .next (supplyRestored s)

/-- REFCLK_LOSS (R524). -/
def execRefclkLoss (s : State) : Res := .next (refLoss s)

/-- REFCLK_RESTORED (R524). -/
def execRefclkRestored (s : State) : Res := .next (refRestored s)

/-- PLL_LOSS (R523). -/
def execPllLoss (p : Pll) (s : State) : Res := safely (pllLoss s p)

/-- PLL_RELOCK (R523). -/
def execPllRelock (p : Pll) (s : State) : Res := .next (ifServing s (fun s => pllRelock s p))

/-- PWRCAP_ASSERT (R398). -/
def execPwrcapAssert (s : State) : Res := .next (ifServing s pwrcapAssert)

/-- PWRCAP_LATE (R398). -/
def execPwrcapLate (s : State) : Res := .next (ifServing s pwrcapLate)

/-- PWRCAP_RELEASE (R399). -/
def execPwrcapRelease (s : State) : Res := .next (ifServing s pwrcapRelease)

/-- ALMANAC_UPDATE (R386). -/
def execAlmanacUpdate (x : AlmIn) (s : State) : Res := safely (ifServing s (fun s => almanacUpdate s x))

/-- AVS_READ (R403). -/
def execAvsRead (ok : Bool) (mv ma : Nat) (warn : Bool) (s : State) : Res := .next (ifServing s (fun s => avsRead s ok mv ma warn))

/-- DUTY_RAMP (R391). -/
def execDutyRamp (s : State) : Res := .next (ifServing s dutyRamp)

/-- SVC_BTN_PRESS (R531). -/
def execSvcBtnPress (s : State) : Res := .next (ifServing s btnPress)

/-- SVC_BTN_HELD: for 3 s, or for 8 s (R531). -/
def execSvcBtnHeld (long : Bool) (s : State) : Res := safely (ifServing s (fun s => btnHeld s long))

/-- SVC_BUTTON_STUCK (R531). -/
def execSvcButtonStuck (s : State) : Res := safely (ifServing s btnStuck)

/-- SVC_BTN_RELEASE: after a press of a number of ms (R531). -/
def execSvcBtnRelease (ms : Nat) (s : State) : Res := safely (ifServing s (fun s => btnRelease s ms))

/-- IDENTIFY_END (R531). -/
def execIdentifyEnd (s : State) : Res := safely (ifServing s identifyEnd)

/-- TRAY_LATCH: opens or closes (R535); before the Steward runs only the level stands. -/
def execTrayLatch (opens : Bool) (s : State) : Res := safely (if serving s then trayLatch s opens else oset s 0x2062 5 (b2n opens))

/-- DEBUG_PORT_ACCESS (R431). -/
def execDebugPortAccess (q : DbgReq) (s : State) : Res := .next (ifServing s (fun s => debugPort s q))

end Sys2Proof.Machine
end

