-- ==== Sys2Proof/Machine/CmdRecovery.lean ====
section
/-! DEFINITION. The meanings of the recovery rows: orders' followers, buddies, spares, shadows and checkpoints (12). -/
namespace Sys2Proof.Machine

/-- RECOVERY_READY (R365). -/
def execRecoveryReady (s : State) : Res := safely (ifReady s recoveryReady)

/-- RCV_READY (R365). -/
def execRcvReady (key : Nat) (m : MsgIn) (s : State) : Res := safely (ifServing s (fun s => ctrlRow s key 0x51 m rcvReadyRx))

/-- RCV_RESUME (R365). -/
def execRcvResume (key : Nat) (m : MsgIn) (s : State) : Res := safely (ifServing s (fun s => ctrlRow s key 0x52 m rcvResumeRx))

/-- RCV_RESTORE_UP (R375). -/
def execRcvRestoreUp (key : Nat) (m : MsgIn) (s : State) : Res := safely (ifServing s (fun s => ctrlRow s key 0x53 m restoreUpRx))

/-- RCV_RESTORE_DOWN (R375). -/
def execRcvRestoreDown (key : Nat) (m : MsgIn) (s : State) : Res := safely (ifServing s (fun s => ctrlRow s key 0x54 m restoreDownRx))

/-- SHADOW_RSP (R371). -/
def execShadowRsp (key : Nat) (m : MsgIn) (s : State) : Res := safely (ifServing s (fun s => ctrlRow s key 0x55 m shadowRspRx))

/-- SHADOW_FOLD (R371). -/
def execShadowFold (key : Nat) (m : MsgIn) (s : State) : Res := safely (ifServing s (fun s => ctrlRow s key 0x56 m shadowFoldRx))

/-- MIRROR_STATE (R356). -/
def execMirrorState (key : Nat) (m : MsgIn) (s : State) : Res := safely (ifServing s (fun s => ctrlRow s key 0x57 m mirrorStateRx))

/-- XFER_DONE (R367). -/
def execXferDone (key : Nat) (m : MsgIn) (s : State) : Res := safely (ifServing s (fun s => ctrlRow s key 0x58 m xferDoneRx))

/-- COPY_FRONT_UNIT: of the mirror (0), a shadow (1) or a checkpoint (2) front (R358). -/
def execCopyFrontUnit (kind : Fin 3) (s : State) : Res := safely (ifReady s (fun s => copyFrontUnit s kind.val))

/-- COW_READ_DONE (R360). -/
def execCowReadDone (s : State) : Res := safely (ifReady s cowReadDone)

/-- TEE_CREDIT_TIMEOUT (R371). -/
def execTeeCreditTimeout (s : State) : Res := safely (ifReady s (fun s => if isShadow s then shadowStop s else teeEnded s))

end Sys2Proof.Machine
end

