-- ==== Sys2Proof/Machine/CmdRegs.lean ====
section
/-! DEFINITION. The meanings of the register writes, doorbells and BAR accesses (16, 17). A row that names one register is a 64-bit
write of it with the value given; `registerWrite` writes any register by its offset. -/
namespace Sys2Proof.Machine

/-- DOORBELL (R475). -/
def execDoorbell (src : Src) (c : CellIx) (st : Strm) (v : BitVec 32) (s : State) : Res :=
  .next (doorbellRow s src c.val (ixOf st) v.toNat)

/-- RING_CONFIG_WRITE: of RING_CFG, or of RING_BASE (R502). -/
def execRingConfigWrite (src : Src) (c : CellIx) (st : Strm) (cfg : Bool) (v : BitVec 64) (s : State) : Res :=
  .next (oneReg s src true (fun s w => ringWrite s c.val (ixOf st) cfg w) v.toNat)

/-- HEAD_WRITE (R502). -/
def execHeadWrite (src : Src) (c : CellIx) (st : Strm) (v : BitVec 64) (s : State) : Res :=
  .next (oneReg s src true (fun s w => headWrite s c.val (ixOf st) w) v.toNat)

/-- EXLOG_RD_WRITE (R503). -/
def execExlogRdWrite (src : Src) (c : CellIx) (st : Strm) (v : BitVec 64) (s : State) : Res :=
  .next (oneReg s src true (fun s w => exRdWrite s c.val (ixOf st) (rwF w 0 32)) v.toNat)

/-- HOP_CFG_WRITE (R198). -/
def execHopCfgWrite (src : Src) (c : CellIx) (h : HopIx) (v : BitVec 64) (s : State) : Res :=
  .next (oneReg s src true (fun s w => hopCfg s c.val h.val w.val) v.toNat)

/-- VT_CTL_WRITE: of one of an entry's six registers (R119). -/
def execVtCtlWrite (src : Src) (c : CellIx) (e : VtIx) (reg : Fin 6) (v : BitVec 64) (s : State) : Res :=
  .next (oneReg s src true (fun s w => vtWrite s c.val e.val (8 * reg.val) w) v.toNat)

/-- WIN_CTL_WRITE (R472). -/
def execWinCtlWrite (src : Src) (v : BitVec 64) (s : State) : Res := .next (oneReg s src false winWrite v.toNat)

/-- HOST_SIG (R499). -/
def execHostSig (src : Src) (v : BitVec 64) (s : State) : Res := .next (oneReg s src false hostSig v.toNat)

/-- HWM_CLR (R498). -/
def execHwmClr (src : Src) (s : State) : Res := .next (barGate s src false false hwmClr)

/-- TALLY_CLR_ISSUED (R505). -/
def execTallyClrIssued (src : Src) (c : CellIx) (st : Strm) (s : State) : Res :=
  .next (barGate s src false true (fun s => clrIssued s c.val (ixOf st)))

/-- TALLY_CLR_WAITCYC (R505). -/
def execTallyClrWaitcyc (src : Src) (c : CellIx) (st : Strm) (s : State) : Res :=
  .next (barGate s src false true (fun s => clrWaitcyc s c.val (ixOf st)))

/-- TALLY_CLR_LOST (R505). -/
def execTallyClrLost (src : Src) (c : CellIx) (st : Strm) (s : State) : Res :=
  .next (barGate s src false true (fun s => clrLost s c.val (ixOf st)))

/-- CELL_DTAB_WRITE (R501). -/
def execCellDtabWrite (src : Src) (c : CellIx) (v : BitVec 64) (s : State) : Res :=
  .next (oneReg s src true (fun s w => dtabWrite s c.val (rwF w 16 8)) v.toNat)

/-- DICT_GO: only the host reaches the dictionary window (R464, R496). -/
def execDictGo (src : Src) (s : State) : Res :=
  if fromHost src then safely (barGate s src false false dictGo) else .next s

/-- POST: LDG_POST_CTL (R327). -/
def execPost (src : Src) (v : BitVec 64) (s : State) : Res := .next (oneReg s src true postCtl v.toNat)

/-- REGISTER_WRITE (R495). -/
def execRegisterWrite (src : Src) (off size : Nat) (v : BitVec 64) (s : State) : Res := safely (registerWrite s src off size v.toNat)

/-- UNMAPPED_ACCESS (R471). -/
def execUnmappedAccess (src : Src) (bar off size : Nat) (read : Bool) (s : State) : Res := .next (unmapped s src bar off size read)

/-- BAR2_READ (R473). -/
def execBar2Read (src : Src) (off len : Nat) (s : State) : Res := .next (bar2Read s src off len)

/-- BAR2_WRITE (R473). -/
def execBar2Write (src : Src) (off : Nat) (bytes : List Byte) (s : State) : Res := .next (bar2Write s src off bytes)

/-- MSIX_VECTOR_UNMASK (R476). -/
def execMsixVectorUnmask (src : Src) (v : Fin 2048) (s : State) : Res := .next (unmaskVec s src v.val)

/-- CONFIG_SPACE_WRITE (R468). -/
def execConfigSpaceWrite (w : CfgW) (s : State) : Res := .next (cfgWrite s w)

end Sys2Proof.Machine
end

