-- ==== Sys2Proof/Machine/CmdSeal.lean ====
section
/-! DEFINITION. The meanings of the Ledger's and the Mill's rows, and of the seal's (10, 11). -/
namespace Sys2Proof.Machine

/-- HASHING_DONE: of entry p (R327). -/
def execHashingDone (p : Fin 2) (s : State) : Res := .next (ifReady s (fun s => hashingDone s p.val))

/-- STEP_OPEN (R330). -/
def execStepOpen (s : State) : Res := safely (ifReady s openRow)

/-- STEP_COMPUTED (R332). -/
def execStepComputed (s : State) : Res := safely (ifReady s computedRow)

/-- VOTE_TIMEOUT (R131). -/
def execVoteTimeout (s : State) : Res := safely (ifReady s voteTimeout)

/-- SEAL_TIMEOUT (R346). -/
def execSealTimeout (s : State) : Res := safely (ifReady s sealTimeout)

/-- ROLLBACK_DONE (R344). -/
def execRollbackDone (s : State) : Res := safely (ifReady s rollbackRow)

/-- MILL_TIMEOUT: the running command of a group has sent and received nothing for the Mill timeout (R319). -/
def execMillTimeout (group : Nat) (s : State) : Res := .next (ifReady s (fun s => millTimeout s group))

/-- MILL_PART (R304). -/
def execMillPart (key : Nat) (m : MsgIn) (s : State) : Res := safely (ifServing s (fun s => ctrlRow s key 0x30 m millPart))

/-- MILL_RES (R307). -/
def execMillRes (key : Nat) (m : MsgIn) (s : State) : Res := safely (ifServing s (fun s => ctrlRow s key 0x31 m millRes))

/-- MILL_VOTE (R315). -/
def execMillVote (key : Nat) (m : MsgIn) (s : State) : Res := safely (ifServing s (fun s => ctrlRow s key 0x32 m millVote))

/-- MILL_VERDICT (R315). -/
def execMillVerdict (key : Nat) (m : MsgIn) (s : State) : Res := safely (ifServing s (fun s => ctrlRow s key 0x33 m millVerdict))

/-- MILL_SEAL_UP (R340). -/
def execMillSealUp (key : Nat) (m : MsgIn) (s : State) : Res := safely (ifServing s (fun s => ctrlRow s key 0x34 m millSealUp))

/-- MILL_SEAL_DOWN (R341). -/
def execMillSealDown (key : Nat) (m : MsgIn) (s : State) : Res := safely (ifServing s (fun s => ctrlRow s key 0x35 m sealDownRx))

/-- MILL_NAK (R314). -/
def execMillNak (key : Nat) (m : MsgIn) (s : State) : Res := safely (ifServing s (fun s => ctrlRow s key 0x36 m millNak))

/-- LEDGER_FOLD (R337). -/
def execLedgerFold (key : Nat) (m : MsgIn) (s : State) : Res := safely (ifServing s (fun s => ctrlRow s key 0x50 m ledgerFold))

end Sys2Proof.Machine
end

