-- ==== Sys2Proof/Machine/CmdSpdm.lean ====
section
/-! DEFINITION. The meanings of the SPDM rows (14, 16). -/
namespace Sys2Proof.Machine

/-- GET_VERSION (R414). -/
def execGetVersion (ep : EpIx) (s : State) : Res := .next (ifServing s (fun s => spdmVersion s ep.val))

/-- GET_CAPABILITIES (R414). -/
def execGetCapabilities (ep : EpIx) (flags : Nat) (s : State) : Res := .next (ifServing s (fun s => spdmCapabilities s ep.val flags))

/-- NEGOTIATE_ALGORITHMS (R414). -/
def execNegotiateAlgorithms (ep : EpIx) (a : SpdmAlgs) (s : State) : Res := .next (ifServing s (fun s => spdmAlgorithms s ep.val a))

/-- GET_DIGESTS (R413). -/
def execGetDigests (ep : EpIx) (s : State) : Res := .next (ifServing s (fun s => spdmDigests s ep.val))

/-- GET_CERTIFICATE (R413). -/
def execGetCertificate (ep : EpIx) (slot off len : Nat) (s : State) : Res := .next (ifServing s (fun s => spdmCertificate s ep.val slot off len))

/-- CHALLENGE (R414). -/
def execChallenge (ep : EpIx) (slot : Nat) (nonce : List Byte) (s : State) : Res := .next (ifServing s (fun s => spdmChallenge s ep.val slot nonce))

/-- GET_MEASUREMENTS (R415). -/
def execGetMeasurements (ep : EpIx) (i : Nat) (sign : Bool) (nonce : List Byte) (s : State) : Res := .next (ifServing s (fun s => spdmMeasurements s ep.val i sign nonce))

/-- KEY_EXCHANGE (R414). -/
def execKeyExchange (ep : EpIx) (reqId : Nat) (pub : List Byte) (s : State) : Res := .next (ifServing s (fun s => spdmKeyExchange s ep.val reqId pub))

/-- FINISH (R414). -/
def execFinish (ep : EpIx) (id : Nat) (mac : List Byte) (s : State) : Res := .next (ifServing s (fun s => spdmFinish s ep.val id mac))

/-- HEARTBEAT (R414). -/
def execHeartbeat (ep : EpIx) (id : Nat) (s : State) : Res := .next (ifServing s (fun s => spdmHeartbeat s ep.val id))

/-- KEY_UPDATE (R414). -/
def execKeyUpdate (ep : EpIx) (id op tag : Nat) (s : State) : Res := .next (ifServing s (fun s => spdmKeyUpdate s ep.val id op tag))

/-- END_SESSION (R414). -/
def execEndSession (ep : EpIx) (id : Nat) (s : State) : Res := .next (ifServing s (fun s => spdmEnd s ep.val id))

/-- VENDOR_DEFINED_REQUEST (R477). -/
def execVendorDefinedRequest (ep : EpIx) (id : Nat) (q : IdeKm) (s : State) : Res := .next (ifServing s (fun s => spdmVendor s ep.val id q))

/-- UNSUPPORTED_REQUEST (R414). -/
def execUnsupportedRequest (ep : EpIx) (code : Nat) (s : State) : Res := .next (ifServing s (fun s => spdmUnsupported s ep.val code))

end Sys2Proof.Machine
end

