-- ==== Sys2Proof/Machine/CmdStream.lean ====
section
/-! DEFINITION. The meanings of the stream commands (07, Table 7-2). A row presents its command at HEAD of a stream's ring: the stream
takes it and issues it when nothing stands before it and its rules let it issue; otherwise it waits in the stream's queue. -/
namespace Sys2Proof.Machine

/-- A command at HEAD of stream st of cell c (R191, R195, R529). -/
def streamRow (s : State) (c : CellIx) (st : Strm) (h : Hdr) (op : Op) : State :=
  ifReady s (fun s => present regRead carterWrite s c st h op)

/-- NOP (R195). -/
def execNop (c : CellIx) (st : Strm) (h : Hdr) (s : State) : Res := .next (streamRow s c st h .nop)

/-- STEPMARK (R211). -/
def execStepmark (c : CellIx) (st : Strm) (h : Hdr) (step : BitVec 32) (s : State) : Res := .next (streamRow s c st h (.stepmark step))

/-- LOOP (R207). -/
def execLoop (c : CellIx) (st : Strm) (h : Hdr) (f : LoopOp) (s : State) : Res := .next (streamRow s c st h (.loop f))

/-- CNT (R208, R209). -/
def execCnt (c : CellIx) (st : Strm) (h : Hdr) (f : CntOp) (s : State) : Res := .next (streamRow s c st h (.cnt f))

/-- CMP (R210). -/
def execCmp (c : CellIx) (st : Strm) (h : Hdr) (f : CmpOp) (s : State) : Res := .next (streamRow s c st h (.cmp f))

/-- HPUSH (R202). -/
def execHpush (c : CellIx) (st : Strm) (h : Hdr) (f : HpushOp) (s : State) : Res := .next (streamRow s c st h (.hpush f))

/-- FLAG (R215). -/
def execFlag (c : CellIx) (st : Strm) (h : Hdr) (f : FlagOp) (s : State) : Res := .next (streamRow s c st h (.flag f))

/-- WAIT (R216). -/
def execWait (c : CellIx) (st : Strm) (h : Hdr) (f : FlagOp) (s : State) : Res := .next (streamRow s c st h (.wait f))

/-- MMA (R79-R90). -/
def execMma (c : CellIx) (st : Strm) (h : Hdr) (f : MmaOp) (s : State) : Res := .next (streamRow s c st h (.mma f))

/-- UCOMMIT (R112). -/
def execUcommit (c : CellIx) (st : Strm) (h : Hdr) (f : UcommitOp) (s : State) : Res := .next (streamRow s c st h (.ucommit f))

/-- VPUB (R123). -/
def execVpub (c : CellIx) (st : Strm) (h : Hdr) (f : VerOp) (s : State) : Res := .next (streamRow s c st h (.vpub f))

/-- UDONE (R124). -/
def execUdone (c : CellIx) (st : Strm) (h : Hdr) (par : BitVec 1) (s : State) : Res := .next (streamRow s c st h (.udone par))

/-- VOTE (R128). -/
def execVote (c : CellIx) (st : Strm) (h : Hdr) (s : State) : Res := .next (streamRow s c st h .vote)

/-- VREL (R120). -/
def execVrel (c : CellIx) (st : Strm) (h : Hdr) (f : VerOp) (s : State) : Res := .next (streamRow s c st h (.vrel f))

/-- SETLEN (R168). -/
def execSetlen (c : CellIx) (st : Strm) (h : Hdr) (vl : BitVec 8) (rl : BitVec 6) (s : State) : Res := .next (streamRow s c st h (.setlen vl rl))

/-- LDT (R174). -/
def execLdt (c : CellIx) (st : Strm) (h : Hdr) (f : LdtOp) (s : State) : Res := .next (streamRow s c st h (.ldt f))

/-- STT (R175-R178). -/
def execStt (c : CellIx) (st : Strm) (h : Hdr) (f : SttOp) (s : State) : Res := .next (streamRow s c st h (.stt f))

/-- CARD (R179). -/
def execCard (c : CellIx) (st : Strm) (h : Hdr) (f : CardOp) (s : State) : Res := .next (streamRow s c st h (.card f))

/-- RED (R184). -/
def execRed (c : CellIx) (st : Strm) (h : Hdr) (f : RedOp) (s : State) : Res := .next (streamRow s c st h (.red f))

/-- ZMAP (R187). -/
def execZmap (c : CellIx) (st : Strm) (h : Hdr) (f : ZmapOp) (s : State) : Res := .next (streamRow s c st h (.zmap f))

/-- TBL (R183). -/
def execTbl (c : CellIx) (st : Strm) (h : Hdr) (f : TblOp) (s : State) : Res := .next (streamRow s c st h (.tbl f))

/-- MOVE (R206). -/
def execMove (c : CellIx) (st : Strm) (h : Hdr) (f : MoveOp) (s : State) : Res := .next (streamRow s c st h (.move f))

/-- RSIG (R275). -/
def execRsig (c : CellIx) (st : Strm) (h : Hdr) (f : RsigOp) (s : State) : Res := .next (streamRow s c st h (.rsig f))

/-- RATOM (R239). -/
def execRatom (c : CellIx) (st : Strm) (h : Hdr) (f : RatomOp) (s : State) : Res := .next (streamRow s c st h (.ratom f))

/-- DRVSUBMIT (R153). -/
def execDrvSubmit (c : CellIx) (st : Strm) (h : Hdr) (f : DrvSubmitOp) (s : State) : Res := .next (streamRow s c st h (.drvSubmit f))

/-- DRVSEND (R159). -/
def execDrvSend (c : CellIx) (st : Strm) (h : Hdr) (f : DrvSendOp) (s : State) : Res := .next (streamRow s c st h (.drvSend f))

/-- DRVCLOSE (R153). -/
def execDrvClose (c : CellIx) (st : Strm) (h : Hdr) (f : DrvCloseOp) (s : State) : Res := .next (streamRow s c st h (.drvClose f))

/-- MILLRS (R304). -/
def execMillRs (c : CellIx) (st : Strm) (h : Hdr) (f : MillOp) (s : State) : Res := .next (streamRow s c st h (.millRs f))

/-- MILLAG (R307). -/
def execMillAg (c : CellIx) (st : Strm) (h : Hdr) (f : MillOp) (s : State) : Res := .next (streamRow s c st h (.millAg f))

/-- MILLAR (R307). -/
def execMillAr (c : CellIx) (st : Strm) (h : Hdr) (f : MillOp) (s : State) : Res := .next (streamRow s c st h (.millAr f))

/-- MILLBC (R307). -/
def execMillBc (c : CellIx) (st : Strm) (h : Hdr) (f : MillOp) (s : State) : Res := .next (streamRow s c st h (.millBc f))

/-- STREAM_FETCH (R191). -/
def execStreamFetch (c : CellIx) (st : Strm) (s : State) : Res := .next (ifReady s (fun s => streamFetch s c.val (ixOf st)))

/-- COMMAND_COMMIT (R196). -/
def execCommandCommit (c : CellIx) (st : Strm) (s : State) : Res :=
  .next (ifReady s (fun s => commandCommit regRead carterWrite s c.val (ixOf st)))

/-- COMMAND_COMPLETE: the i-th command of the stream that has done its work (R197). -/
def execCommandComplete (c : CellIx) (st : Strm) (i : Nat) (s : State) : Res :=
  .next (ifReady s (fun s => commandComplete s c.val (ixOf st) i))

/-- COUNTER_LOAD (R209). -/
def execCounterLoad (c : CellIx) (st : Strm) (s : State) : Res := .next (ifReady s (fun s => counterLoad s c.val (ixOf st)))

/-- WAIT_TIMEOUT (R217). -/
def execWaitTimeout (c : CellIx) (st : Strm) (s : State) : Res :=
  .next (ifReady s (fun s => waitTimeout regRead carterWrite s c.val (ixOf st)))

/-- DEADLOCK_DETECTOR (R218). -/
def execDeadlockDetector (s : State) : Res := .next (ifReady s (deadlockDetector regRead))

/-- RING_PAUSE (R19). -/
def execRingPause (c : CellIx) (s : State) : Res :=
  .next (ifServing s (fun s => modCell s c.val (fun x => { x with paused := true })))

/-- RING_RESUME (R19). -/
def execRingResume (c : CellIx) (s : State) : Res :=
  .next (ifServing s (fun s => modCell s c.val (fun x => { x with paused := false })))

/-- ABORT: STRM_CTL ABORT (R222). -/
def execAbort (src : Src) (c : CellIx) (st : Strm) (s : State) : Res :=
  .next (barGate s src false true (fun s => abortStream s c.val (ixOf st)))

/-- RESUME: STRM_CTL RESUME (R223). -/
def execResume (src : Src) (c : CellIx) (st : Strm) (s : State) : Res :=
  .next (barGate s src false true (fun s => resumeStream s c.val (ixOf st)))

/-- CLR_STICKY: STRM_CTL CLR_STICKY (R224). -/
def execClrSticky (src : Src) (c : CellIx) (st : Strm) (s : State) : Res :=
  .next (barGate s src false true (fun s => clrSticky s c.val (ixOf st)))

/-- GALE_HOLD_RELIEF (R395). -/
def execGaleHoldRelief (c : CellIx) (st : Strm) (s : State) : Res := .next (ifReady s (fun s => galeRelief s c.val (ixOf st)))

end Sys2Proof.Machine
end

