-- ==== Sys2Proof/Machine/Dispatch.lean ====
section
/-! DEFINITION. Each command's meaning, in the order of spec/opcode_table.json. -/
namespace Sys2Proof.Machine

def exec (i : Instr) (s : State) : Host.Outcome State Fault Refusal :=
  match i with
  | .nop c st h => Sys2Proof.Machine.execNop c st h s
  | .stepmark c st h step => Sys2Proof.Machine.execStepmark c st h step s
  | .loop c st h f => Sys2Proof.Machine.execLoop c st h f s
  | .cnt c st h f => Sys2Proof.Machine.execCnt c st h f s
  | .cmp c st h f => Sys2Proof.Machine.execCmp c st h f s
  | .hpush c st h f => Sys2Proof.Machine.execHpush c st h f s
  | .flag c st h f => Sys2Proof.Machine.execFlag c st h f s
  | .wait c st h f => Sys2Proof.Machine.execWait c st h f s
  | .mma c st h f => Sys2Proof.Machine.execMma c st h f s
  | .ucommit c st h f => Sys2Proof.Machine.execUcommit c st h f s
  | .vpub c st h f => Sys2Proof.Machine.execVpub c st h f s
  | .udone c st h par => Sys2Proof.Machine.execUdone c st h par s
  | .vote c st h => Sys2Proof.Machine.execVote c st h s
  | .vrel c st h f => Sys2Proof.Machine.execVrel c st h f s
  | .setlen c st h vl rl => Sys2Proof.Machine.execSetlen c st h vl rl s
  | .ldt c st h f => Sys2Proof.Machine.execLdt c st h f s
  | .stt c st h f => Sys2Proof.Machine.execStt c st h f s
  | .card c st h f => Sys2Proof.Machine.execCard c st h f s
  | .red c st h f => Sys2Proof.Machine.execRed c st h f s
  | .zmap c st h f => Sys2Proof.Machine.execZmap c st h f s
  | .tbl c st h f => Sys2Proof.Machine.execTbl c st h f s
  | .move c st h f => Sys2Proof.Machine.execMove c st h f s
  | .rsig c st h f => Sys2Proof.Machine.execRsig c st h f s
  | .ratom c st h f => Sys2Proof.Machine.execRatom c st h f s
  | .drvSubmit c st h f => Sys2Proof.Machine.execDrvSubmit c st h f s
  | .drvSend c st h f => Sys2Proof.Machine.execDrvSend c st h f s
  | .drvClose c st h f => Sys2Proof.Machine.execDrvClose c st h f s
  | .millRs c st h f => Sys2Proof.Machine.execMillRs c st h f s
  | .millAg c st h f => Sys2Proof.Machine.execMillAg c st h f s
  | .millAr c st h f => Sys2Proof.Machine.execMillAr c st h f s
  | .millBc c st h f => Sys2Proof.Machine.execMillBc c st h f s
  | .streamFetch c st => Sys2Proof.Machine.execStreamFetch c st s
  | .commandCommit c st => Sys2Proof.Machine.execCommandCommit c st s
  | .commandComplete c st n => Sys2Proof.Machine.execCommandComplete c st n s
  | .counterLoad c st => Sys2Proof.Machine.execCounterLoad c st s
  | .loomChunk c l => Sys2Proof.Machine.execLoomChunk c l s
  | .loomDrain c l => Sys2Proof.Machine.execLoomDrain c l s
  | .droverSelection n => Sys2Proof.Machine.execDroverSelection n s
  | .drvSendDone n => Sys2Proof.Machine.execDrvSendDone n s
  | .waitTimeout c st => Sys2Proof.Machine.execWaitTimeout c st s
  | .deadlockDetector => Sys2Proof.Machine.execDeadlockDetector s
  | .canaryRun c l => Sys2Proof.Machine.execCanaryRun c l s
  | .canaryCheck c l differ => Sys2Proof.Machine.execCanaryCheck c l differ s
  | .scrub addr found => Sys2Proof.Machine.execScrub addr found s
  | .ringPause c => Sys2Proof.Machine.execRingPause c s
  | .ringResume c => Sys2Proof.Machine.execRingResume c s
  | .abort src c st => Sys2Proof.Machine.execAbort src c st s
  | .resume src c st => Sys2Proof.Machine.execResume src c st s
  | .clrSticky src c st => Sys2Proof.Machine.execClrSticky src c st s
  | .doorbell src c st v => Sys2Proof.Machine.execDoorbell src c st v s
  | .ringConfigWrite src c st cfg v => Sys2Proof.Machine.execRingConfigWrite src c st cfg v s
  | .headWrite src c st v => Sys2Proof.Machine.execHeadWrite src c st v s
  | .exlogRdWrite src c st v => Sys2Proof.Machine.execExlogRdWrite src c st v s
  | .hopCfgWrite src c h v => Sys2Proof.Machine.execHopCfgWrite src c h v s
  | .vtCtlWrite src c e reg v => Sys2Proof.Machine.execVtCtlWrite src c e reg v s
  | .winCtlWrite src v => Sys2Proof.Machine.execWinCtlWrite src v s
  | .hostSig src v => Sys2Proof.Machine.execHostSig src v s
  | .hwmClr src => Sys2Proof.Machine.execHwmClr src s
  | .tallyClrIssued src c st => Sys2Proof.Machine.execTallyClrIssued src c st s
  | .tallyClrWaitcyc src c st => Sys2Proof.Machine.execTallyClrWaitcyc src c st s
  | .tallyClrLost src c st => Sys2Proof.Machine.execTallyClrLost src c st s
  | .cellDtabWrite src c v => Sys2Proof.Machine.execCellDtabWrite src c v s
  | .dictGo src => Sys2Proof.Machine.execDictGo src s
  | .post src v => Sys2Proof.Machine.execPost src v s
  | .registerWrite src off size v => Sys2Proof.Machine.execRegisterWrite src off size v s
  | .unmappedAccess src bar off size read => Sys2Proof.Machine.execUnmappedAccess src bar off size read s
  | .bar2Read src off len => Sys2Proof.Machine.execBar2Read src off len s
  | .bar2Write src off bytes => Sys2Proof.Machine.execBar2Write src off bytes s
  | .hashingDone p => Sys2Proof.Machine.execHashingDone p s
  | .stepOpen => Sys2Proof.Machine.execStepOpen s
  | .stepComputed => Sys2Proof.Machine.execStepComputed s
  | .voteTimeout => Sys2Proof.Machine.execVoteTimeout s
  | .sealTimeout => Sys2Proof.Machine.execSealTimeout s
  | .rollbackDone => Sys2Proof.Machine.execRollbackDone s
  | .millTimeout group => Sys2Proof.Machine.execMillTimeout group s
  | .remoteTimeout trk => Sys2Proof.Machine.execRemoteTimeout trk s
  | .remoteResend trk => Sys2Proof.Machine.execRemoteResend trk s
  | .windowTimeout src trk => Sys2Proof.Machine.execWindowTimeout src trk s
  | .frameTx p => Sys2Proof.Machine.execFrameTx p s
  | .frameRx p lanes => Sys2Proof.Machine.execFrameRx p lanes s
  | .retryTimer p => Sys2Proof.Machine.execRetryTimer p s
  | .portLos p => Sys2Proof.Machine.execPortLos p s
  | .portTrained p gen rtt tx ok => Sys2Proof.Machine.execPortTrained p gen rtt tx ok s
  | .hello p bytes => Sys2Proof.Machine.execHello p bytes s
  | .helloResend p => Sys2Proof.Machine.execHelloResend p s
  | .helloTimeout p => Sys2Proof.Machine.execHelloTimeout p s
  | .sweulWrite key m => Sys2Proof.Machine.execSweulWrite key m s
  | .sweulRead key m => Sys2Proof.Machine.execSweulRead key m s
  | .sweulAtomic key m => Sys2Proof.Machine.execSweulAtomic key m s
  | .signal key m => Sys2Proof.Machine.execSignal key m s
  | .ack key m => Sys2Proof.Machine.execAck key m s
  | .readData key m => Sys2Proof.Machine.execReadData key m s
  | .refuse key m => Sys2Proof.Machine.execRefuse key m s
  | .retry key m => Sys2Proof.Machine.execRetry key m s
  | .drvCount key m => Sys2Proof.Machine.execDrvCount key m s
  | .millPart key m => Sys2Proof.Machine.execMillPart key m s
  | .millRes key m => Sys2Proof.Machine.execMillRes key m s
  | .millVote key m => Sys2Proof.Machine.execMillVote key m s
  | .millVerdict key m => Sys2Proof.Machine.execMillVerdict key m s
  | .millSealUp key m => Sys2Proof.Machine.execMillSealUp key m s
  | .millSealDown key m => Sys2Proof.Machine.execMillSealDown key m s
  | .millNak key m => Sys2Proof.Machine.execMillNak key m s
  | .ledgerFold key m => Sys2Proof.Machine.execLedgerFold key m s
  | .rcvReady key m => Sys2Proof.Machine.execRcvReady key m s
  | .recoveryReady => Sys2Proof.Machine.execRecoveryReady s
  | .rcvResume key m => Sys2Proof.Machine.execRcvResume key m s
  | .rcvRestoreUp key m => Sys2Proof.Machine.execRcvRestoreUp key m s
  | .rcvRestoreDown key m => Sys2Proof.Machine.execRcvRestoreDown key m s
  | .shadowRsp key m => Sys2Proof.Machine.execShadowRsp key m s
  | .shadowFold key m => Sys2Proof.Machine.execShadowFold key m s
  | .mirrorState key m => Sys2Proof.Machine.execMirrorState key m s
  | .xferDone key m => Sys2Proof.Machine.execXferDone key m s
  | .copyFrontUnit kind => Sys2Proof.Machine.execCopyFrontUnit kind s
  | .cowReadDone => Sys2Proof.Machine.execCowReadDone s
  | .plan ep tag bytes => Sys2Proof.Machine.execPlan ep tag bytes s
  | .orderResume ep tag bytes => Sys2Proof.Machine.execOrderResume ep tag bytes s
  | .orderTakeover ep tag bytes => Sys2Proof.Machine.execOrderTakeover ep tag bytes s
  | .orderDonor ep tag bytes => Sys2Proof.Machine.execOrderDonor ep tag bytes s
  | .orderPattern ep tag bytes => Sys2Proof.Machine.execOrderPattern ep tag bytes s
  | .orderShadow ep tag bytes => Sys2Proof.Machine.execOrderShadow ep tag bytes s
  | .orderCheckpoint ep tag bytes => Sys2Proof.Machine.execOrderCheckpoint ep tag bytes s
  | .orderRestore ep tag bytes => Sys2Proof.Machine.execOrderRestore ep tag bytes s
  | .jobStartWrite ep tag idx sub bytes => Sys2Proof.Machine.execJobStartWrite ep tag idx sub bytes s
  | .jobRegistration ep tag bytes => Sys2Proof.Machine.execJobRegistration ep tag bytes s
  | .jobRelease ep tag bytes => Sys2Proof.Machine.execJobRelease ep tag bytes s
  | .patchImage ep tag bytes => Sys2Proof.Machine.execPatchImage ep tag bytes s
  | .activationRequest ep tag bytes => Sys2Proof.Machine.execActivationRequest ep tag bytes s
  | .patchSelfCheck ok => Sys2Proof.Machine.execPatchSelfCheck ok s
  | .debugToken ep tag bytes => Sys2Proof.Machine.execDebugToken ep tag bytes s
  | .roleRetire ep tag bytes => Sys2Proof.Machine.execRoleRetire ep tag bytes s
  | .endpointTableWrite ep tag bytes => Sys2Proof.Machine.execEndpointTableWrite ep tag bytes s
  | .read ep d => Sys2Proof.Machine.execRead ep d s
  | .write ep d ok => Sys2Proof.Machine.execWrite ep d ok s
  | .describe ep d => Sys2Proof.Machine.execDescribe ep d s
  | .next ep d => Sys2Proof.Machine.execNext ep d s
  | .xwStart ep d => Sys2Proof.Machine.execXwStart ep d s
  | .xwSeg ep d => Sys2Proof.Machine.execXwSeg ep d s
  | .xrStart ep d => Sys2Proof.Machine.execXrStart ep d s
  | .xrSeg ep d => Sys2Proof.Machine.execXrSeg ep d s
  | .xabort ep d => Sys2Proof.Machine.execXabort ep d s
  | .subscribe ep d => Sys2Proof.Machine.execSubscribe ep d s
  | .evread ep d => Sys2Proof.Machine.execEvread ep d s
  | .evack ep d => Sys2Proof.Machine.execEvack ep d s
  | .transferTimeout ep write => Sys2Proof.Machine.execTransferTimeout ep write s
  | .stewardWatchdog cut => Sys2Proof.Machine.execStewardWatchdog cut s
  | .getVersion ep => Sys2Proof.Machine.execGetVersion ep s
  | .getCapabilities ep flags => Sys2Proof.Machine.execGetCapabilities ep flags s
  | .negotiateAlgorithms ep a => Sys2Proof.Machine.execNegotiateAlgorithms ep a s
  | .getDigests ep => Sys2Proof.Machine.execGetDigests ep s
  | .getCertificate ep slot off len => Sys2Proof.Machine.execGetCertificate ep slot off len s
  | .challenge ep slot nonce => Sys2Proof.Machine.execChallenge ep slot nonce s
  | .getMeasurements ep n sign nonce => Sys2Proof.Machine.execGetMeasurements ep n sign nonce s
  | .keyExchange ep reqId pub => Sys2Proof.Machine.execKeyExchange ep reqId pub s
  | .finish ep id mac => Sys2Proof.Machine.execFinish ep id mac s
  | .heartbeat ep id => Sys2Proof.Machine.execHeartbeat ep id s
  | .keyUpdate ep id op tag => Sys2Proof.Machine.execKeyUpdate ep id op tag s
  | .endSession ep id => Sys2Proof.Machine.execEndSession ep id s
  | .vendorDefinedRequest ep id q => Sys2Proof.Machine.execVendorDefinedRequest ep id q s
  | .unsupportedRequest ep code => Sys2Proof.Machine.execUnsupportedRequest ep code s
  | .bulkOpen ep pkt => Sys2Proof.Machine.execBulkOpen ep pkt s
  | .bulkAccept ep pkt => Sys2Proof.Machine.execBulkAccept ep pkt s
  | .bulkData ep ce pkt => Sys2Proof.Machine.execBulkData ep ce pkt s
  | .bulkAck ep pkt => Sys2Proof.Machine.execBulkAck ep pkt s
  | .bulkClose ep pkt => Sys2Proof.Machine.execBulkClose ep pkt s
  | .bulkAckTimer ep => Sys2Proof.Machine.execBulkAckTimer ep s
  | .bulkResendTimer ep psn => Sys2Proof.Machine.execBulkResendTimer ep psn s
  | .peerTimeout ep => Sys2Proof.Machine.execPeerTimeout ep s
  | .committed ep payload => Sys2Proof.Machine.execCommitted ep payload s
  | .data ep payload => Sys2Proof.Machine.execData ep payload s
  | .endShard ep payload => Sys2Proof.Machine.execEndShard ep payload s
  | .iwrite ep payload => Sys2Proof.Machine.execIwrite ep payload s
  | .ipost ep payload => Sys2Proof.Machine.execIpost ep payload s
  | .ethFrameRx p frame fcsOk => Sys2Proof.Machine.execEthFrameRx p frame fcsOk s
  | .ethLinkDown p => Sys2Proof.Machine.execEthLinkDown p s
  | .ethLinkUp p => Sys2Proof.Machine.execEthLinkUp p s
  | .pcieLinkDown => Sys2Proof.Machine.execPcieLinkDown s
  | .pcieLinkUp rate lanes => Sys2Proof.Machine.execPcieLinkUp rate lanes s
  | .perstN low => Sys2Proof.Machine.execPerstN low s
  | .powerOn => Sys2Proof.Machine.execPowerOn s
  | .sysRstNAssert => Sys2Proof.Machine.execSysRstNAssert s
  | .sysRstNRelease => Sys2Proof.Machine.execSysRstNRelease s
  | .bootStageEnd stage r => Sys2Proof.Machine.execBootStageEnd stage r s
  | .supplyLow n => Sys2Proof.Machine.execSupplyLow n s
  | .supplyRestored => Sys2Proof.Machine.execSupplyRestored s
  | .refclkLoss => Sys2Proof.Machine.execRefclkLoss s
  | .refclkRestored => Sys2Proof.Machine.execRefclkRestored s
  | .pllLoss p => Sys2Proof.Machine.execPllLoss p s
  | .pwrcapAssert => Sys2Proof.Machine.execPwrcapAssert s
  | .pwrcapLate => Sys2Proof.Machine.execPwrcapLate s
  | .pwrcapRelease => Sys2Proof.Machine.execPwrcapRelease s
  | .almanacUpdate x => Sys2Proof.Machine.execAlmanacUpdate x s
  | .avsRead ok mv ma warn => Sys2Proof.Machine.execAvsRead ok mv ma warn s
  | .dutyRamp => Sys2Proof.Machine.execDutyRamp s
  | .galeHoldRelief c st => Sys2Proof.Machine.execGaleHoldRelief c st s
  | .svcBtnRelease ms => Sys2Proof.Machine.execSvcBtnRelease ms s
  | .svcButtonStuck => Sys2Proof.Machine.execSvcButtonStuck s
  | .trayLatch opens => Sys2Proof.Machine.execTrayLatch opens s
  | .portPresHigh p => Sys2Proof.Machine.execPortPresHigh p s
  | .portPresLow p => Sys2Proof.Machine.execPortPresLow p s
  | .portSignalDetect p => Sys2Proof.Machine.execPortSignalDetect p s
  | .laneSignalLoss p lane => Sys2Proof.Machine.execLaneSignalLoss p lane s
  | .meteredChunkStart c l => Sys2Proof.Machine.execMeteredChunkStart c l s
  | .teeCreditTimeout => Sys2Proof.Machine.execTeeCreditTimeout s
  | .svcBtnPress => Sys2Proof.Machine.execSvcBtnPress s
  | .svcBtnHeld long => Sys2Proof.Machine.execSvcBtnHeld long s
  | .identifyEnd => Sys2Proof.Machine.execIdentifyEnd s
  | .pllRelock p => Sys2Proof.Machine.execPllRelock p s
  | .sidebandBusReset => Sys2Proof.Machine.execSidebandBusReset s
  | .mctpEndpointIdAssigned bus eid mode => Sys2Proof.Machine.execMctpEndpointIdAssigned bus eid mode s
  | .msixVectorUnmask src v => Sys2Proof.Machine.execMsixVectorUnmask src v s
  | .configSpaceWrite w => Sys2Proof.Machine.execConfigSpaceWrite w s
  | .debugPortAccess q => Sys2Proof.Machine.execDebugPortAccess q s

end Sys2Proof.Machine
end

