-- ==== Sys2Proof/Machine/Step.lean ====
section
/-! DEFINITION. One step: the command at the front of the queue; on an empty queue, what waits for the bulk transport leaves
(assumption log 50). -/
namespace Sys2Proof.Machine

/-- The queue without its front. -/
def State.rest (s : State) : State := { s with pending := s.pending.tail }

/-- The state with a command put at the front of its queue. -/
def State.push (s : State) (i : Instr) : State := { s with pending := i :: s.pending }

/-- One step. -/
def step (s : State) : Host.Outcome State Fault Refusal :=
  match s.pending with
  | i :: _ => exec i s.rest
  | [] => .next (idle s)

/-- The command that a word of the opcode table spells, put at the front of the queue; the table gives no bits, so none. -/
def State.withFetchWord (s : State) (nbits w : Nat) : State :=
  match decodeTableWord nbits w with
  | some i => s.push i
  | none => s

end Sys2Proof.Machine
end

