-- ==== Sys2Proof/WellFormed.lean ====
section
/-! DEFINITION. Which terms are commands that can come: what the operands' types do not already say. The meanings take every term; a
term that is not well-formed stands for nothing that reaches the device. -/
namespace Sys2Proof

/-- Byte i of a message's header word. -/
def MsgIn.byte (m : MsgIn) (i : Nat) : Nat := (m.hdr.getD i 0#8).toNat

/-- A message: a header word of 32 bytes whose byte 0 is its type, and at most 16 data words of 32 bytes each (R273, Table 9-8). -/
def MsgIn.wf (m : MsgIn) (mtype : Nat) : Bool :=
  m.hdr.length == 32 && m.byte 0 == mtype && m.data.length ≤ 16 && m.data.all (fun w => w.1.length == 32)

/-- The link that a message comes on: a Sweul port, or a bulk peer by its device ID (R489). -/
def linkOk (key : Nat) : Bool := key < 32 || (0x10000 ≤ key && key < 0x30000)

/-- A dictionary request: its fields fit their places (Table 15-3), and its data is as long as it says. -/
def DReq.wf (d : DReq) : Bool :=
  d.tag < 256 && d.idx < 65536 && d.sub < 256 && d.flags < 256 && d.off < 2 ^ 32 && d.len < 2 ^ 32 && d.data.length == d.len

/-- The KIND of the order that a signed request carries. -/
def kindIs (k : Nat) (b : List Byte) : Bool := (b.getD 130 0#8).toNat == k

/-- Sizes of an access to BAR0. -/
def sizeOk (n : Nat) : Bool := n == 1 || n == 2 || n == 4 || n == 8

/-- The Almanac's readings: 66 physical cells, 66 junctions, 4 I/O dies, 12 stacks. -/
def AlmIn.wf (x : AlmIn) : Bool := x.cells.length == 66 && x.junc.length == 66 && x.io.length == 4 && x.hbms.length == 12

/-- An index that a failed unit of a stage can have (Table 18-9). -/
def failIxOk (stage unit i : Nat) : Bool :=
  match unit with
  | 1 => i < 10
  | 3 => if stage == 1 then i == 0 else 1 ≤ i && i ≤ 12
  | 6 => i < 66
  | 7 => i < 12
  | 8 => i < 66 || (0x80 ≤ i && i < 0x8C)
  | _ => i == 0xFF

/-- A stage's end names stages 1 to 6 (Table 18-8), a unit's own index, cells 0 to 65 and lanes of 12 stacks. -/
def StageEnd.wf (stage : Nat) (r : StageEnd) : Bool :=
  r.fail.all (fun f => failIxOk stage f.1 f.2) && 1 ≤ stage && stage ≤ 6 && r.cells.all (fun p => p < 66) && r.lanes.all (fun l => l.1 < 384)

/-- The command can come. -/
def Instr.wf (i : Instr) : Bool :=
  match i with
  | .scrub a _ => a % 32 == 0
  | .registerWrite _ off size _ => sizeOk size && off % size == 0
  | .unmappedAccess _ bar _ size _ => (bar == 0 || bar == 2 || bar == 4) && size != 0
  | .bar2Read _ _ n => n != 0
  | .bar2Write _ _ b => b.length != 0
  | .windowTimeout src _ => src < 65536
  | .frameRx _ l => l.length == 4
  | .hello _ b => b.length == 224
  | .sweulWrite k m => linkOk k && m.wf 0x01
  | .sweulRead k m => linkOk k && m.wf 0x02
  | .sweulAtomic k m => linkOk k && m.wf 0x03
  | .signal k m => linkOk k && m.wf 0x04
  | .ack k m => linkOk k && m.wf 0x08
  | .readData k m => linkOk k && m.wf 0x09
  | .refuse k m => linkOk k && m.wf 0x0A
  | .retry k m => linkOk k && m.wf 0x0B
  | .drvCount k m => linkOk k && m.wf 0x28
  | .millPart k m => linkOk k && m.wf 0x30
  | .millRes k m => linkOk k && m.wf 0x31
  | .millVote k m => linkOk k && m.wf 0x32
  | .millVerdict k m => linkOk k && m.wf 0x33
  | .millSealUp k m => (linkOk k || k == 0xFFFF) && m.wf 0x34
  | .millSealDown k m => (linkOk k || k == 0xFFFF) && m.wf 0x35
  | .millNak k m => linkOk k && m.wf 0x36
  | .ledgerFold k m => linkOk k && m.wf 0x50
  | .rcvReady k m => linkOk k && m.wf 0x51
  | .rcvResume k m => linkOk k && m.wf 0x52
  | .rcvRestoreUp k m => linkOk k && m.wf 0x53
  | .rcvRestoreDown k m => linkOk k && m.wf 0x54
  | .shadowRsp k m => linkOk k && m.wf 0x55
  | .shadowFold k m => linkOk k && m.wf 0x56
  | .mirrorState k m => linkOk k && m.wf 0x57
  | .xferDone k m => linkOk k && m.wf 0x58
  | .orderResume _ _ b => kindIs 1 b
  | .orderTakeover _ _ b => kindIs 2 b
  | .orderDonor _ _ b => kindIs 3 b
  | .orderPattern _ _ b => kindIs 4 b
  | .orderShadow _ _ b => kindIs 5 b
  | .orderCheckpoint _ _ b => kindIs 6 b
  | .orderRestore _ _ b => kindIs 7 b
  | .jobStartWrite _ _ idx sub _ => idx == 0x5401#16 && 1 ≤ sub.toNat && sub.toNat ≤ 4
  | .read _ d => d.wf
  | .write _ d _ => d.wf
  | .describe _ d => d.wf
  | .next _ d => d.wf
  | .xwStart _ d => d.wf
  | .xwSeg _ d => d.wf
  | .xrStart _ d => d.wf
  | .xrSeg _ d => d.wf
  | .xabort _ d => d.wf
  | .subscribe _ d => d.wf
  | .evread _ d => d.wf
  | .evack _ d => d.wf
  | .almanacUpdate x => x.wf
  | .bootStageEnd st r => r.wf st.val
  | .nop .. => true
  | .stepmark .. => true
  | .loop .. => true
  | .cnt .. => true
  | .cmp .. => true
  | .hpush .. => true
  | .flag .. => true
  | .wait .. => true
  | .mma .. => true
  | .ucommit .. => true
  | .vpub .. => true
  | .udone .. => true
  | .vote .. => true
  | .vrel .. => true
  | .setlen .. => true
  | .ldt .. => true
  | .stt .. => true
  | .card .. => true
  | .red .. => true
  | .zmap .. => true
  | .tbl .. => true
  | .move .. => true
  | .rsig .. => true
  | .ratom .. => true
  | .drvSubmit .. => true
  | .drvSend .. => true
  | .drvClose .. => true
  | .millRs .. => true
  | .millAg .. => true
  | .millAr .. => true
  | .millBc .. => true
  | .streamFetch .. => true
  | .commandCommit .. => true
  | .commandComplete .. => true
  | .counterLoad .. => true
  | .loomChunk .. => true
  | .loomDrain .. => true
  | .droverSelection .. => true
  | .drvSendDone .. => true
  | .waitTimeout .. => true
  | .deadlockDetector => true
  | .canaryRun .. => true
  | .canaryCheck .. => true
  | .ringPause .. => true
  | .ringResume .. => true
  | .abort .. => true
  | .resume .. => true
  | .clrSticky .. => true
  | .doorbell .. => true
  | .ringConfigWrite .. => true
  | .headWrite .. => true
  | .exlogRdWrite .. => true
  | .hopCfgWrite .. => true
  | .vtCtlWrite .. => true
  | .winCtlWrite .. => true
  | .hostSig .. => true
  | .hwmClr .. => true
  | .tallyClrIssued .. => true
  | .tallyClrWaitcyc .. => true
  | .tallyClrLost .. => true
  | .cellDtabWrite .. => true
  | .dictGo .. => true
  | .post .. => true
  | .hashingDone .. => true
  | .stepOpen => true
  | .stepComputed => true
  | .voteTimeout => true
  | .sealTimeout => true
  | .rollbackDone => true
  | .millTimeout .. => true
  | .remoteTimeout .. => true
  | .remoteResend .. => true
  | .frameTx .. => true
  | .retryTimer .. => true
  | .portLos .. => true
  | .portTrained .. => true
  | .helloResend .. => true
  | .helloTimeout .. => true
  | .recoveryReady => true
  | .copyFrontUnit .. => true
  | .cowReadDone => true
  | .plan .. => true
  | .jobRegistration .. => true
  | .jobRelease .. => true
  | .patchImage .. => true
  | .activationRequest .. => true
  | .patchSelfCheck .. => true
  | .debugToken .. => true
  | .roleRetire .. => true
  | .endpointTableWrite .. => true
  | .transferTimeout .. => true
  | .stewardWatchdog .. => true
  | .getVersion .. => true
  | .getCapabilities .. => true
  | .negotiateAlgorithms .. => true
  | .getDigests .. => true
  | .getCertificate .. => true
  | .challenge .. => true
  | .getMeasurements .. => true
  | .keyExchange .. => true
  | .finish .. => true
  | .heartbeat .. => true
  | .keyUpdate .. => true
  | .endSession .. => true
  | .vendorDefinedRequest .. => true
  | .unsupportedRequest .. => true
  | .bulkOpen .. => true
  | .bulkAccept .. => true
  | .bulkData .. => true
  | .bulkAck .. => true
  | .bulkClose .. => true
  | .bulkAckTimer .. => true
  | .bulkResendTimer .. => true
  | .peerTimeout .. => true
  | .committed .. => true
  | .data .. => true
  | .endShard .. => true
  | .iwrite .. => true
  | .ipost .. => true
  | .ethFrameRx .. => true
  | .ethLinkDown .. => true
  | .ethLinkUp .. => true
  | .pcieLinkDown => true
  | .pcieLinkUp .. => true
  | .perstN .. => true
  | .powerOn => true
  | .sysRstNAssert => true
  | .sysRstNRelease => true
  | .supplyLow .. => true
  | .supplyRestored => true
  | .refclkLoss => true
  | .refclkRestored => true
  | .pllLoss .. => true
  | .pwrcapAssert => true
  | .pwrcapLate => true
  | .pwrcapRelease => true
  | .avsRead .. => true
  | .dutyRamp => true
  | .galeHoldRelief .. => true
  | .svcBtnRelease .. => true
  | .svcButtonStuck => true
  | .trayLatch .. => true
  | .portPresHigh .. => true
  | .portPresLow .. => true
  | .portSignalDetect .. => true
  | .laneSignalLoss .. => true
  | .meteredChunkStart .. => true
  | .teeCreditTimeout => true
  | .svcBtnPress => true
  | .svcBtnHeld .. => true
  | .identifyEnd => true
  | .pllRelock .. => true
  | .sidebandBusReset => true
  | .mctpEndpointIdAssigned .. => true
  | .msixVectorUnmask .. => true
  | .configSpaceWrite .. => true
  | .debugPortAccess .. => true

end Sys2Proof
end

