-- ==== Sys2Proof/Safety.lean ====
section
/-! DEFINITION. What the statements about the block say in common: when a unit runs, when a request reaches a register, when a stream
is free to issue, and the invariant of memory. -/
namespace Sys2Proof.Machine

/-- Memory is in its canonical form: addresses strictly rising, no byte listed that an unlisted address reads as. -/
def State.Canonical (s : State) : Prop := Memory.wf s.mem = true

/-- Requests of the host, in a Secure IDE stream or not, are served: the link is up, the function is in D0, and IDE is not required
or the request is Secure (R478, R479). -/
def HostOk (s : State) (secure : Bool) : Prop :=
  s.board.pcieUp = true ∧ s.host.d3 = false ∧ (oget s 0x2041 1 = 1 → inSecure s secure = true)

/-- A request that arrives well reaches a run-time register of a READY device (R471, R496, R529). -/
def Reaches (s : State) (src : Src) : Prop :=
  isReady s = true ∧
    match src with
    | .carter => True
    | .host secure tlp => tlp = .good ∧ HostOk s secure

/-- Nothing stands before a command that comes at HEAD of stream k of cell c: the stream is live, its cell runs, and it holds no
command, loop or load. -/
structure StreamFree (s : State) (c k : Nat) : Prop where
  ok     : (getStrm s c k).broken = none
  live   : (getStrm s c k).mode = .live
  queue  : (getStrm s c k).queue = []
  nxt    : (getStrm s c k).nxt = 0
  loops  : (getStrm s c k).loops = []
  skip   : (getStrm s c k).skip = 0
  win    : (getStrm s c k).win = []
  fly    : (getStrm s c k).fly = []
  loads  : (getStrm s c k).loads = []
  runs   : (getCell s c).paused = false
  mark   : markOut s c k = false

/-- A command's header lets it issue: no gate drops it, and the weather does not hold it (R150, R394, R395). -/
structure HeaderGoes (s : State) (c k : Nat) (h : Hdr) : Prop where
  gate    : gateBad h.gate = false
  open_   : gateDrops (getStrm s c k) h.gate = false
  weather : h.crit = 1#1 ∨ (s.alm.late = false ∧ cellWeather s c < 2)

/-- The row of a stream command. -/
def opInstr (c : CellIx) (st : Strm) (h : Hdr) : Op → Instr
  | .nop => .nop c st h
  | .stepmark f => .stepmark c st h f
  | .loop f => .loop c st h f
  | .cnt f => .cnt c st h f
  | .cmp f => .cmp c st h f
  | .hpush f => .hpush c st h f
  | .flag f => .flag c st h f
  | .wait f => .wait c st h f
  | .mma f => .mma c st h f
  | .ucommit f => .ucommit c st h f
  | .vpub f => .vpub c st h f
  | .udone f => .udone c st h f
  | .vote => .vote c st h
  | .vrel f => .vrel c st h f
  | .setlen vl rl => .setlen c st h vl rl
  | .ldt f => .ldt c st h f
  | .stt f => .stt c st h f
  | .card f => .card c st h f
  | .red f => .red c st h f
  | .zmap f => .zmap c st h f
  | .tbl f => .tbl c st h f
  | .move f => .move c st h f
  | .rsig f => .rsig c st h f
  | .ratom f => .ratom c st h f
  | .drvSubmit f => .drvSubmit c st h f
  | .drvSend f => .drvSend c st h f
  | .drvClose f => .drvClose c st h f
  | .millRs f => .millRs c st h f
  | .millAg f => .millAg c st h f
  | .millAr f => .millAr c st h f
  | .millBc f => .millBc c st h f

/-- A command that comes at HEAD of a stream that holds nothing, as it stands in the queue. -/
def headCmd (s : State) (c k : Nat) (h : Hdr) (op : Op) : QCmd :=
  { pos := (getStrm s c k).head, hdr := h, op := some op, mill := (millFields op).map (fun o => (o.group.toNat, o.cseq.toNat))
    body := match op with
      | .loop f => f.body.toNat + 1
      | _ => 0 }

/-- The stream with that command fetched and waiting (R191). -/
def atHead (s : State) (c k : Nat) (h : Hdr) (op : Op) : Stream :=
  let y := getStrm s c k
  let n := (y.head + 1) % 2 ^ y.log2
  { y with queue := [headCmd s c k h op], head := n, tail := if y.head = y.tail then n else y.tail }

/-- The stream with that command fetched and issued (R191, R505). -/
def issuedOne (s : State) (c k : Nat) : Stream :=
  let y := getStrm s c k
  let n := (y.head + 1) % 2 ^ y.log2
  { y with head := n, tail := (if y.head = y.tail then n else y.tail), nextId := y.nextId + 1, decN := y.decN + 1,
           issued := perfAdd y.issued 1, held := false, relieved := false, shown := none }

/-- The stream after a command that completes as it issues: no position ahead of it is remembered (R223). -/
def taken (s : State) (c k : Nat) : Stream := { issuedOne s c k with ahead := [] }

/-- A command at HEAD issues and does not fault at issue: its unit runs, nothing stands before it, its header lets it go, it is not
malformed, and its hoppers are its stream's (R150, R195, R198, R394, R529); nothing waits to be written through;
no other stream of its cell presents a command that the arbiter could take. -/
structure Issues (s : State) (c k : Nat) (h : Hdr) (op : Op) : Prop where
  ready  : isReady s = true
  free   : StreamFree s c k
  goes   : HeaderGoes s c k h
  form   : issueBad s k (getStrm s c k) (headCmd s c k h op) op = false
  hops   : (opAcc s op).any (fun a => !accOwned s c k a) = false
  quiet  : s.wtq = []
  alone  : rivals regRead s c k = []

/-- The step a command names by its parity: UDONE an unsealed one, a gated command the one that its stream's step tells (R124, R129);
0 of a command that names none. -/
def stepNamed (s : State) (step : Nat) (op : Op) : Option Nat :=
  match op with
  | .udone p => (stepOfPar s p.toNat).map StepSt.num
  | _ => match parOf op with
    | some p => gateStep s step p
    | none => some 0

/-- The command in flight and the state as it enters the pipeline: its hopper numbers are taken (R199), and a command that names a
step by its parity has one (R129). None while it waits for a push place, a place among the Mill's commands, or, at the lathe, for the
descriptors of its panels (R199, R303, assumption log 24). -/
def launched (s : State) (c k : Nat) (h : Hdr) (op : Op) : Option (State × Fly) :=
  let y := getStrm s c k
  match stepNamed s y.step op with
  | none => none
  | some g =>
    if isMill op && decide (millInFlight s ≥ 16) then none
    else match reserve s c (opAcc s op) 0 with
      | none => none
      | some (u, acc) =>
        let acc := match op with
          | .mma _ => numberPeeks .hb (numberPeeks .ha acc 0) 0
          | _ => acc
        if isLathe op && acc.any (fun (a : HAcc) => a.kind != .push && (accDesc u c a).isNone) then none
        else
          let f := { newFly s c y (headCmd s c k h op) op acc with gstep := g }
          some (setStrm (modCell u c (fun x => { x with issueN := x.issueN + 1 })) c k { issuedOne s c k with fly := [f] }, f)

/-- No other stream of the cell holds a lathe command that has still to run (R170). -/
def LatheFree (s : State) (c k : Nat) : Prop :=
  ∀ q, q < 4 → q ≠ k → ∀ g ∈ (getStrm s c q).fly, isLathe g.op = true → g.committed = true

/-- Nothing waits to be written into memory: no front runs and no write waits for one (R359). -/
def NoFronts (s : State) : Prop := s.fronts = [] ∧ s.pendW = []

/-- What the Ledger writes is kept here alone: no mirror and no tee takes it, no front runs, nothing of it is out, and no action of
it waits for an acknowledgement (R355, R370). -/
structure LedgerQuiet (s : State) : Prop where
  free   : NoFronts s
  mirror : mirrorOn s = false
  tee    : s.tee = none
  wtq    : s.wtq = []
  out    : ldgOut s = false
  done   : ledgerSettle s = s

/-- The command at HEAD is in flight with its work done: COMMAND_COMPLETE completes it (R197). -/
def WorkDone (t : State) (c k : Nat) : Prop :=
  ∃ z, (getStrm t c k).fly = [z] ∧ z.committed = true ∧ z.done = true ∧ (getStrm t c k).mode = .live

/-- A stream that has stopped on a fault at issue: HALTED, with the cause and the ring index of the command (R220, R225). -/
def HaltedAt (s t : State) (c k cause : Nat) : Prop :=
  (getStrm t c k).mode = .halted ∧ (getStrm t c k).cause = cause ∧ (getStrm t c k).haltPos = (getStrm s c k).head ∧
    (getStrm t c k).ctr = (getStrm s c k).ctr ∧ t.mem = s.mem

/-- A message of a type answers the request m: it stands in the queue of some link, toward m's source, with m's tracker entry
(R275, Table 9-9). -/
def Replied (t : State) (m : Msg) (mtype spec : Nat) (data : List DWord) : Prop :=
  ∃ q, ∃ r ∈ tget [] t.txq q, r.mtype = mtype ∧ r.dst = m.src ∧ r.trk = m.trk ∧ r.tgen = m.tgen ∧ r.spec = spec ∧ r.data = data

/-- A request or response comes by a link and passes the common checks (R274, R276) as m; u is the state with it taken in. -/
structure Arrives (s : State) (key mtype : Nat) (x : MsgIn) (u : State) (m : Msg) : Prop where
  serves : serving s = true
  checks : gate s key mtype x false = .take u m
  role   : isShadow s = false

/-- A response answers the tracker entry w of a command f, which is in flight in a live stream and waits for nothing else. -/
structure AnswersFly (u : State) (m : Msg) (w : Trk) (f : Fly) : Prop where
  entry  : trkOf u m = some w
  kind   : w.kind = 0
  cell   : w.cell < 64
  live   : (getStrm u w.cell w.strm).mode = .live
  only   : (getStrm u w.cell w.strm).fly = [f]
  named  : f.id = w.fly
  sent   : f.stalled = []
  tee    : u.tee = none

/-- The stream has stopped at the command in flight f with a cause (R220). -/
def HaltedBy (t : State) (w : Trk) (f : Fly) (cause : Nat) : Prop :=
  (getStrm t w.cell w.strm).mode = .halted ∧ (getStrm t w.cell w.strm).cause = cause ∧
    (getStrm t w.cell w.strm).haltPos = f.pos ∧ (getStrm t w.cell w.strm).fly = []

/-- A message of the Mill, the Ledger or recovery comes by a link, passes the common checks (R274, R276) as m, and neither a restore nor a
tee is concerned. -/
structure Comes (s : State) (key mtype : Nat) (x : MsgIn) (m : Msg) : Prop where
  serves  : serving s = true
  link    : key ≠ selfKey
  checks  : gate s key mtype x true = .take s m
  restore : s.rcv.restore = none
  tee     : s.tee = none
  role    : isShadow s = false

/-- Such a message passes R313 too: it is of the current epoch and of group g. -/
def ForGroup (s : State) (key : Nat) (m : Msg) (g : MGroup) : Prop := millChecks (takeRx s key m) key m = .group g

/-- A recovery message of the current epoch comes and passes every check before its handler (R274, R276, R313, R375). -/
structure ComesNow (s : State) (key mtype : Nat) (x : MsgIn) (m : Msg) : Prop where
  serves : serving s = true
  link   : key ≠ selfKey
  checks : gate s key mtype x true = .take s m
  drops  : restoreDrops s m = false
  tee    : s.tee = none
  role   : isShadow s = false
  epoch  : mEpoch m = s.epoch

/-- A message of the tee comes to a shadow and passes those checks; it counts as come by the link k (R370). -/
structure TeeComes (s : State) (key mtype k : Nat) (x : MsgIn) (m : Msg) : Prop where
  serves : serving s = true
  link   : key ≠ selfKey
  checks : gate s key mtype x true = .take s m
  drops  : restoreDrops s m = false
  tee    : s.tee = none
  role   : isShadow s = true
  by_    : effKey s key m = k
  epoch  : mEpoch m = s.epoch

/-- A dictionary endpoint takes requests: it is up, and no self-check of an image is awaited (R420, R447). -/
def EpServes (s : State) (ep : Nat) : Prop := (getEp s ep).up = true ∧ s.lock.running = none

/-- The answer of an endpoint: in the response buffer of the host window, on the MANAGER session's queue, or among what the device
sends (R446, R464). -/
def Answered (t : State) (ep : Nat) (bs : List Byte) : Prop :=
  if ep = 1 then t.host.rspBuf = bs else if ep = 3 then bs ∈ t.mgmtTx else .dict ep bs ∈ t.outbox

/-- A whole value's answer: status, and nothing else (Table 15-3). -/
def WholeAnswer (t : State) (ep : Nat) (tag : Byte) (idx sub st : Nat) : Prop :=
  Answered t ep (dictHdr 0x11 tag.toNat st idx sub 1 0 0)

/-- The payload of a signed request (Table 14-7). -/
def signedPayload (b : List Byte) : List Byte := lslice b 128 (fieldLe b 12 4)

/-- A signed request that passes Table 14-8 and is no repeat of the last one. -/
def GoodRequest (s : State) (idx sub : Nat) (b : List Byte) : Prop := reqCheck s idx sub b = 0 ∧ s.lock.lastReq ≠ b

/-- What a refused request or order leaves as it was. -/
def Untouched (s t : State) : Prop :=
  t.mem = s.mem ∧ t.cells = s.cells ∧ t.steps = s.steps ∧ t.plan = s.plan ∧ t.epoch = s.epoch ∧ t.holding = s.holding ∧
    t.roll = s.roll ∧ t.lock.jok = s.lock.jok ∧ t.lock.lastReq = s.lock.lastReq

end Sys2Proof.Machine
end

