-- ==== Sys2Proof/Certificates/Slice0/Obligations.lean ====
section
/-! DEFINITION. The statements about the block. -/
open Sys2Proof Sys2Proof.Machine

/-! The queue. -/

/-- Assumption log 50 apart, a step is the meaning of the command at the front of the queue; on an empty queue what the bulk transport may
send leaves. -/
def Obligations.StepRunsFront : Prop :=
  (∀ (i : Instr) (s : State), step (s.push i) = exec i { s with pending := s.pending }) ∧
    ∀ s : State, s.pending = [] → step s = .next (idle s)

/-- Memory keeps its canonical form (assumption log 3): a step of any command, from any state that has it, leaves it. -/
def Obligations.StepKeepsCanonical : Prop := ∀ s t : State, s.Canonical → step s = .next t → t.Canonical

/-- After reset memory lists nothing, no command waits, the boot has not begun (R525), every port is DOWN (R257), nothing is READY or
served, and every object reads its default (R441). -/
def Obligations.ResetState : Prop :=
  State.reset.Canonical ∧ State.reset.mem = [] ∧ State.reset.pending = [] ∧ isReady State.reset = false ∧ serving State.reset = false ∧
    State.reset.steps = [] ∧ State.reset.plan = none ∧ State.reset.lock.jok = none ∧ oget State.reset 0x2060 1 = 0 ∧
    State.reset.board.cause = 0 ∧
    (∀ p : PortIx, portState State.reset p.val = 0) ∧ (∀ i j, oget State.reset i j = objDefault i j) ∧
    ∀ (c : CellIx) (st : Strm), (getStrm State.reset c.val (ixOf st)).queue = [] ∧ (getStrm State.reset c.val (ixOf st)).fly = []

/-! Words of stream commands. -/

/-- R193, R205: the word of a stream command decodes to the command, every field at every value; and a word that decodes to a command
is the word of that command alone. -/
def Obligations.CommandWordsAgree : Prop :=
  (∀ (h : Hdr) (op : Op), decodeCmd (encodeCmd h op) = (h, some op)) ∧
  (∀ (n : Nat) (h : Hdr) (op : Op), n < 2 ^ 128 → decodeCmd n = (h, some op) → encodeCmd h op = n)

/-- R193, R205, Tables 7-1, 7-5, 7-6, 10-4: words written out from the tables decode to the commands they stand for; an opcode that Table
7-2 does not list, and a reserved bit that is set, decode to none. -/
def Obligations.CommandWordSamples : Prop :=
  decodeCmd 0x0700 = (⟨3#2, 1#1, 0#3⟩, some .nop) ∧
  decodeCmd (0x01 + 5 * 2 ^ 32) = (⟨0#2, 0#1, 0#3⟩, some (.stepmark 5#32)) ∧
  decodeCmd (0x10 + 2 ^ 16 + 2 ^ 17 + 56 * 2 ^ 18 + 7 * 2 ^ 32) =
    (⟨0#2, 0#1, 0#3⟩, some (.flag ⟨1#1, 1#1, 56#8, 0#3, 0#1, 7#32⟩)) ∧
  decodeCmd (0x31 + 2 ^ 17 + 63 * 2 ^ 21) = (⟨0#2, 0#1, 0#3⟩, some (.vpub ⟨1#1, 63#6⟩)) ∧
  decodeCmd (0x41 + 15 * 2 ^ 16 + 255 * 2 ^ 20 + 2 ^ 28 + 3 * 2 ^ 29 + 2 ^ 31 + 30 * 2 ^ 32) =
    (⟨0#2, 0#1, 0#3⟩, some (.ldt ⟨15#4, 255#8, 1#1, 3#2, 1#1, 30#5⟩)) ∧
  decodeCmd (0x50 + 4 * 2 ^ 11 + 1 * 2 ^ 32 + 2 * 2 ^ 37 + 3 * 2 ^ 42 + 2 ^ 47 + 2 * 2 ^ 48 + 9 * 2 ^ 64 + 5 * 2 ^ 84) =
    (⟨0#2, 0#1, 4#3⟩, some (.move ⟨1#5, 2#5, 3#5, 1#1, 2#2, 9#20, 5#18⟩)) ∧
  (decodeCmd 0x06).2 = none ∧ (decodeCmd (0x32 + 2 ^ 16)).2 = none

/-! Registers (16, 17). -/

/-- R505: each TALLY_CLR bit clears its tally and nothing else of the stream. -/
def Obligations.TallyClears : Prop :=
  ∀ (s : State) (src : Src) (c : CellIx) (st : Strm), Reaches s src →
    exec (.tallyClrIssued src c st) s = .next (setStrm s c.val (ixOf st) { getStrm s c.val (ixOf st) with issued := 0 }) ∧
    exec (.tallyClrLost src c st) s = .next (setStrm s c.val (ixOf st) { getStrm s c.val (ixOf st) with exLost := 0 }) ∧
    exec (.tallyClrWaitcyc src c st) s = .next (setStrm s c.val (ixOf st) { getStrm s c.val (ixOf st) with waitcyc := 0 })

/-- R498, R499: HWM_CLR sets the mark to the occupancy; a host write of HOST_SIG sets or adds to the flag's parity PAR and leaves every
other device flag; a carter's write does nothing. -/
def Obligations.TrackerMarkAndHostSignal : Prop :=
  ∀ (s : State) (src : Src) (v : BitVec 64), Reaches s src →
    exec (.hwmClr src) s = .next { s with trkHwm := s.trk.length } ∧
    ∃ t, exec (.hostSig src v) s = .next t ∧
      (src = .carter → t = s) ∧
      (∀ f p : Nat, f < 64 → p < 2 →
        getFlag t 0 true f p =
          if fromHost src = true ∧ f = v.toNat % 64 ∧ p = v.toNat / 128 % 2 then
            (if v.toNat / 64 % 2 = 1 then getFlag s 0 true f p + BitVec.ofNat 32 (v.toNat / 2 ^ 32)
             else BitVec.ofNat 32 (v.toNat / 2 ^ 32))
          else getFlag s 0 true f p) ∧
      t.mem = s.mem ∧ t.cells = s.cells

/-- R502: RING_BASE and RING_CFG are taken while STATE is HALTED or ABORTED, or IDLE with HEAD = TAIL = RETAIN, and set HEAD, TAIL (the
doorbell's TAIL) and RETAIN to 0; a RING_LOG2 outside 8 to 20 is ignored; HEAD is taken while STATE is HALTED or ABORTED; an ignored
write sets BAD, and counts in 0x2040:09 when the host made it. R503: a write of EXLOG_RD moves it within the records written, and is
ignored otherwise. -/
def Obligations.RingAndLogRegisters : Prop :=
  (∀ (s : State) (src : Src) (c : CellIx) (st : Strm) (v : BitVec 64), Reaches s src →
      let k := ixOf st
      let x := getStrm s c.val k
      let stopped := strmState s c.val k = 4 ∨ strmState s c.val k = 5
      let free := stopped ∨ (strmState s c.val k = 0 ∧ x.head = x.tail ∧ x.head = retainOf s x)
      let cleared (t : State) : Prop := (getStrm t c.val k).head = 0 ∧ (getStrm t c.val k).tail = 0 ∧
        (x.fly = [] → retainOf t (getStrm t c.val k) = 0) ∧ (getStrm t c.val k).bad = false ∧ t.mem = s.mem ∧
        oget t 0x2040 9 = oget s 0x2040 9
      let ignored (t : State) : Prop := getStrm t c.val k = { x with bad := true } ∧ t.mem = s.mem ∧
        oget t 0x2040 9 = if fromHost src = true then errAdd (oget s 0x2040 9) 1 else oget s 0x2040 9
      (free →
        (∃ t, exec (.ringConfigWrite src c st false v) s = .next t ∧ cleared t ∧
          (getStrm t c.val k).base = v.toNat / 4096 % 2 ^ 36 * 4096 ∧ (getStrm t c.val k).log2 = x.log2) ∧
        (8 ≤ v.toNat % 32 → v.toNat % 32 ≤ 20 →
          ∃ t, exec (.ringConfigWrite src c st true v) s = .next t ∧ cleared t ∧
            (getStrm t c.val k).log2 = v.toNat % 32 ∧ (getStrm t c.val k).base = x.base)) ∧
      (∀ cfg : Bool, ¬ free ∨ (cfg = true ∧ ¬ (8 ≤ v.toNat % 32 ∧ v.toNat % 32 ≤ 20)) →
        ∃ t, exec (.ringConfigWrite src c st cfg v) s = .next t ∧ ignored t) ∧
      (stopped →
        ∃ t, exec (.headWrite src c st v) s = .next t ∧ (getStrm t c.val k).head = v.toNat % 2 ^ 20 % 2 ^ x.log2 ∧
          (getStrm t c.val k).tail = x.tail ∧ (getStrm t c.val k).bad = false ∧ t.mem = s.mem) ∧
      (¬ stopped → ∃ t, exec (.headWrite src c st v) s = .next t ∧ ignored t)) ∧
  (∀ (s : State) (src : Src) (c : CellIx) (st : Strm) (v : BitVec 64), Reaches s src →
      let x := getStrm s c.val (ixOf st)
      exec (.exlogRdWrite src c st v) s = .next (setStrm s c.val (ixOf st) { x with exRd :=
        if (v.toNat % 2 ^ 32 + 2 ^ 32 - x.exRd) % 2 ^ 32 ≤ (x.exWr + 2 ^ 32 - x.exRd) % 2 ^ 32 then v.toNat % 2 ^ 32 else x.exRd }))

/-- R475: a doorbell moves TAIL forward from RETAIN in whatever state the stream is, and fetching goes on to the new TAIL when the stream
runs; any other is ignored and counted in 0x2040:09. -/
def Obligations.DoorbellMovesTail : Prop :=
  ∀ (s : State) (sec : Bool) (c : CellIx) (st : Strm) (v : BitVec 32), isReady s = true → HostOk s sec →
    let x := getStrm s c.val (ixOf st)
    let n := 2 ^ x.log2
    let new := v.toNat % 2 ^ 20 % n
    let r := retainOf s x % n
    ((x.tail + n - r) % n ≤ (new + n - r) % n →
      exec (.doorbell (.host sec .good) c st v) s = .next (setStrm s c.val (ixOf st) { x with tail := new }) ∧
      (x.mode = .live → x.head < n →
        let k := (new + n - x.head) % n
        x.queue.length + x.win.length + k ≤ 512 →
        exec (.streamFetch c st) (setStrm s c.val (ixOf st) { x with tail := new }) =
          .next (hbmSeen (setStrm (setStrm s c.val (ixOf st) { x with tail := new }) c.val (ixOf st) { x with
            tail := new, head := new,
            queue := x.queue ++ (List.range k).map (fun i =>
              qcmdOf (pendView (setStrm s c.val (ixOf st) { x with tail := new })) { x with tail := new } ((x.head + i) % n)) })))) ∧
    (¬ (x.tail + n - r) % n ≤ (new + n - r) % n →
      ∃ t, exec (.doorbell (.host sec .good) c st v) s = .next t ∧ t.cells = s.cells ∧ t.mem = s.mem ∧
        oget t 0x2040 9 = errAdd (oget s 0x2040 9) 1)

/-- R198, R501: HOP_CFG is taken only while its hopper is empty and unreserved; CELL_DTAB above 191 is ignored. R119: while a
version-table entry is enabled a write changes EN alone, and that only when nothing refers to the entry; the other registers are
written only while EN is 0. -/
def Obligations.CellConfiguration : Prop :=
  (∀ (s : State) (src : Src) (c : CellIx) (v : BitVec 64), Reaches s src →
      (∀ h : HopIx, (hopIdle s c.val h.val = true →
          ∃ t, exec (.hopCfgWrite src c h v) s = .next t ∧
            getHop t c.val h.val = { getHop s c.val h.val with prod := v.toNat % 4, cons := v.toNat / 4 % 4,
                                                               en := decide (v.toNat / 16 % 2 = 1) } ∧
            t.mem = s.mem) ∧
        (hopIdle s c.val h.val = false →
          ∃ t, exec (.hopCfgWrite src c h v) s = .next t ∧ getHop t c.val h.val = getHop s c.val h.val)) ∧
      (v.toNat / 2 ^ 16 % 256 ≤ 191 →
        exec (.cellDtabWrite src c v) s = .next (modCell s c.val (fun x => { x with dtab := v.toNat / 2 ^ 16 % 256 }))) ∧
      (191 < v.toNat / 2 ^ 16 % 256 → exec (.cellDtabWrite src c v) s = .next s)) ∧
  (∀ (s : State) (src : Src) (c : CellIx) (e : VtIx) (reg : Fin 6) (v : BitVec 64), Reaches s src →
      let x := getVt s c.val e.val
      ∃ t, exec (.vtCtlWrite src c e reg v) s = .next t ∧ t.mem = s.mem ∧ t.objs = s.objs ∧
        (∀ d : VtIx, d ≠ e → getVt t c.val d.val = getVt s c.val d.val) ∧
        (x.en = true → reg = 0 → x.ref0 = 0 → x.ref1 = 0 → x.held0 = [] → x.held1 = [] →
          getVt t c.val e.val = { x with en := decide (v.toNat % 2 = 1) }) ∧
        (x.en = true → (reg ≠ 0 ∨ x.ref0 ≠ 0 ∨ x.ref1 ≠ 0 ∨ x.held0 ≠ [] ∨ x.held1 ≠ []) → getVt t c.val e.val = x) ∧
        (x.en = false → reg = 1 →
          getVt t c.val e.val = { x with ver0 := v.toNat % 2 ^ 32, ver1 := v.toNat / 2 ^ 32 % 2 ^ 32 }))

/-- R472: the BAR2 window moves when it then lies wholly in HBM or wholly in larder scratch and its base is aligned to its size; otherwise
BAD is set and it stays. R473: a BAR2 read returns memory through the window and changes no memory. R473: a BAR2 write into
unprotected memory stores its bytes at BASE + offset and changes no other byte; into the journal, a mirror, a bank while a step is
unsealed, or no memory it changes none. -/
def Obligations.WindowAndBar2 : Prop :=
  (∀ (s : State) (src : Src) (v : BitVec 64), Reaches s src →
      let b := v.toNat / 2 ^ 30 % 2 ^ 18 * 2 ^ 30
      let n := 2 ^ s.host.winLog
      (b % n = 0 → (b + n ≤ hbmEnd ∨ (larderBase ≤ b ∧ b + n ≤ larderBase + 12 * 0x10000000)) →
        exec (.winCtlWrite src v) s = .next { s with host := { s.host with winBase := b, winBad := false } }) ∧
      (¬ (b % n = 0 ∧ (b + n ≤ hbmEnd ∨ (larderBase ≤ b ∧ b + n ≤ larderBase + 12 * 0x10000000))) →
        exec (.winCtlWrite src v) s = .next { s with host := { s.host with winBad := true } })) ∧
  (∀ (s : State) (sec : Bool) (off len : Nat), isReady s = true → HostOk s sec → off + len ≤ 2 ^ s.host.winLog →
      s.pendW = [] →
      (firstPoison s (s.host.winBase + off) len = none →
        exec (.bar2Read (.host sec .good) off len) s = .next (emit (hbmSeen s) (.cpl 0 (memRead s (s.host.winBase + off) len)))) ∧
      (∀ w, firstPoison s (s.host.winBase + off) len = some w →
        ∃ t, exec (.bar2Read (.host sec .good) off len) s = .next t ∧ t.mem = s.mem ∧ t.cells = s.cells ∧
          t.outbox.getLast? = some (.cpl 2 (memRead s (s.host.winBase + off) len)))) ∧
  (∀ (s : State) (sec : Bool) (off : Nat) (bs : List Byte), isReady s = true → HostOk s sec → s.Canonical →
      off + bs.length ≤ 2 ^ s.host.winLog → bs ≠ [] → inputSpan s (s.host.winBase + off) bs.length = none →
      let a := s.host.winBase + off
      ∃ t, exec (.bar2Write (.host sec .good) off bs) s = .next t ∧
        (∀ x, x < a ∨ a + bs.length ≤ x → memGet t x = memGet s x) ∧
        (mustPend s a bs.length = false → memOk s a bs.length = true → inJournal s a bs.length = false → inMirror s a bs.length = false →
          (inBank s a bs.length = false ∨ unsealed s = false) → ∀ i, i < bs.length → memGet t (a + i) = bs.getD i 0#8) ∧
        ((memOk s a bs.length = false ∨ inJournal s a bs.length = true ∨ inMirror s a bs.length = true ∨
          (inBank s a bs.length = true ∧ unsealed s = true)) → t.mem = s.mem ∧ oget t 0x2040 7 = errAdd (oget s 0x2040 7) 1))

/-- R471: an access that finds nothing is answered with Unsupported Request when it reads and dropped when it writes; both count in
0x2040:06. R494: a read that finds a register of BAR0 completes with its value, or with the half read. R495: a write of a register
without behaviour of its own changes nothing. R529, R471, R478: a unit that does not run yet does nothing: a stream's command has no effect before READY. A request that arrives malformed reaches no register, and is counted in
0x2040:06. -/
def Obligations.UnmappedAndNotReady : Prop :=
  (∀ (s : State) (sec : Bool), HostOk s sec →
      (∀ bar off size : Nat, barMapped s bar off size = false →
        (∃ t, exec (.unmappedAccess (.host sec .good) bar off size false) s = .next t ∧ t.mem = s.mem ∧ t.cells = s.cells ∧
          oget t 0x2040 6 = errAdd (oget s 0x2040 6) 1) ∧
        (∃ t, exec (.unmappedAccess (.host sec .good) bar off size true) s = .next t ∧ t.mem = s.mem ∧ t.cells = s.cells ∧
          oget t 0x2040 6 = errAdd (oget s 0x2040 6) 1 ∧ t.outbox.getLast? = some (.cpl 1 []))) ∧
      (∀ off size : Nat, barMapped s 0 off size = true →
        exec (.unmappedAccess (.host sec .good) 0 off size true) s = .next (emit s (.cpl 0 (bar0Bytes s off size)))) ∧
      (∀ (off : Nat) (v : BitVec 64), isReady s = true → 0x1800000 ≤ off → off < 0x1820000 → off % 8 = 0 →
        ∃ t, exec (.registerWrite (.host sec .good) off 8 v) s = .next t ∧ t.cells = s.cells ∧ t.mem = s.mem ∧ t.ports = s.ports ∧
          ∀ p, portState t p = portState s p)) ∧
  ((∀ (s : State) (c : CellIx) (st : Strm) (h : Hdr) (op : Op), isReady s = false →
      exec (opInstr c st h op) s = .next s ∧ exec (.streamFetch c st) s = .next s) ∧
    ∀ (s : State) (sec : Bool) (off : Nat) (v : BitVec 64), s.board.pcieUp = true →
      ∃ t, exec (.registerWrite (.host sec .malformed) off 8 v) s = .next t ∧ t.mem = s.mem ∧ t.cells = s.cells ∧ t.steps = s.steps ∧
        t.plan = s.plan ∧ oget t 0x2040 6 = errAdd (oget s 0x2040 6) 1)

/-- R476, R468: unmasking a vector whose bit is pending sends its message; a Resizable BAR size sets the window's size. -/
def Obligations.VectorsAndConfig : Prop :=
  ∀ (s : State) (sec : Bool), HostOk s sec →
    (∀ v : Fin 2048, msixHold s = false → s.msixPend = [v.val] →
      ∃ t, exec (.msixVectorUnmask (.host sec .good) v) s = .next t ∧ t.msixPend = [] ∧ t.outbox = s.outbox ++ [.msix v.val] ∧
        t.cells = s.cells ∧ t.mem = s.mem) ∧
    (∀ n : Nat, 30 ≤ n → n ≤ 36 → exec (.configSpaceWrite (.rebar n)) s = .next { s with host := { s.host with winLog := n } }) ∧
    (∀ n, n = 128 ∨ n = 256 ∨ n = 512 →
      exec (.configSpaceWrite (.maxPayload n)) s = .next { s with host := { s.host with mps := n } }) ∧
    (∀ r v : Nat, exec (.configSpaceWrite (.other r v)) s = .next { s with host := { s.host with cfg := tset s.host.cfg r v } })

/-- R327: GO posts the step that stands in LDG_POST_STEP: an acceptable post begins hashing in its entry; another leaves the entries and
gives its reason. -/
def Obligations.PostAcceptedOrRefused : Prop :=
  ∀ (s : State) (src : Src) (v : BitVec 64), Reaches s src → v.toNat / 2 ^ 63 = 1 →
    let len := v.toNat % 2 ^ 35
    let e := postCheck s s.ldg.postStep len
    ∃ t, exec (.post src v) s = .next t ∧ t.mem = s.mem ∧ t.cells = s.cells ∧
      (e = 0 → getJr t (s.ldg.postStep % 2) = { estate := 1, step := s.ldg.postStep, len := len } ∧
        t.lastPosted = some s.ldg.postStep ∧
        getJr t ((s.ldg.postStep + 1) % 2) = getJr s ((s.ldg.postStep + 1) % 2)) ∧
      (e ≠ 0 → t.jr = s.jr ∧ t.lastPosted = s.lastPosted ∧ t.ldg.postErr = e)

/-- R495, R494, Table 17-1: a 64-bit write at the offset of a register that a row of the table names does what that row does, and is then
watched for SVC_SAFE (R537). R349, R105, R224: LDG_POST_STEP holds the step written; a write of BWD_CTL is kept for the cell's next
STEPMARK and leaves the setting in force; one of STRM_CTL without its three actions sets SAT and the watchdog. None of these three
changes anything else but what SVC_SAFE reports. -/
def Obligations.RegisterWrites : Prop :=
  ∀ (s : State) (src : Src) (v : BitVec 64), Reaches s src →
    let written (off : Nat) (i : Instr) : Prop :=
      ∃ t, exec i s = .next t ∧ exec (.registerWrite src off 8 v) s = .next (watchSafe t)
    written 0x10 (.winCtlWrite src v) ∧ written 0x30 (.hostSig src v) ∧ written 0x1C00008 (.post src v) ∧
    (∀ c : CellIx,
      let base := 0x1000000 + 0x10000 * c.val
      written (base + 0x10) (.cellDtabWrite src c v) ∧
      (∀ h : HopIx, written (base + 0x100 + 8 * h.val) (.hopCfgWrite src c h v)) ∧
      (∀ (e : VtIx) (reg : Fin 6), written (base + 0x8000 + 0x40 * e.val + 8 * reg.val) (.vtCtlWrite src c e reg v)) ∧
      (∀ st : Strm,
        let sb := base + 0x1000 + 0x1000 * ixOf st
        written (sb + 0x10) (.ringConfigWrite src c st false v) ∧ written (sb + 0x18) (.ringConfigWrite src c st true v) ∧
        written (sb + 0x20) (.headWrite src c st v) ∧ written (sb + 0x50) (.exlogRdWrite src c st v) ∧
        (v.toNat / 2 % 8 = 0 →
          exec (.registerWrite src sb 8 v) s = .next (watchSafe (setStrm s c.val (ixOf st) { getStrm s c.val (ixOf st) with
            sat := decide (v.toNat % 2 = 1), wdog := max 1 (min 1000000 (v.toNat / 256 % 2 ^ 20)) })))) ∧
      exec (.registerWrite src (base + 8) 8 v) s = .next (watchSafe (modCell s c.val (fun x => { x with
        bwdW := ⟨v.toNat % 2 ^ 8, v.toNat / 2 ^ 8 % 2 ^ 3, v.toNat / 2 ^ 12 % 2 ^ 8, v.toNat / 2 ^ 20 % 2 ^ 3,
          decide (v.toNat / 2 ^ 24 % 2 = 1), v.toNat / 2 ^ 25 % 2⟩ })))) ∧
    exec (.registerWrite src 0x1C00000 8 v) s = .next (watchSafe { s with ldg := { s.ldg with postStep := v.toNat } })

/-- R222-R224: an ABORT of a live stream with nothing in flight leaves it ABORTED with an empty queue; RESUME makes a stopped stream live;
CLR_STICKY clears INVALID, OVERFLOW and LOG_FULL and nothing else. -/
def Obligations.StreamControl : Prop :=
  ∀ (s : State) (src : Src) (c : CellIx) (st : Strm), Reaches s src →
    let k := ixOf st
    exec (.clrSticky src c st) s =
      .next (setStrm s c.val k { getStrm s c.val k with invalid := false, overflow := false, logFull := false }) ∧
    ((getStrm s c.val k).mode = .halted ∨ (getStrm s c.val k).mode = .aborted →
      ∃ t, exec (.resume src c st) s = .next t ∧ (getStrm t c.val k).mode = .live ∧ (getStrm t c.val k).queue = [] ∧
        (getStrm t c.val k).head = (getStrm s c.val k).head ∧ (getStrm t c.val k).ctr = (getStrm s c.val k).ctr ∧ t.mem = s.mem) ∧
    ((getStrm s c.val k).mode = .live → (getStrm s c.val k).fly = [] → (∀ l, (getLoom s c.val l).run = none) →
      ∃ t, exec (.abort src c st) s = .next t ∧ (getStrm t c.val k).mode = .aborted ∧ (getStrm t c.val k).queue = [] ∧
        (getStrm t c.val k).ctr = (getStrm s c.val k).ctr ∧ t.mem = s.mem)

/-! The dictionary (15) and the values handed to their owners (09, 11, 12, 14, 16, 18). -/

/-- R464: GO hands the request buffer to the Steward; its answer, with the request's operation and tag, is in the response buffer. R439: a
restart of the Steward ends every open transfer and raises 0x0713. -/
def Obligations.DictionaryWindowAndRestart : Prop :=
  (∀ (s : State) (sec : Bool), HostOk s sec → (getEp s 1).up = true → s.lock.running = none → s.lock.waits = [] →
      ∃ t, exec (.dictGo (.host sec .good)) s = .next t ∧ t.host.done = true ∧
        (t.host.rspBuf.take 3) = [1#8, BitVec.ofNat 8 (fieldLe (reqBytes s) 1 1), BitVec.ofNat 8 (fieldLe (reqBytes s) 2 1)]) ∧
  (∀ (s : State) (cut : Bool), serving s = true →
      ∃ t, exec (.stewardWatchdog cut) s = .next t ∧ t.mem = s.mem ∧ t.cells = s.cells ∧
        (∀ e, e < 4 → (getEp t e).xw = none ∧ (getEp t e).xr = none) ∧ (∃ r ∈ t.evLog, r.code = 0x0713))

/-- R453, R441, R445, R444: a READ returns the value in its type's size, a DESCRIBE the descriptor, a NEXT the next object; none of them
changes memory, cells or steps. A READ of an object that does not exist is answered with NO_OBJECT. -/
def Obligations.DictionaryReads : Prop :=
  ∀ (s : State) (ep : EpIx) (d : DReq), EpServes s ep.val →
    (reqBad 0x01 d = false → ∃ t, exec (.read ep d) s = .next t ∧ Untouched s t ∧
      (∀ o, objDesc d.idx d.sub = some o → o.acc ≠ .wo → ¬ (o.acc = .g ∧ o.ty = .dom) → o.ty ≠ .dom → o.ty ≠ .str →
        Answered t ep.val (dictHdr 0x01 d.tag 0 d.idx d.sub
          (if o.kind = 2 ∧ objRead s d.idx d.sub = 0xFFFFFFFF then 5 else 1) 0 o.ty.size ++ natLe (objRead s d.idx d.sub) o.ty.size)) ∧
      (objDesc d.idx d.sub = none → Answered t ep.val (dictHdr 0x01 d.tag stNoObject d.idx d.sub 1 0 0))) ∧
    (reqBad 0x03 d = false → ∃ t, exec (.describe ep d) s = .next t ∧ Untouched s t ∧
      ∀ o, objDesc d.idx d.sub = some o →
        Answered t ep.val (dictHdr 0x03 d.tag 0 d.idx d.sub 1 0 (descBytes s d.idx d.sub o).length ++ descBytes s d.idx d.sub o)) ∧
    (reqBad 0x04 d = false → ∃ t, exec (.next ep d) s = .next t ∧ Untouched s t ∧
      Answered t ep.val (dictHdr 0x04 d.tag 0 (objNext d.idx d.sub).1 (objNext d.idx d.sub).2 1 0 0))

/-- R453, R462: a WRITE of a plain RW or RWP object that passes its checks stores the value; a persistent one whose commit fails is
answered with PERSIST and leaves the value. -/
def Obligations.DictionaryWrites : Prop :=
  ∀ (s : State) (ep : EpIx) (d : DReq) (ok : Bool), EpServes s ep.val → reqBad 0x02 d = false →
    writeCheck s d.idx d.sub d.data = 0 → d.idx ≠ 0x6031 → ownerCheck s d.idx d.sub (leNat d.data) = 0 →
    ∃ t, exec (.write ep d ok) s = .next t ∧ t.cells = s.cells ∧ t.steps = s.steps ∧ t.plan = s.plan ∧
      (¬ (0x4800 ≤ d.idx ∧ d.idx < 0x4B00) → t.mem = s.mem) ∧
      ((isRwp d.idx d.sub = false ∨ ok = true) → d.idx ∉ [0x1011, 0x2062, 0x5800] → ¬ (0x1F00 ≤ d.idx ∧ d.idx < 0x2000) →
        ¬ (0x4800 ≤ d.idx ∧ d.idx < 0x4B00) → oget t d.idx d.sub = leNat d.data) ∧
      (isRwp d.idx d.sub = true → ok = false →
        Answered t ep.val (dictHdr 0x02 d.tag stPersist d.idx d.sub 1 0 0) ∧ t.board.rwp = s.board.rwp) ∧
      ((isRwp d.idx d.sub = false ∨ ok = true) → Answered t ep.val (dictHdr 0x02 d.tag 0 d.idx d.sub 1 0 0))

/-- R448, R449: XW_START opens a transfer of the total length it gives; XW_SEG at the next offset extends it. R451: XR_START keeps a
snapshot of a DOM object, and XR_SEG returns bytes of it. R452: XABORT and the transfer timeout end what is open. -/
def Obligations.Transfers : Prop :=
  ∀ (s : State) (ep : EpIx) (d : DReq), EpServes s ep.val →
    (∀ o, reqBad 0x10 d = false → objDesc d.idx d.sub = some o → o.acc ≠ .const → o.acc ≠ .ro → (o.ty = .dom ∨ o.acc = .g) →
      0 < leNat d.data → leNat d.data ≤ xferMax d.idx d.sub o.acc → (∀ e, (getEp s e).xw = none) → okey d.idx d.sub ≠ okey 0x6030 1 →
      ∃ t, exec (.xwStart ep d) s = .next t ∧ Untouched s t ∧ (getEp t ep.val).xw = some (okey d.idx d.sub, leNat d.data, [])) ∧
    (∀ total got, reqBad 0x11 d = false → (getEp s ep.val).xw = some (okey d.idx d.sub, total, got) → d.off = got.length →
      d.off + d.len < total →
      ∃ t, exec (.xwSeg ep d) s = .next t ∧ Untouched s t ∧
        (getEp t ep.val).xw = some (okey d.idx d.sub, total, got ++ d.data)) ∧
    (∀ o, reqBad 0x13 d = false → objDesc d.idx d.sub = some o → o.ty = .dom → o.acc ≠ .wo → o.acc ≠ .g →
      ∃ t, exec (.xrStart ep d) s = .next t ∧ Untouched s t ∧
        (getEp t ep.val).xr = some (okey d.idx d.sub, domRead s d.idx d.sub)) ∧
    (∀ b, reqBad 0x14 d = false → (getEp s ep.val).xr = some (okey d.idx d.sub, b) → 0 < leNat d.data → leNat d.data ≤ 1024 →
      d.off + leNat d.data ≤ b.length →
      ∃ t, exec (.xrSeg ep d) s = .next t ∧ Untouched s t ∧
        Answered t ep.val (dictHdr 0x14 d.tag 0 d.idx d.sub 1 d.off (leNat d.data) ++ lslice b d.off (leNat d.data))) ∧
    (reqBad 0x1F d = false → (∃ n g, (getEp s ep.val).xw = some (okey d.idx d.sub, n, g)) →
      ∃ t, exec (.xabort ep d) s = .next t ∧ Untouched s t ∧ (getEp t ep.val).xw = none) ∧
    (∀ w : Bool, ∃ t, exec (.transferTimeout ep w) s = .next t ∧ Untouched s t ∧
      (w = true → (getEp t ep.val).xw = none) ∧ (w = false → (getEp t ep.val).xr = none))

/-- R459: SUBSCRIBE sets the class mask and the muted codes; EVREAD returns due records from the pointer on and moves nothing; EVACK moves
the pointer past the records up to its number, at most past the newest. R460: an EVACK of the sideband that leaves it no due record
releases ALERT_N. -/
def Obligations.EventReading : Prop :=
  ∀ (s : State) (ep : EpIx) (d : DReq), EpServes s ep.val →
    (reqBad 0x20 d = false → leNat (d.data.take 2) < 2 ^ 11 →
      ∃ t, exec (.subscribe ep d) s = .next t ∧ Untouched s t ∧ (getEp t ep.val).mask = leNat (d.data.take 2) ∧
        (getEp t ep.val).muted = codes16 (d.data.drop 2)) ∧
    (reqBad 0x21 d = false → 1 ≤ leNat d.data → leNat d.data ≤ 16 →
      ∃ t, exec (.evread ep d) s = .next t ∧ Untouched s t ∧ (getEp t ep.val).ptr = (getEp s ep.val).ptr ∧
        let bs := ((dueRecs s (getEp s ep.val)).take (leNat d.data)).flatMap evBytes
        Answered t ep.val (dictHdr 0x21 d.tag 0 d.idx d.sub 1 0 bs.length ++ bs)) ∧
    (reqBad 0x22 d = false →
      ∃ t, exec (.evack ep d) s = .next t ∧ Untouched s t ∧
        (getEp t ep.val).ptr = max (getEp s ep.val).ptr (min (leNat d.data) (newestSeq s) + 1) ∧
        ((∀ r ∈ s.evLog, r.seq ≤ newestSeq s) → newestSeq s ≤ leNat d.data → ep.val = 2 → isSafe s = s.board.safe → alertLow t = false))

/-- R426: a request for a guarded object that fails Table 14-8 changes nothing but what reports it, and is answered with SIGNATURE. -/
def Obligations.SignedRequestsRefused : Prop :=
  ∀ (s : State) (ep : EpIx) (tag : Byte) (b : List Byte) (i : Instr) (idx sub : Nat), EpServes s ep.val →
    reqCheck s idx sub b ≠ 0 →
    ((i = .plan ep tag b ∧ idx = 0x2031 ∧ sub = 1) ∨ (i = .jobRelease ep tag b ∧ idx = 0x6010 ∧ sub = 2) ∨
      (i = .roleRetire ep tag b ∧ idx = 0x2062 ∧ sub = 7) ∨
      (∃ x y, i = .jobStartWrite ep tag x y b ∧ isJobStart x.toNat y.toNat = true ∧ idx = x.toNat ∧ sub = y.toNat) ∨
      (∃ k, orderKind b = k ∧ idx = 0x5820 ∧ sub = 1 ∧
        ((k = 1 ∧ i = .orderResume ep tag b) ∨ (k = 2 ∧ i = .orderTakeover ep tag b) ∨ (k = 3 ∧ i = .orderDonor ep tag b) ∨
          (k = 4 ∧ i = .orderPattern ep tag b) ∨ (k = 5 ∧ i = .orderShadow ep tag b) ∨ (k = 6 ∧ i = .orderCheckpoint ep tag b) ∨
          (k = 7 ∧ i = .orderRestore ep tag b)))) →
    ∃ t, exec i s = .next t ∧ Untouched s t ∧ WholeAnswer t ep.val tag idx sub stSignature

/-- R324, R423, R534, R288, R427: a request that passes is handed to its owner: a job start object takes its value, a release drops keys
and plan, a retirement makes the device a SPARE without a plan, an acceptable plan comes into force whole. -/
def Obligations.SignedRequestsTaken : Prop :=
  ∀ (s : State) (ep : EpIx) (tag : Byte) (b : List Byte), EpServes s ep.val →
    (∀ (x : BitVec 16) (y : Byte), isJobStart x.toNat y.toNat = true →
      ∃ t, exec (.jobStartWrite ep tag x y b) s = .next t ∧ t.mem = s.mem ∧
        (GoodRequest s x.toNat y.toNat b → s.steps = [] → (getJr s 0).estate = 0 → (getJr s 1).estate = 0 →
          leNat (signedPayload b) < 2 ^ 64 - 1 →
          oget t x.toNat y.toNat = leNat (signedPayload b) ∧ WholeAnswer t ep.val tag x.toNat y.toNat 0 ∧ t.lock.lastReq = b) ∧
        (GoodRequest s x.toNat y.toNat b → s.steps ≠ [] → Untouched s t ∧ WholeAnswer t ep.val tag x.toNat y.toNat stState)) ∧
    (∃ t, exec (.jobRelease ep tag b) s = .next t ∧ t.mem = s.mem ∧
      (GoodRequest s 0x6010 2 b → s.steps = [] → t.lock.jok = none ∧ t.lock.jsk = [] ∧ t.plan = none ∧ oget t 0x5801 1 = 0)) ∧
    (∃ t, exec (.roleRetire ep tag b) s = .next t ∧
      (GoodRequest s 0x2062 7 b → leNat (signedPayload b) = 1 → 2 ≤ oget s 0x5800 1 →
        t.plan = none ∧ oget t 0x5800 1 = 1 ∧ oget t 0x5800 2 = 0 ∧ t.holding = false ∧ t.lock.jok = s.lock.jok)) ∧
    (∃ t, exec (.plan ep tag b) s = .next t ∧ t.mem = s.mem ∧
      (GoodRequest s 0x2031 1 b → isReady s = true → planCheck s (signedPayload b) = 0 →
        t.plan = some (planOf (signedPayload b)) ∧ WholeAnswer t ep.val tag 0x2031 1 0) ∧
      (GoodRequest s 0x2031 1 b → planCheck s (signedPayload b) ≠ 0 → t.plan = s.plan))

/-- R362, R364, R366, R370, R372, R375: an order that passes its checks is applied, by its kind. -/
def Obligations.OrdersApplied : Prop :=
  ∀ (s : State) (ep : EpIx) (tag : Byte) (b : List Byte), EpServes s ep.val →
    let o := orderOf (signedPayload b)
    let good := isReady s = true ∧ GoodRequest s 0x5820 1 b ∧ s.rcv.last ≠ signedPayload b ∧ orderCheck s (signedPayload b) = 0
    (∃ t, exec (.orderResume ep tag b) s = .next t ∧
      (good → orderKind b = 1 → t.rcv.kind = 1 ∧ t.rcv.u = o.u ∧ t.rcv.last = signedPayload b ∧ t.roll.isSome = true)) ∧
    (∃ t, exec (.orderTakeover ep tag b) s = .next t ∧
      (good → orderKind b = 2 → t.holding = true ∧ t.rcv.kind = 2 ∧ t.rcv.waitXfer = true ∧ t.plan.isSome = true)) ∧
    (∃ t, exec (.orderDonor ep tag b) s = .next t ∧
      (good → orderKind b = 3 → t.rcv.kind = 3 ∧ t.rcv.u = o.u ∧ t.rcv.peer = o.peer ∧ t.roll.isSome = true)) ∧
    (∃ t, exec (.orderPattern ep tag b) s = .next t ∧
      (good → orderKind b = 4 → o.pdig.any (fun x => x != 0#8) = true →
        (t.tee.map (fun x => (x.dev, x.digest))) = some (o.peer, o.pdig))) ∧
    (∃ t, exec (.orderShadow ep tag b) s = .next t ∧
      (good → orderKind b = 5 → oget t 0x5800 1 = 3 ∧ t.rcv.kind = 5 ∧ t.steps = [])) ∧
    (∃ t, exec (.orderCheckpoint ep tag b) s = .next t ∧ t.mem = s.mem ∧
      (good → orderKind b = 6 → t.rcv.ckptDue = some o.ep)) ∧
    (∃ t, exec (.orderRestore ep tag b) s = .next t ∧ (good → orderKind b = 7 → t.epoch = o.epoch))

/-- R422, R432, R433, R418: a job registration that passes its checks installs the job key and makes the device a SPARE; a debug token
that passes erases the job keys and unlocks its level, and each token brings a new challenge; an image that passes makes the inactive
slot VALID, another leaves it EMPTY, and one that comes while a load or an activation is pending is refused with STATE. R419, R420, R481: without a job key, a request to activate a slot that may be enters its image at
once, and a bulk endpoint table that passes its checks takes effect; the image's self-check decides whether the slot becomes ACTIVE or
REFUSED. -/
def Obligations.KeysTokensAndImages : Prop :=
  (∀ (s : State) (ep : EpIx) (tag : Byte) (b : List Byte), EpServes s ep.val →
      (∃ t, exec (.jobRegistration ep tag b) s = .next t ∧ t.mem = s.mem ∧ t.plan = s.plan ∧
        (isReady s = true → regCheck s b = 0 →
          t.lock.jok = some (lslice b 48 64) ∧ oget t 0x5801 1 = fieldLe b 8 8 ∧ oget t 0x5800 1 = 1 ∧
            WholeAnswer t ep.val tag 0x6010 1 0) ∧
        (isReady s = false ∨ regCheck s b ≠ 0 → t.lock.jok = s.lock.jok ∧ t.lock.jsk = s.lock.jsk)) ∧
      (∃ t, exec (.debugToken ep tag b) s = .next t ∧ t.mem = s.mem ∧
        (∃ u, t.lock.challenge = (drbgBytes u 32).1 ∧ t.lock.drbg = (drbgBytes u 32).2.lock.drbg ∧
          (tokenCheck s b ≠ 0 → u.lock.drbg = s.lock.drbg)) ∧
        (tokenCheck s b = 0 → t.lock.jok = none ∧ t.lock.jsk = [] ∧ t.lock.debug = fieldLe b 6 1 ∧ t.ssess = [] ∧ t.plan = none) ∧
        (tokenCheck s b ≠ 0 → t.lock.jok = s.lock.jok ∧ t.lock.debug = s.lock.debug ∧ t.plan = s.plan ∧ t.cells = s.cells ∧
          WholeAnswer t ep.val tag 0x6040 2 stSignature)) ∧
      (∃ t, exec (.patchImage ep tag b) s = .next t ∧ t.mem = s.mem ∧ t.cells = s.cells ∧
        (patchBusy s = true → t.lock = s.lock ∧ WholeAnswer t ep.val tag 0x6030 1 stState) ∧
        (patchBusy s = false → imageCheck s b = 0 → (getSlot t (inactiveSlot s)).state = 2 ∧ (getSlot t (inactiveSlot s)).digest = sha256 (b.take 256)) ∧
        (patchBusy s = false → imageCheck s b ≠ 0 → getSlot t (inactiveSlot s) = {} ∧ oget t 0x6030 7 = imageCheck s b))) ∧
  (∀ (s : State) (ep : EpIx) (tag : Byte) (b : List Byte), EpServes s ep.val → s.lock.jok = none →
      (∀ v : Byte, v.toNat < 2 → mayActivate s v.toNat = true →
        ∃ t, exec (.activationRequest ep tag [v]) s = .next t ∧ t.lock.running = some v.toNat ∧ t.mem = s.mem) ∧
      (∃ t, exec (.endpointTableWrite ep tag b) s = .next t ∧ t.mem = s.mem ∧
        (s.steps = [] → (epTableWrite s b).2 = 0 → tfind t.doms (okey 0x2051 1) = some b ∧ WholeAnswer t ep.val tag 0x2051 1 0) ∧
        (s.steps ≠ [] → t.doms = s.doms ∧ WholeAnswer t ep.val tag 0x2051 1 stState)) ∧
      ∀ k : Nat, k < 2 → activeSlot s ≠ k →
        let u := { s with lock := { s.lock with running := some k, waits := [] } }
        (∃ t, exec (.patchSelfCheck true) u = .next t ∧ (getSlot t k).state = 4 ∧ t.lock.running = none ∧ t.mem = s.mem) ∧
        (∃ t, exec (.patchSelfCheck false) u = .next t ∧ (getSlot t k).state = 3 ∧ t.lock.running = none ∧ t.mem = s.mem))

/-! Stream commands (07). -/

/-- R195, R168, R210: NOP, SETLEN and CMP complete as they issue: the stream advances; SETLEN sets VL and RL; CMP sets its comparator.
Nothing else of the machine changes. R207: LOOP with a count of zero skips its body; otherwise it begins its first iteration, its
iteration counter at 0. -/
def Obligations.ImmediateCommands : Prop :=
  (∀ (s : State) (c : CellIx) (st : Strm) (h : Hdr),
      let k := ixOf st
      (Issues s c.val k h .nop → exec (.nop c st h) s = .next (setStrm s c.val k (taken s c.val k))) ∧
      (∀ (vl : BitVec 8) (rl : BitVec 6), Issues s c.val k h (.setlen vl rl) →
        exec (.setlen c st h vl rl) s =
          .next (setStrm s c.val k { taken s c.val k with vl := vl.toNat + 1, rl := rl.toNat + 1 })) ∧
      (∀ f : CmpOp, Issues s c.val k h (.cmp f) →
        ∃ m : Cmpr, exec (.cmp c st h f) s =
            .next (setStrm s c.val k { taken s c.val k with cmp := tset (getStrm s c.val k).cmp f.j.toNat m }) ∧
          m.armed = isOne f.arm ∧
          (isOne f.arm = true → m.ca = f.ca.toNat ∧ m.rel = f.rel.toNat ∧ m.bsrc = isOne f.bsrc ∧ m.cb = f.cb.toNat ∧
            m.act = isOne f.act ∧ m.flag = f.flag.toNat ∧ m.imm = f.imm))) ∧
  (∀ (s : State) (c : CellIx) (st : Strm) (h : Hdr) (f : LoopOp),
      let k := ixOf st
      let y := getStrm s c.val k
      let n := if isOne f.csrc = true then (ctrVal y f.cctr.toNat).toNat else f.count.toNat
      Issues s c.val k h (.loop f) →
      ∃ t, exec (.loop c st h f) s = .next t ∧ t.mem = s.mem ∧
        (getStrm t c.val k).ctr = (if isOne f.ien = true then tset y.ctr f.ictr.toNat 0#32 else y.ctr) ∧
        (n = 0 → (getStrm t c.val k).loops = [] ∧ (getStrm t c.val k).queue = [] ∧
          (getStrm t c.val k).skip = f.body.toNat + 1) ∧
        (n ≠ 0 → (getStrm t c.val k).nxt = 1 ∧ (getStrm t c.val k).skip = 0 ∧
          (getStrm t c.val k).loops = [⟨1, f.body.toNat + 1, n - 1, if isOne f.ien = true then some f.ictr.toNat else none⟩]))

/-- R208, R209: CNT SET, ADD and ADDC write a counter modulo 2^32; LD32 and LD16 read memory, and the counter takes the sign-extended
value when it arrives (COUNTER_LOAD). -/
def Obligations.Counters : Prop :=
  ∀ (s : State) (c : CellIx) (st : Strm) (h : Hdr) (f : CntOp),
    let k := ixOf st
    let y := getStrm s c.val k
    let d := f.dst.toNat
    let n := if f.op.toNat = 3 then 4 else 2
    (Issues s c.val k h (.cnt f) →
      (f.op.toNat < 3 → ∃ t, exec (.cnt c st h f) s = .next t ∧ t.mem = s.mem ∧ (getStrm t c.val k).queue = [] ∧
        (getStrm t c.val k).ctr = tset y.ctr d
          (if f.op.toNat = 0 then f.imm else if f.op.toNat = 1 then ctrVal y d + f.imm else ctrVal y d + ctrVal y f.src.toNat)) ∧
      (3 ≤ f.op.toNat → inRegs f.addr.toNat = false → memOk s f.addr.toNat n = true →
        fenceOf s y.step [(f.addr.toNat, n)] [] = .ok → firstPoison s f.addr.toNat n = none →
        ∃ t, exec (.cnt c st h f) s = .next t ∧ t.mem = s.mem ∧ (getStrm t c.val k).ctr = y.ctr ∧
          (getStrm t c.val k).loads = [(d, BitVec.ofInt 32 (sInt (8 * n) (memLe s f.addr.toNat n)))])) ∧
    (∀ (v : Word) (x : Fly), isReady s = true → y.mode = .live → y.loads = [(d, v)] → y.fly = [x] → x.op = .cnt f →
      ∃ t, exec (.counterLoad c st) s = .next t ∧ t.mem = s.mem ∧ (getStrm t c.val k).ctr = tset y.ctr d v ∧
        (getStrm t c.val k).loads = [])

/-- R214-R216: a FLAG with nothing before it sets its flag, or adds to it modulo 2^32, at the parity of the stream's step; every other
flag stands. A WAIT whose flag has reached its value (unsigned) completes; another waits at the front of the queue. R217-R219: a WAIT
whose flag does not come ends with WAIT_TIMEOUT; one whose flag only its own stream could still set is a deadlock. Either halts the
stream with its cause and raises its event. -/
def Obligations.FlagsAndWaits : Prop :=
  (∀ (s : State) (c : CellIx) (st : Strm) (h : Hdr) (f : FlagOp),
      let k := ixOf st
      let y := getStrm s c.val k
      let dev := isOne f.scope
      let v := flagValue y f
      (Issues s c.val k h (.flag f) →
        ∃ t, exec (.flag c st h f) s = .next t ∧ t.mem = s.mem ∧ (getStrm t c.val k).queue = [] ∧ (getStrm t c.val k).fly = [] ∧
          (getStrm t c.val k).ctr = y.ctr ∧
          ∀ (d : Nat) (b : Bool) (g p : Nat), p < 2 →
            getFlag t d b g p =
              if b = dev ∧ (b = true ∨ d = c.val) ∧ g = f.flag.toNat ∧ p = y.step % 2 then
                (if isOne f.op = true then getFlag s d b g p + v else v)
              else getFlag s d b g p) ∧
      (Issues s c.val k h (.wait f) →
        (v.toNat ≤ (getFlag s c.val dev f.flag.toNat (y.step % 2)).toNat →
          exec (.wait c st h f) s = .next (setStrm s c.val k (taken s c.val k))) ∧
        ((getFlag s c.val dev f.flag.toNat (y.step % 2)).toNat < v.toNat →
          exec (.wait c st h f) s = .next (waitSeen (setStrm s c.val k (atHead s c.val k h (.wait f))) c.val k)))) ∧
  (∀ (s : State) (c : CellIx) (st : Strm) (q : QCmd) (rest : List QCmd) (o : FlagOp),
      let k := ixOf st
      let y := getStrm s c.val k
      isReady s = true → (getCell s c.val).paused = false → y.mode = .live → y.nxt = 0 → y.loops = [] → y.skip = 0 → y.win = [] →
      y.fly = [] → y.loads = [] → y.queue = q :: rest → q.op = some (.wait o) → q.poison = none → gateDrops y q.hdr.gate = false →
      issueBad s k y q (.wait o) = false →
      (getFlag s c.val (isOne o.scope) o.flag.toNat (y.step % 2)).toNat < (flagValue y o).toNat →
      (∃ t, exec (.waitTimeout c st) s = .next t ∧ t.mem = s.mem ∧ (getStrm t c.val k).mode = .halted ∧
        (getStrm t c.val k).cause = 5 ∧ (getStrm t c.val k).haltPos = q.pos ∧ ∃ r ∈ t.evLog, r.code = 0x0A22) ∧
      ((∀ d < 64, ∀ j < 4, (d, j) ≠ (c.val, k) → (getStrm s d j).mode ≠ .live ∧ (getStrm s d j).queue = []) →
        isOne o.scope = false → o.flag.toNat < 224 →
        (∃ w ∈ rest, ∃ p, w.op = some (.flag p) ∧ p.scope = 0#1 ∧ p.flag = o.flag) →
        ∃ t, exec .deadlockDetector s = .next t ∧ t.mem = s.mem ∧ (getStrm t c.val k).mode = .halted ∧
          (getStrm t c.val k).cause = 7 ∧ (getStrm t c.val k).haltPos = q.pos ∧ ∃ r ∈ t.evLog, r.code = 0x0A21))

/-- R202, R199: HPUSH with a free place pushes its descriptor-table entry, the address advanced by the counter, and the place is ready;
every other hopper stands. An entry that fails the checks halts the stream with cause 0x01. -/
def Obligations.DescriptorPush : Prop :=
  ∀ (s : State) (c : CellIx) (st : Strm) (h : Hdr) (f : HpushOp),
    let k := ixOf st
    let hp := getHop s c.val f.h.toNat
    let a := benchAddr c.val (0x10000 * (getCell s c.val).dtab + 64 * f.tidx.toNat)
    let d : Desc := BitVec.ofNat 512 (memLe s a 64)
    let ctr := (ctrVal (getStrm s c.val k) f.ctr.toNat).toNat
    let m := if isOne f.cen = true then (if f.modlog = 0#5 then ctr else ctr % 2 ^ f.modlog.toNat) else 0
    Issues s c.val k h (.hpush f) → (hp.pushN < 8 ∨ popped hp (hp.pushN - 8) = true) → firstPoison s a 64 = none →
    ∃ t, exec (.hpush c st h f) s = .next t ∧ t.mem = s.mem ∧
      (descBad d = true → HaltedAt s t c.val k 1) ∧
      (descBad d = false → hp.discard = [] →
        (getHop t c.val f.h.toNat).pushN = hp.pushN + 1 ∧
        readyAt (getHop t c.val f.h.toNat) hp.pushN = some (dSetAddr d (dAddr d + m * f.stride.toNat * 32)) ∧
        ∀ j, j ≠ f.h.toNat → getHop t c.val j = getHop s c.val j)

/-- R211: STEPMARK passes into an open step: the stream is in it, with a restart record of its counters and comparators and its lengths
set back; it waits for a step that has not opened; one that is over halts the stream with cause 0x06. R120, R124, R128: VREL releases
every tag of its entry and parity, and no other; UDONE counts the cell's update work of its step as complete; a VOTE with no gradient conversion
before it in the cell stands in its step. -/
def Obligations.StepMarksAndVotes : Prop :=
  (∀ (s : State) (c : CellIx) (st : Strm) (h : Hdr) (n : BitVec 32),
      let k := ixOf st
      let y := getStrm s c.val k
      Issues s c.val k h (.stepmark n) →
      (∀ x, markCheck s y n.toNat = .pass x →
        ∃ t, exec (.stepmark c st h n) s = .next t ∧ (getStrm t c.val k).step = x ∧ (getStrm t c.val k).entered = true ∧
          (getStrm t c.val k).vl = 256 ∧ (getStrm t c.val k).rl = 64 ∧ (getStrm t c.val k).ctr = y.ctr ∧
          ⟨x, y.head, y.ctr, y.cmp⟩ ∈ (getStrm t c.val k).restarts ∧ t.steps = s.steps) ∧
      (markCheck s y n.toNat = .wait →
        exec (.stepmark c st h n) s = .next (setStrm s c.val k (atHead s c.val k h (.stepmark n)))) ∧
      (markCheck s y n.toNat = .stale → ∃ t, exec (.stepmark c st h n) s = .next t ∧ HaltedAt s t c.val k 6)) ∧
  (∀ (s : State) (c : CellIx) (st : Strm) (h : Hdr),
      let k := ixOf st
      let y := getStrm s c.val k
      (∀ f : VerOp, Issues s c.val k h (.vrel f) →
        ∃ t, exec (.vrel c st h f) s = .next t ∧ ((getStep s y.step).isSome = true → t.mem = s.mem) ∧
          (s.Canonical → ∀ a, inJournal s a 1 = false → memGet t a = memGet s a) ∧ (getStrm t c.val k).mode = .live ∧
          (∀ g ∈ (getVt t c.val f.entry.toNat).tags, g.2.2 % 2 ≠ f.par.toNat ∧ g ∈ (getVt s c.val f.entry.toNat).tags) ∧
          (∀ g ∈ (getVt s c.val f.entry.toNat).tags,
            (∀ x ∈ (getVt s c.val f.entry.toNat).tags, x.1 = g.1 → x.2.2 % 2 ≠ f.par.toNat) → g ∈ (getVt t c.val f.entry.toNat).tags) ∧
          ∀ e, e ≠ f.entry.toNat → getVt t c.val e = getVt s c.val e) ∧
      (∀ p : BitVec 1, Issues s c.val k h (.udone p) →
        (stepOfPar s p.toNat = none → ∃ t, exec (.udone c st h p) s = .next t ∧ HaltedAt s t c.val k 0x27) ∧
        (∀ x, stepOfPar s p.toNat = some x →
          ∃ t, exec (.udone c st h p) s = .next t ∧ t.mem = s.mem ∧ (getStrm t c.val k).fly = [] ∧
            getStep t x.num = some { x with udones := insertAsc c.val x.udones })) ∧
      (Issues s c.val k h .vote → (∀ q < 4, ∀ g ∈ (getStrm s c.val q).fly, g.step = y.step → gradWaits s c.val g = false) →
        ∃ t, exec (.vote c st h) s = .next t ∧ t.mem = s.mem ∧ (∃ x, (getStrm t c.val k).fly = [x] ∧ x.op = .vote ∧ x.done = true) ∧
          ∀ x, getStep s y.step = some x → ∃ z, getStep t y.step = some z ∧ c.val ∈ z.votes))

/-- R5, R198, R220: a malformed command, and one that names a hopper that is not its stream's, does nothing and halts its stream with
cause 0x01 or 0x03. -/
def Obligations.FaultsAtIssue : Prop :=
  ∀ (s : State) (c : CellIx) (st : Strm) (h : Hdr) (op : Op),
    let k := ixOf st
    isReady s = true → StreamFree s c.val k → HeaderGoes s c.val k { h with gate := 0#3 } → gateDrops (getStrm s c.val k) h.gate = false →
    (issueBad s k (getStrm s c.val k) (headCmd s c.val k h op) op = true →
      ∃ t, exec (opInstr c st h op) s = .next t ∧ HaltedAt s t c.val k 1) ∧
    (issueBad s k (getStrm s c.val k) (headCmd s c.val k h op) op = false →
      (opAcc s op).any (fun a => !accOwned s c.val k a) = true → (st = .B → ∀ f, op ≠ .mma f) →
      ∃ t, exec (opInstr c st h op) s = .next t ∧ HaltedAt s t c.val k 3)

/-- R195, R196: a command of the pipeline takes its hopper numbers, enters flight, and reaches its commit point at once when it can; until
then nothing else of it happens. -/
def Obligations.PipelineIssue : Prop :=
  ∀ (s : State) (c : CellIx) (st : Strm) (h : Hdr) (op : Op) (u : State) (f : Fly),
    (match op with
      | .ucommit _ | .vpub _ | .vote | .ldt _ | .stt _ | .card _ | .red _ | .zmap _ | .tbl _ | .move _ | .rsig _ | .ratom _
      | .drvSubmit _ | .drvSend _ | .drvClose _ | .millRs _ | .millAg _ | .millAr _ | .millBc _ => True
      | .mma _ => st = .F
      | _ => False) →
    Issues s c.val (ixOf st) h op → launched s c.val (ixOf st) h op = some (u, f) →
    exec (opInstr c st h op) s = .next ((commitOne regRead carterWrite u c.val (ixOf st) f).getD u)

/-! Commands of the pipeline that reach their commit points as they issue (05, 06, 07, 10). -/

/-- R174, R183, R187: LDT fills the active rectangle of its tile register with the decoded elements and leaves the rest of it and every
other register; TBL loads a card, a scale table or a codebook, or stores ZBUF; ZMAP forms one byte of ZBUF. -/
def Obligations.LatheLoads : Prop :=
  ∀ (s : State) (c : CellIx) (st : Strm) (h : Hdr) (u : State) (x : Fly), LatheFree s c.val (ixOf st) →
    let k := ixOf st
    let y := getStrm s c.val k
    (∀ (f : LdtOp) (d : Desc), Issues s c.val k h (.ldt f) → launched s c.val k h (.ldt f) = some (u, x) →
      roleDesc u c.val x .hin 0 = some d → y.vl ≤ 256 → latheDescBad d y.vl f.ls.toNat (isOne f.cbdec) = false →
      panelIn s c.val d (fmtBits (dFmt d)) f.rowoff.toNat y.rl y.vl = true →
      rowsPoison s c.val d (fmtBits (dFmt d)) f.rowoff.toNat y.rl y.vl = none →
      ∃ t, exec (.ldt c st h f) s = .next t ∧ t.mem = s.mem ∧ WorkDone t c.val k ∧
        (∀ r v, v < 256 → trVal (trRead t c.val y.step f.dst.toNat) r v =
          if r < y.rl ∧ v < y.vl then
            enc32 (ldtVal s f d (sctRead s c.val y.step 0) (cbtRead s c.val y.step 0) c.val (f.rowoff.toNat + r) v).1
          else trVal (trRead s c.val y.step f.dst.toNat) r v) ∧
        ∀ g, g ≠ f.dst.toNat → trRead t c.val y.step g = trRead s c.val y.step g) ∧
    (∀ (f : TblOp) (d : Desc), Issues s c.val k h (.tbl f) → launched s c.val k h (.tbl f) = some (u, x) →
      roleDesc u c.val x .hin 0 = some d → dLay d ≠ 1 → isLocalAddr s (dAddr d) = true →
      inBench c.val (gLocal (dAddr d)) (tblBytes f) = true →
      (isOne f.dir = true ∨ firstPoison s (gLocal (dAddr d)) (tblBytes f) = none) →
      let a := gLocal (dAddr d)
      ∃ t, exec (.tbl c st h f) s = .next t ∧
        (f.kind = 0#2 → t.mem = s.mem ∧
          ∀ ins, ins = (List.range (f.len.toNat + 1)).map (fun j => BitVec.ofNat 32 (memLe s (a + 4 * j) 4)) →
            ins.all ciOk = true → WorkDone t c.val k ∧ ∃ q, cardRead t c.val y.step f.index.toNat = some q ∧ q.instrs = ins ∧
              q.consts = (List.range 32).map (fun j => BitVec.ofNat 32 (memLe s (a + 128 + 4 * j) 4))) ∧
        (f.kind = 1#2 → t.mem = s.mem ∧ WorkDone t c.val k ∧ ∃ q, sctRead t c.val y.step f.index.toNat = some q ∧
          ∀ j, j < 256 → q.getD j 0#32 =
            if f.fmt = 0x0D#5 then enc32 (decE8 (memGet s (a + j)).toNat) else enc32 (dec32 (BitVec.ofNat 32 (memLe s (a + 4 * j) 4)))) ∧
        (f.kind = 2#2 → t.mem = s.mem ∧
          (cbBadAt 0 ((List.range (cbLen f.fmt.toNat)).map (fun j => decFlt bf16 (memLe s (a + 2 * j) 2))) = none →
            WorkDone t c.val k ∧ cbtRead t c.val y.step f.index.toNat =
              some ((List.range (cbLen f.fmt.toNat)).map (fun j => enc32 (decFlt bf16 (memLe s (a + 2 * j) 2)))))) ∧
        (f.kind = 3#2 → s.Canonical → WorkDone t c.val k ∧ ∀ b, memGet t b =
          if a ≤ b ∧ b < a + 256 then BitVec.ofNat 8 (zbufRead s c.val y.step (b - a)) else memGet s b)) ∧
    (∀ f : ZmapOp, Issues s c.val k h (.zmap f) →
      ∃ t, exec (.zmap c st h f) s = .next t ∧ t.mem = s.mem ∧ WorkDone t c.val k ∧
        ∀ p, zbufRead t c.val y.step p =
          if p = f.panel.toNat then
            zmapByte (trRead s c.val y.step f.src.toNat) f y.rl y.vl (zbufRead s c.val y.step p)
          else zbufRead s c.val y.step p)

/-- R179, R184, R185: CARD runs its card on every active element and writes its bound destinations, the last write of an element where
both are one register; RED puts each line's sum or extremum
at its place. Neither touches memory, and each leaves every register that is no destination. -/
def Obligations.LatheComputes : Prop :=
  ∀ (s : State) (c : CellIx) (st : Strm) (h : Hdr), LatheFree s c.val (ixOf st) →
    let k := ixOf st
    let y := getStrm s c.val k
    (∀ (f : CardOp) (q : Card), Issues s c.val k h (.card f) → y.vl ≤ 256 → cardRead s c.val y.step f.slot.toNat = some q →
      q.instrs.all (fun w => !bindBad f w) = true → (cardGrad q = true → voteIssued s c.val y.step = false) →
      cardEmptyTab q (cbtRead s c.val y.step 0) (cbtRead s c.val y.step 1) = none →
      let e : CardEnv := {
        f := f, card := q, srcs := (List.range 4).map (fun i => trRead s c.val y.step (cardSrcOf f i).reg.toNat)
        sct0 := sctRead s c.val y.step 0, sct1 := sctRead s c.val y.step 1
        cbt0 := cbtRead s c.val y.step 0, cbt1 := cbtRead s c.val y.step 1, sat := y.sat, rnd := rbits s y.step f.key.toNat }
      ∃ t, exec (.card c st h f) s = .next t ∧ t.mem = s.mem ∧ WorkDone t c.val k ∧
        (∀ r v w, r < y.rl → v < y.vl →
          let one : Bool := isOne f.d0.bound && isOne f.d1.bound && f.d0.reg == f.d1.reg
          (isOne f.d0.bound = true → cardOut one true (cardEl e r v) = some w → trVal (trRead t c.val y.step f.d0.reg.toNat) r v = w) ∧
          (isOne f.d1.bound = true → cardOut one false (cardEl e r v) = some w → trVal (trRead t c.val y.step f.d1.reg.toNat) r v = w)) ∧
        ∀ g, (isOne f.d0.bound = true → g ≠ f.d0.reg.toNat) → (isOne f.d1.bound = true → g ≠ f.d1.reg.toNat) →
          trRead t c.val y.step g = trRead s c.val y.step g) ∧
    (∀ f : RedOp, Issues s c.val k h (.red f) → y.vl ≤ 256 →
      let x : Fly := newFly s c.val y (headCmd s c.val k h (.red f)) (.red f) []
      let reg (n : BitVec 4) : Tab Word := trRead s c.val y.step n.toNat
      ∃ t, exec (.red c st h f) s = .next t ∧ t.mem = s.mem ∧ WorkDone t c.val k ∧
        (∀ i, i < (if isOne f.axis = true then y.vl else y.rl) →
          ∀ p ∈ (if f.op.toNat ≤ 2 then (redSums f x (reg f.src) (reg f.src2) (reg f.dst) i).1
              else redExt f x (reg f.src) (reg f.dst) i),
            tget 0#32 (trRead t c.val y.step f.dst.toNat) p.1 = p.2) ∧
        ∀ g, g ≠ f.dst.toNat → trRead t c.val y.step g = trRead s c.val y.step g)

/-- R175, R176: STT of an FP32 panel stores the conversion of each active element at its place, and no other byte. -/
def Obligations.LatheStores : Prop :=
  ∀ (s : State) (c : CellIx) (st : Strm) (h : Hdr) (f : SttOp) (u : State) (x : Fly) (d : Desc),
    let k := ixOf st
    let y := getStrm s c.val k
    let src := trRead s c.val y.step f.src.toNat
    let sct := sctRead s c.val y.step 0
    let at_ (r v : Nat) : Nat := gLocal (dAddr d) + 4 * ((f.rowoff.toNat + r) * dPitch d + v)
    s.Canonical → LatheFree s c.val k → Issues s c.val k h (.stt f) → launched s c.val k h (.stt f) = some (u, x) →
    roleDesc u c.val x .hin 0 = some d → dFmt d = 0 → f.i16 = 0#1 → f.upd = 0#1 → f.mx = 0#2 → y.vl ≤ dPitch d →
    sttDescBad f d y.vl = false → (isOne f.grad = true → voteIssued s c.val y.step = false) →
    panelIn s c.val d 32 f.rowoff.toNat y.rl y.vl = true →
    sttPoison s c.val d none f.mx 32 f.rowoff.toNat y.rl y.vl = none →
    ∃ t, exec (.stt c st h f) s = .next t ∧ WorkDone t c.val k ∧
      (∀ r v, r < y.rl → v < y.vl →
        memLe t (at_ r v) 4 = (convOne 0 y.sat (rmMode f.rm)
          (if f.rm = 2#2 then rbits s y.step f.key.toNat (256 * (f.rowoff.toNat + r) + v) else 0) (f.ls != 0#2)
          (xDiv (dec32 (trVal src r v)) (lsVal sct f.ls.toNat (f.rowoff.toNat + r) v)) (dZpv d) []).code % 2 ^ 32) ∧
      ∀ b, (∀ r v, r < y.rl → v < y.vl → ¬ (at_ r v ≤ b ∧ b < at_ r v + 4)) → memGet t b = memGet s b

/-- R206: a MOVE inside the device's memory copies its rows, one after another, and changes no byte outside them; rows that do not overlap
arrive as they stood. -/
def Obligations.CarterMoves : Prop :=
  ∀ (s : State) (c : CellIx) (st : Strm) (h : Hdr) (f : MoveOp) (u : State) (x : Fly) (a b : Desc),
    let k := ixOf st
    let rows := moveRows f a b
    let rb := moveRb f
    s.Canonical → s.poison = [] → Issues s c.val k h (.move f) → launched s c.val k h (.move f) = some (u, x) →
    roleDesc u c.val x .hs 0 = some a → roleDesc u c.val x .hd 0 = some b →
    (∀ r ∈ rows, isLocalAddr s r.src = true ∧ isLocalAddr s r.dst = true ∧ inRegs (gLocal r.src) = false ∧
      inRegs (gLocal r.dst) = false ∧ memOk s (gLocal r.src) rb = true ∧ memOk s (gLocal r.dst) rb = true) →
    fenceOf s (getStrm s c.val k).step (rows.map (fun r => (gLocal r.src, rb))) (rows.map (fun r => (gLocal r.dst, rb))) = .ok →
    ∃ t, exec (.move c st h f) s = .next t ∧ WorkDone t c.val k ∧
      (∀ z, (∀ r ∈ rows, ¬ (gLocal r.dst ≤ z ∧ z < gLocal r.dst + rb)) → memGet t z = memGet s z) ∧
      (rows.Pairwise (fun p q => overlaps (gLocal p.dst) rb (gLocal q.dst) rb = false) →
        (∀ p ∈ rows, ∀ q ∈ rows, overlaps (gLocal p.dst) rb (gLocal q.src) rb = false) →
        ∀ r ∈ rows, ∀ i, i < rb → memGet t (gLocal r.dst + i) = memGet s (gLocal r.src + i))

/-- R275, R213, R242, R239: an RSIG of the device to itself applies its flag update; a RATOM WOPEN opens its window with its N, flag and
step; a RATOM that its target lets through applies its operation. -/
def Obligations.SignalsAndAtomics : Prop :=
  ∀ (s : State) (c : CellIx) (st : Strm) (h : Hdr),
    let k := ixOf st
    let y := getStrm s c.val k
    (∀ (f : RsigOp) (par : Nat), Issues s c.val k h (.rsig f) → f.device.toNat = ownId s → par < 2 →
      sigCheck s (isOne f.scope) f.flag.toNat f.cell.toNat (y.step % 2 ^ 32) = .apply par →
      ∃ t, exec (.rsig c st h f) s = .next t ∧ t.mem = s.mem ∧ WorkDone t c.val k ∧
        getFlag t f.cell.toNat (isOne f.scope) f.flag.toNat par =
          if isOne f.op = true then getFlag s f.cell.toNat (isOne f.scope) f.flag.toNat par + f.value else f.value) ∧
    (∀ f : RatomOp, Issues s c.val k h (.ratom f) → f.aop = 0xA#4 → tfind s.wins (raW f.opnds.toNat) = none →
      ∃ t, exec (.ratom c st h f) s = .next t ∧ t.mem = s.mem ∧ WorkDone t c.val k ∧
        tfind t.wins (raW f.opnds.toNat) = some { n := raRank f.opnds.toNat + 1, flag := raFlag f.opnds.toNat, step := y.step }) ∧
    (∀ (f : RatomOp) (u : State) (x : Fly) (d : Desc), Issues s c.val k h (.ratom f) →
      launched s c.val k h (.ratom f) = some (u, x) → roleDesc u c.val x .ht 0 = some d → f.aop ≠ 0xA#4 →
      aopCas f.aop.toNat = false → inBench c.val (ratomSpan c.val f).1 (ratomSpan c.val f).2 = true →
      isLocalAddr s (dAddr d) = true →
      let r := ratomReq s c.val k f (gLocal (dAddr d))
      atomCheck s r = .go → fenceOf s y.step [] [(r.addr, atomLen r)] = .ok → s.poison = [] →
      ∃ t, exec (.ratom c st h f) s = .next t ∧ WorkDone t c.val k ∧ t.mem = (atomApply s y.step r).1.mem ∧
        t.wins = (atomApply s y.step r).1.wins)

/-- R112, R114, R123, R130: after PASS a STATE UCOMMIT has nothing to do, after SKIP it copies its region from bank A to bank B; a MASTER
UCOMMIT whose checks pass does its work in either form and enters its step's commit list; a VPUB after PASS publishes the claimed
slot and after SKIP leaves its entry. All of them wait in flight for the verdict. -/
def Obligations.GatedCommands : Prop :=
  ∀ (s : State) (c : CellIx) (st : Strm) (h : Hdr) (u : State) (x : Fly),
    let k := ixOf st
    let y := getStrm s c.val k
    (∀ (f : UcommitOp) (a b : Desc), Issues s c.val k h (.ucommit f) → launched s c.val k h (.ucommit f) = some (u, x) →
      roleDesc u c.val x .hba 0 = some a → roleDesc u c.val x .hbb 0 = some b → f.kind = 1#1 →
      (verdictOf s x.gstep = some true → afterUdone s c.val k x = false →
        ∃ t, exec (.ucommit c st h f) s = .next t ∧ t.mem = s.mem ∧ WorkDone t c.val k) ∧
      (verdictOf s x.gstep = some false → afterUdone s c.val k x = false → s.Canonical → s.poison = [] →
        isLocalAddr s (dAddr a) = true → isLocalAddr s (dAddr b) = true →
        memOk s (gLocal (dAddr a)) (ucSize f) = true → memOk s (gLocal (dAddr b)) (ucSize f) = true →
        fenceOf s y.step [(gLocal (dAddr a), ucSize f)] [(gLocal (dAddr b), ucSize f)] = .ok →
        ∃ t, exec (.ucommit c st h f) s = .next t ∧ WorkDone t c.val k ∧
          (∀ i, i < ucSize f → memGet t (gLocal (dAddr b) + i) = memGet s (gLocal (dAddr a) + i)) ∧
          ∀ z, (z < gLocal (dAddr b) ∨ gLocal (dAddr b) + ucSize f ≤ z) → memGet t z = memGet s z)) ∧
    (∀ (f : UcommitOp) (a b w wt : Desc) (pass : Bool), Issues s c.val k h (.ucommit f) → launched s c.val k h (.ucommit f) = some (u, x) →
      roleDesc u c.val x .hba 0 = some a → roleDesc u c.val x .hbb 0 = some b → roleDesc u c.val x .hw 0 = some w →
      roleDesc u c.val x .hwt 0 = some wt → f.kind = 0#1 → verdictOf s x.gstep = some pass → afterUdone s c.val k x = false →
      masterDescBad a = false → masterDescBad b = false → copyDescBad w = false → copyDescBad wt = false →
      (spMode b = 1 ∨ spMode b = 2 → ucCols f % 4 = 0) →
      (∀ q < 64, ∀ e ∈ (getCell s q).commits, e.step = x.gstep → tilesMeet b (ucRows f) (ucCols f) e = false) →
      ((getCell s c.val).commits.filter (fun e => e.step == x.gstep)).length < 8192 →
      (∀ d ∈ [a, b], isLocalAddr s (dAddr d) = true ∧ isLocalAddr s (dTaddr d) = true) →
      (isOne f.een = false → isLocalAddr s (dAddr w) = true ∧ isLocalAddr s (dAddr wt) = true) →
      let sp := masterSpans s c.val f pass a b w wt
      spansOk s sp.1 = true → spansOk s sp.2.1 = true → fenceOf s y.step sp.1 sp.2.1 = .ok → s.poison = [] →
      (pass = true → maskFails s b (ucRows f) (ucCols f) ((ucPlans s c.val f b w wt).2.pat != 0) = none ∧ copyTableBad s c.val w = false ∧
        copyTableBad s c.val wt = false ∧ claimOf s c.val f x.gstep false = .ok) →
      ∃ t, exec (.ucommit c st h f) s = .next t ∧ WorkDone t c.val k ∧
        ∃ e ∈ (getCell t c.val).commits, e.step = x.gstep ∧ e.op = f ∧ e.hba = a ∧ e.hbb = b ∧ e.hw = w ∧ e.hwt = wt) ∧
    (∀ f : UcommitOp, Issues s c.val k h (.ucommit f) → launched s c.val k h (.ucommit f) = some (u, x) → verdictOf s x.gstep = none →
      ∃ t, exec (.ucommit c st h f) s = .next t ∧ t.mem = s.mem ∧ (getStrm t c.val k).fly = [x] ∧
        ∀ e, getVt t c.val e = getVt s c.val e) ∧
    (∀ f : VerOp, Issues s c.val k h (.vpub f) → launched s c.val k h (.vpub f) = some (u, x) →
      (verdictOf s x.gstep = some true → (getVt s c.val f.entry.toNat).claimed = true →
        ∃ t, exec (.vpub c st h f) s = .next t ∧ ((getStep s x.gstep).isSome = true → t.mem = s.mem) ∧
          (s.Canonical → ∀ a, inJournal s a 1 = false → memGet t a = memGet s a) ∧ WorkDone t c.val k ∧
          getVt t c.val f.entry.toNat = vtPublish (getVt s c.val f.entry.toNat) x.gstep ∧
          ∀ e, e ≠ f.entry.toNat → getVt t c.val e = getVt s c.val e) ∧
      (verdictOf s x.gstep = some false →
        ∃ t, exec (.vpub c st h f) s = .next t ∧ t.mem = s.mem ∧ WorkDone t c.val k ∧
          ∀ e, getVt t c.val e = getVt s c.val e) ∧
      (verdictOf s x.gstep = none →
        ∃ t, exec (.vpub c st h f) s = .next t ∧ t.mem = s.mem ∧ (getStrm t c.val k).fly = [x] ∧
          ∀ e, getVt t c.val e = getVt s c.val e))

/-- R79, R83, R109: an MMA of the F stream with its first panels ready begins on its free loom: its bank is initialised as INIT says, its
first chunk runs, and the loom is its own. -/
def Obligations.MatrixBegins : Prop :=
  ∀ (s : State) (c : CellIx) (h : Hdr) (f : MmaOp) (u : State) (x : Fly) (a b : Desc),
    let l := f.loom.toNat
    Issues s c.val 0 h (.mma f) → launched s c.val 0 h (.mma f) = some (u, x) →
    roleDesc u c.val x .ha 0 = some a → roleDesc u c.val x .hb 0 = some b → f.emit = 0#1 → f.dwmask = 0#2 →
    mmaUsesHo f = false → mmaDescBad 0 f a b = false → dStaged a = false → dStaged b = false →
    isLocalAddr s (dAddr a) = true → isLocalAddr s (dAddr b) = true →
    (let r : MmaRun := { loom := l, bank := f.bank.toNat, da := a, db := b, ho := none
                         baseA := gLocal (dAddr a), baseB := gLocal (dAddr b), mask := [] }
     panelOk c.val (sideA f r) (f.mlen.toNat + 1) (min 256 (f.klen.toNat + 1)) = true ∧
     panelOk c.val (sideB f r) (f.nlen.toNat + 1) (min 256 (f.klen.toNat + 1)) = true ∧
     sideOk f (sideA f r) (f.mlen.toNat + 1) = true ∧ sideOk f (sideB f r) (f.nlen.toNat + 1) = true) →
    cbRefused s c.val a 0 = false → cbRefused s c.val b 0 = false → (getCell s c.val).bwd.loan = false →
    loomFree s c.val l f.bank.toNat f none = true → meterOk s c.val l = true →
    ∃ t, exec (.mma c .F h f) s = .next t ∧ t.mem = s.mem ∧
      (getLoom t c.val l).run = some (0, (getStrm s c.val 0).nextId) ∧
      tget {} (getLoom t c.val l).banks f.bank.toNat =
        bankInit s (tget {} (getLoom s c.val l).banks f.bank.toNat) f (getStrm s c.val 0).step none ∧
      (∃ z r, (getStrm t c.val 0).fly = [z] ∧ z.committed = true ∧ z.mma = some r ∧ r.chunk = 0 ∧ r.da = a ∧ r.db = b) ∧
      ∀ m, m ≠ l → getLoom t c.val m = getLoom s c.val m

/-- R153, R155, R159: DRV_SUBMIT opens a session or joins one with its scores; DRV_CLOSE ends a session that sends nothing; a DRV_SEND of
a selected session begins its count phase. R156, R157, R162: a session with all its submissions selects: its slots are assigned, its
list is written in its region and its device flag rises by one at its step's parity. A send with every row in and acknowledged is
done, and its flag rises likewise. -/
def Obligations.DroverSessions : Prop :=
  (∀ (s : State) (c : CellIx) (h : Hdr) (u : State) (x : Fly),
      let y := getStrm s c.val 3
      (∀ (f : DrvSubmitOp) (sc : Desc), Issues s c.val 3 h (.drvSubmit f) → launched s c.val 3 h (.drvSubmit f) = some (u, x) →
        roleDesc u c.val x .hin 0 = some sc → dFmt sc = 0 → dLay sc = 0 → isLocalAddr s (dAddr sc) = true → s.poison = [] →
        let da := 32 * f.desc.toNat
        let ra := 32 * f.region.toNat
        let n := f.sub.toNat
        (∀ i q, sessIx s da f.mb.toNat y.step = some i → s.sess[i]? = some q → q.region = ra → (∀ w ∈ q.subs, w.idx ≠ n) →
          256 * n < q.d.t → spansOk s (scoreSpans sc (subTokens q.d n) q.d.e) = true →
          fenceOf s y.step (scoreSpans sc (subTokens q.d n) q.d.e) [] = .ok →
          ∃ t w, exec (.drvSubmit c .C h f) s = .next t ∧ t.mem = s.mem ∧ WorkDone t c.val 3 ∧ t.sess[i]? = some w ∧
            w.subs = q.subs ++ [{ idx := n, cell := c.val, pos := y.head, scores := readScores s sc (subTokens q.d n) q.d.e }] ∧
            t.sess.length = s.sess.length) ∧
        (∀ d, sessIx s da f.mb.toNat y.step = none → s.sess.length < 8 → memOk s da 32 = true → readDDesc s da = some d →
          256 * n < d.t → spansOk s (scoreSpans sc (subTokens d n) d.e) = true → memOk s ra (regionLen d) = true →
          fenceOf s y.step [(da, 32)] [] = .ok →
          fenceOf s y.step [(leAt (memRead s da 32) 16 8, 2 * d.e), (leAt (memRead s da 32) 24 8, 2 * d.g)] [] = .ok →
          fenceOf s y.step (scoreSpans sc (subTokens d n) d.e) [(ra, regionLen d)] = .ok →
          ∃ t w, exec (.drvSubmit c .C h f) s = .next t ∧ t.mem = s.mem ∧ WorkDone t c.val 3 ∧ t.sess = s.sess ++ [w] ∧
            w.desc = da ∧ w.mb = f.mb.toNat ∧ w.step = y.step ∧ w.region = ra ∧ w.d = d ∧ w.selected = false ∧
            w.subs = [{ idx := n, cell := c.val, pos := y.head, scores := readScores s sc (subTokens d n) d.e }])) ∧
      (∀ f : DrvCloseOp, Issues s c.val 3 h (.drvClose f) →
        (∀ i q, sessIx s (32 * f.desc.toNat) f.mb.toNat y.step = some i → s.sess[i]? = some q → q.send = none →
          ∃ t, exec (.drvClose c .C h f) s = .next t ∧ t.mem = s.mem ∧ WorkDone t c.val 3 ∧ t.sess = s.sess.eraseIdx i ∧
            oget t 0x2400 5 = perfAdd (oget s 0x2400 5) 1) ∧
        (sessIx s (32 * f.desc.toNat) f.mb.toNat y.step = none →
          ∃ t, exec (.drvClose c .C h f) s = .next t ∧ t.sess = s.sess ∧ HaltedAt s t c.val 3 0x34)) ∧
      (∀ (f : DrvSendOp) (a b : Desc) (i : Nat) (q : Sess), Issues s c.val 3 h (.drvSend f) →
        launched s c.val 3 h (.drvSend f) = some (u, x) → roleDesc u c.val x .hs 0 = some a → roleDesc u c.val x .hd 0 = some b →
        sendIx s c.val x (32 * f.desc.toNat) f.mb.toNat = some i → s.sess[i]? = some q → q.faulted = false → q.selected = true →
        q.send = none → (isOne f.dir = true → q.fwdDone = true) → 2 ≤ q.d.g →
        let z : DSend := { cell := c.val, fly := y.nextId, back := isOne f.dir, src := gLocal (dAddr a), dst := gLocal (dAddr b)
                           rb := 32 * (f.rb.toNat + 1), unsent := if isShadow s then [] else otherRanks s q.d }
        (∀ r ∈ otherRanks s q.d, routeOf s (q.d.group.getD r 0) ≠ none) → isLocalAddr s (dAddr a) = true →
        isLocalAddr s (dAddr b) = true → spansOk s (sendSpans s q z).1 = true → spansOk s (sendSpans s q z).2 = true →
        fenceOf s y.step (sendSpans s q z).1 (sendSpans s q z).2 = .ok →
        ∃ t w, exec (.drvSend c .C h f) s = .next t ∧ t.mem = s.mem ∧ t.sess[i]? = some w ∧ w.send = some z ∧
          tget [] w.counts (drvRank s q.d) = rowCounts q (drvRank s q.d) ∧
          ∃ v, (getStrm t c.val 3).fly = [v] ∧ v.committed = true)) ∧
  (∀ (s : State) (i : Nat) (x : Sess), isReady s = true → s.sess[i]? = some x →
      (x.selected = false → submitted x = true → s.Canonical → s.wtq = [] →
        let slots := assignAll x.d ((List.range x.d.t).map (fun t => ⟨rankToken (tokenScores x t), tokenScores x t⟩))
        ∃ t, exec (.droverSelection i) s = .next t ∧ t.sess[i]? = some { x with selected := true, list := slots } ∧
          getFlag t 0 true x.d.flag (x.step % 2) = getFlag s 0 true x.d.flag (x.step % 2) + 1#32 ∧
          ∀ b, (b < x.region ∨ x.region + (slots.flatMap listEntry).length ≤ b) → memGet t b = memGet s b) ∧
      ((x.selected = true ∨ submitted x = false) → exec (.droverSelection i) s = .next s) ∧
      (∀ z f, x.send = some z → findFly (getStrm s z.cell 3) z.fly = some f → z.payload = true → f.remote = 0 →
        (∀ w ∈ owedWords s x z, w ∈ z.got) →
        ∃ t, exec (.drvSendDone i) s = .next t ∧ t.mem = s.mem ∧
          t.sess[i]? = some { x with send := none, fwdDone := x.fwdDone || !z.back } ∧
          getFlag t 0 true x.d.flag (x.step % 2) = getFlag s 0 true x.d.flag (x.step % 2) + 1#32 ∧
          ∃ w, findFly (getStrm t z.cell 3) z.fly = some w ∧ w.done = true))

/-- R301-R303: a Mill command whose group fits, with the next CSEQ of its group and a free place in the Mill, begins: it commits when it
reads its source, and with its commit point the group's sequence advances by one. A group that does not fit halts the stream with cause 0x70, a CSEQ out of
order with 0x71. -/
def Obligations.MillBegins : Prop :=
  ∀ (s : State) (c : CellIx) (h : Hdr) (f : MillOp) (op : Op) (code : Nat) (u : State) (x : Fly) (g : MGroup),
    let y := getStrm s c.val 3
    ((op = .millRs f ∧ code = 0x70) ∨ (op = .millAg f ∧ code = 0x71) ∨ (op = .millAr f ∧ code = 0x72) ∨
      (op = .millBc f ∧ code = 0x73)) →
    Issues s c.val 3 h op → launched s c.val 3 h op = some (u, x) → millGroup s f.group.toNat = some g →
    (∀ r ∈ s.mill, ¬ (r.cell = c.val ∧ r.fly = y.nextId)) →
    (groupBad g code f = true → ∃ t, exec (opInstr c .C h op) s = .next t ∧ HaltedAt s t c.val 3 0x70) ∧
    (groupBad g code f = false → f.cseq.toNat ≠ nextSeq s y.step g.gid →
      ∃ t, exec (opInstr c .C h op) s = .next t ∧ HaltedAt s t c.val 3 0x71) ∧
    ∀ a b, let need : Bool := code != 0x73 || g.rank == f.root.toNat
      let rd := if need then [(gLocal (dAddr a), millBytes f.ifmt.toNat (srcLen g code f))] else []
      let wr := [(gLocal (dAddr b), millBytes f.ofmt.toNat (dstLen g code f))]
      groupBad g code f = false → f.cseq.toNat = nextSeq s y.step g.gid →
      ((code = 0x70 ∨ code = 0x72) → ∀ v, getStep s y.step = some v → v.cast = false) → (need = true → roleDesc u c.val x .hs 0 = some a) →
      roleDesc u c.val x .hd 0 = some b → (∀ r ∈ s.mill, r.group ≠ f.group.toNat) → s.mill.length < 16 →
      (need = true → isLocalAddr s (dAddr a) = true) → isLocalAddr s (dAddr b) = true → spansOk s (rd ++ wr) = true →
      fenceOf s y.step rd wr = .ok → s.poison = [] →
      ∃ t, exec (opInstr c .C h op) s = .next t ∧
        nextSeq t y.step g.gid = (if need = true then (nextSeq s y.step g.gid + 1) % 65536 else nextSeq s y.step g.gid) ∧
        ∃ z, (getStrm t c.val 3).fly = [z] ∧ z.id = y.nextId ∧ z.op = op ∧ (need = true → z.committed = true)

/-! What happens to streams, looms and cells in time (01, 03, 07, 12, 13). -/

/-- R191, R192: a live stream fetches from HEAD to TAIL when its queue has room for it all; R19: in a paused cell a command that comes to
HEAD waits. R196, R197, R123: a VPUB in flight publishes when its step's verdict has come; a command whose work is done leaves its
stream, and the places it pushed become ready. -/
def Obligations.StreamsInTime : Prop :=
  (∀ (s : State) (c : CellIx) (st : Strm),
      let k := ixOf st
      let y := getStrm s c.val k
      let n := (y.tail + 2 ^ y.log2 - y.head) % 2 ^ y.log2
      (isReady s = true → y.mode = .live → y.head < 2 ^ y.log2 → y.tail < 2 ^ y.log2 → y.queue.length + y.win.length + n ≤ 512 →
        exec (.streamFetch c st) s = .next (hbmSeen (setStrm s c.val k { y with
          queue := y.queue ++ (List.range n).map (fun i => qcmdOf (pendView s) y ((y.head + i) % 2 ^ y.log2)), head := y.tail }))) ∧
      (y.mode ≠ .live → exec (.streamFetch c st) s = .next s) ∧
      (serving s = true →
        exec (.ringPause c) s = .next (modCell s c.val (fun x => { x with paused := true })) ∧
        exec (.ringResume c) s = .next (modCell s c.val (fun x => { x with paused := false }))) ∧
      ∀ (h : Hdr) (op : Op), isReady s = true → (getCell s c.val).paused = true → y.mode = .live → y.queue = [] → y.nxt = 0 → y.win = [] →
        exec (opInstr c st h op) s = .next (setStrm s c.val k (atHead s c.val k h op))) ∧
  (∀ (s : State) (c : CellIx) (st : Strm) (x : Fly),
      let k := ixOf st
      let y := getStrm s c.val k
      isReady s = true → y.mode = .live → y.fly = [x] →
      (∀ f : VerOp, x.op = .vpub f → x.committed = false → s.wtq = [] → verdictOf s x.gstep = some true →
        (getVt s c.val f.entry.toNat).claimed = true →
        ∃ t, exec (.commandCommit c st) s = .next t ∧ ((getStep s x.gstep).isSome = true → t.mem = s.mem) ∧
          (s.Canonical → ∀ a, inJournal s a 1 = false → memGet t a = memGet s a) ∧
          getVt t c.val f.entry.toNat = vtPublish (getVt s c.val f.entry.toNat) x.gstep) ∧
      (∀ hn n d, x.done = true → x.remote = 0 → x.stalled = [] → isMill x.op = false → x.recs = [] → x.rels = [] →
        x.outs = [(hn, n, d)] → (getHop s c.val hn).discard = [] →
        ∃ t, exec (.commandComplete c st 0) s = .next t ∧ t.mem = s.mem ∧ (getStrm t c.val k).fly = [] ∧
          readyAt (getHop t c.val hn) n = some d) ∧
      (x.done = false → exec (.commandComplete c st 0) s = .next s))

/-- R86, R83: a chunk of a command whose loom map masks nothing runs on the bank of the command, and the last one leaves it to drain or
done; a drain stores the bank's corner in the output tile and no other byte; without one to finish it changes nothing. -/
def Obligations.LoomWork : Prop :=
  ∀ (s : State) (c : CellIx) (l : Loom),
    let i := loomIx l
    let x := getLoom s c.val i
    isReady s = true →
    (∀ k f op r, loomRun s c.val i = some (k, f, op, r) → r.charged = true → r.chunk = 0 → r.loom = i → op.dwmask = 0#2 →
      op.emit = 0#1 → op.klen.toNat + 1 ≤ chunkStep op → chunkSkip s c.val op r 0 = 0 → s.poison = [] →
      ∃ t, exec (.loomChunk c l) s = .next t ∧ t.mem = s.mem ∧ (getLoom t c.val i).run = none ∧
        tget {} (getLoom t c.val i).banks r.bank =
          (runChunk s c.val op r (tget {} x.banks r.bank) 0 (op.klen.toNat + 1)).1 ∧
        (isOne op.drain = true → (getLoom t c.val i).drains = x.drains ++ [(k, f.id, r.bank)]) ∧
        (isOne op.drain = false → (getLoom t c.val i).drains = x.drains)) ∧
    (∀ k id b ds f op r d, x.drains = (k, id, b) :: ds → findFly (getStrm s c.val k) id = some f → f.op = .mma op →
      f.mma = some r → r.ho = some d → s.Canonical →
      let at_ (m n : Nat) : Nat := gLocal (dAddr d) + 4 * (m * dPitch d + n)
      op.nlen.toNat + 1 ≤ dPitch d → edgesPoison s (tileSpans d (op.mlen.toNat + 1) (op.nlen.toNat + 1)) = none →
      ∃ t, exec (.loomDrain c l) s = .next t ∧ (getLoom t c.val i).drains = ds ∧
        (∀ m n, m ≤ op.mlen.toNat → n ≤ op.nlen.toNat →
          memLe t (at_ m n) 4 = (if maskOn op r m n = true then
            (tget 0#32 (bankNow (tget {} x.banks b) f.step) (256 * m + n)).toNat else 0)) ∧
        ∀ z, (∀ m n, m ≤ op.mlen.toNat → n ≤ op.nlen.toNat → ¬ (at_ m n ≤ z ∧ z < at_ m n + 4)) → memGet t z = memGet s z) ∧
    (x.drains = [] → exec (.loomDrain c l) s = .next s)

/-- R390, R377, R378, R395, R250: a meter that has refilled is at 0 or above and at most 8,192; a canary starts at a command boundary and
its check ends it, mismatches being logged; a relief lets the held command issue and is counted; the scrubber counts what it finds,
and an uncorrectable word is poisoned. -/
def Obligations.TimedCellEvents : Prop :=
  ∀ (s : State) (c : CellIx) (l : Loom), isReady s = true →
    let i := loomIx l
    let x := getLoom s c.val i
    (x.meter < 0 → 0 < cellDuty s c.val → x.run = none → (getStrm s c.val 0).fly = [] → (getStrm s c.val 1).fly = [] →
      ∃ t, exec (.meteredChunkStart c l) s = .next t ∧ t.mem = s.mem ∧ 0 ≤ (getLoom t c.val i).meter ∧
        (getLoom t c.val i).meter ≤ 8192) ∧
    (canaryEvery ≤ x.canTime → x.run = none → x.canary = none → meterOk s c.val i = true →
      ∃ t, exec (.canaryRun c l) s = .next t ∧ t.mem = s.mem ∧ (getLoom t c.val i).run = none ∧
        (getLoom t c.val i).banks = x.banks ∧ (getLoom t c.val i).canPat = (x.canPat + 1) % 16 ∧
        ∃ d, (getLoom t c.val i).canary = some (x.canPat, d) ∧ d < 1793) ∧
    (∀ (n : Nat) (r : Nat × Nat), x.canary = some r →
      ∃ t, exec (.canaryCheck c l n) s = .next t ∧ t.mem = s.mem ∧ (getLoom t c.val i).canary = none ∧
        (0 < n → (∃ e ∈ t.evLog, e.code = 0x0F21) ∧ t.baro.log ≠ []) ∧ (n = 0 → t.baro = s.baro ∧ t.evLog = s.evLog)) ∧
    (∀ st : Strm, (getStrm s c.val (ixOf st)).held = true → s.alm.late = false → oget s 0x5000 5 ≠ 0 → cellWeather s c.val = 3 →
      ∃ t, exec (.galeHoldRelief c st) s = .next t ∧ t.mem = s.mem ∧ (getStrm t c.val (ixOf st)).relieved = true ∧
        oget t 0x5002 7 = perfAdd (oget s 0x5002 7) 1) ∧
    (∀ a : Nat, isMem s a = true → s.up = true →
      exec (.scrub a .clean) s = .next s ∧
      (∀ sym, ∃ t, exec (.scrub a (.corrected sym)) s = .next t ∧ t.mem = s.mem ∧ t.poison = s.poison ∧
        (a < hbmEnd →
          let off := stackOffHbm (oget s 0x2020 2) a
          ((stackOfHbm (oget s 0x2020 2) a, off / 256 % 32, sym.val + 36 * (off / 32 % 2)) ∈ t.hbm.corr.map (fun p => p.1)))) ∧
      ∃ t, exec (.scrub a .bad) s = .next t ∧ t.mem = s.mem ∧ isPoison t a = true)

/-! Steps, the Ledger and the Mill (10, 11). -/

/-- R327, R329, R330, R213: a hashed entry is POSTED with its digest, only its own header written; the next step opens into its entry,
with the flags of its parity at 0. -/
def Obligations.StepsOpen : Prop :=
  ∀ s : State, isReady s = true →
    (∀ p : Fin 2, (getJr s p.val).estate = 1 → (getJr s p.val).posting = false → wtOut s = false → LedgerQuiet s → s.Canonical →
      ∃ t, exec (.hashingDone p) s = .next t ∧
        getJr t p.val = { getJr s p.val with
          digest := sha256 (memRead s (entryAddr s p.val + 0x02200000) (getJr s p.val).len), estate := 2 } ∧
        ∀ b, (b < entryAddr s p.val ∨ entryAddr s p.val + 4096 ≤ b) → memGet t b = memGet s b) ∧
    (∀ p : Fin 2, (getJr s p.val).estate ≠ 1 → exec (.hashingDone p) s = .next s) ∧
    (∀ n, isShadow s = false → nextOpen s = some n → n ≠ oget s 0x5401 1 → s.epoch < 0xFFFFFFFF → foldGroup s ≠ .bad →
      quietWaits s = false → (getJr s (n % 2)).opened = false → s.heldSig = [] → LedgerQuiet s →
      ∃ t, exec .stepOpen s = .next t ∧ (∃ x, getStep t n = some x ∧ x.isOpen = true ∧ x.computed = false) ∧
        (getJr t (n % 2)).estate = 3 ∧ (getJr t (n % 2)).epochOpen = s.epoch ∧ (getJr t (n % 2)).seed = oget s 0x5401 2 ∧
        ∀ d b g, getFlag t d b g (n % 2) = 0#32) ∧
    (isShadow s = false → nextOpen s = none → ledgerSettle s = s → exec .stepOpen s = .next (watchSafe s))

/-- R332, R336, R131, R346, R344, R345: a step whose conditions hold is COMPUTED with its fold; a verdict that does not come raises its
event, a decision that does not come begins a hold from the oldest unsealed step on; a rollback whose streams have stopped ends in a
replay or in HOLDING. -/
def Obligations.StepsEnd : Prop :=
  ∀ s : State, isReady s = true →
    (∀ x, s.steps.find? (computedReady s) = some x → getStep s x.num = some x → x.rxNeed = some [] → isShadow s = false →
      let v := kgFold (x.foldAcc ^^^ kgFold (BitVec.ofNat 64 x.num))
      ∃ t y, exec .stepComputed s = .next t ∧ getStep t x.num = some y ∧ y.computed = true ∧ y.foldVal = v ∧
        (getJr t (x.num % 2)).fold = v) ∧
    (∀ x, s.steps.find? (fun y => y.gatedW && y.verdict.isNone) = some x →
      ∃ t, exec .voteTimeout s = .next t ∧ t.mem = s.mem ∧ t.cells = s.cells ∧ ∃ r ∈ t.evLog, r.code = 0x0C12) ∧
    (∀ x, s.steps.find? (fun y => y.computed) = some x →
      ∃ t r, exec .sealTimeout s = .next t ∧ t.mem = s.mem ∧ t.roll = some r ∧ r.hold = true ∧
        s.steps.head?.map (fun y => y.num) = some r.m) ∧
    (∀ r, s.roll = some r → allStopped s = true → s.ldg.relWait = [] → r.asked = none → r.units = [] → s.poison = [] → s.rcv.orderDue = false → NoFronts s →
      (r.hold = true → ∃ t, exec .rollbackDone s = .next t ∧ t.roll = none ∧ t.holding = true) ∧
      (r.hold = false → LedgerQuiet s → ∃ t, exec .rollbackDone s = .next t ∧ t.roll = none ∧ t.holding = s.holding ∧
        ∀ c k, c < 64 → k < 4 → (getStrm t c k).mode = .live)) ∧
    (s.roll = none → s.rcv.orderDue = false → exec .rollbackDone s = .next (watchSafe s))

/-- R315, R338-R342, R337: a child's vote and report are kept, a verdict is delivered, a SEAL of a computed step releases it, and the fold
of the next rank is kept. -/
def Obligations.TreeMessages : Prop :=
  ∀ (s : State) (key : Nat) (x : MsgIn) (m : Msg) (g : MGroup) (y : StepSt), ForGroup s key m g →
    getStep s y.num = some y →
    (Comes s key 0x32 x m → ∀ i, kidIx s g key m = some i →
      s.steps.find? (fun u => u.num % 2 ^ 32 == mStep m && u.isOpen) = some y → (∀ v ∈ y.kidVotes, v.1 ≠ i) →
      ∃ t z, exec (.millVote key x) s = .next t ∧ t.mem = s.mem ∧ getStep t y.num = some z ∧
        z.kidVotes = y.kidVotes ++ [(i, mStorm m, mLe m 0 2, mByte m 2, mLe m 4 4)]) ∧
    (Comes s key 0x33 x m → fromUp s g key m = true →
      s.steps.find? (fun u => u.num % 2 ^ 32 == mStep m && u.isOpen) = some y → y.verdict = none →
      ∃ t z, exec (.millVerdict key x) s = .next t ∧ t.mem = s.mem ∧ getStep t y.num = some z ∧ z.verdict = some (!mStorm m)) ∧
    (Comes s key 0x34 x m → ∀ i, kidIx s g key m = some i → s.steps.find? (fun u => u.num % 2 ^ 32 == mStep m) = some y →
      (mByte m 0 ≠ 2 → (∀ r ∈ y.kidReps, r.1 ≠ i) →
        ∃ t z, exec (.millSealUp key x) s = .next t ∧ t.mem = s.mem ∧ getStep t y.num = some z ∧
          z.kidReps = y.kidReps ++ [(i, mByte m 1 % 2 == 1, mByte m 1 / 2 % 2 == 1, mLe m 2 2, mFold m 12, mFold m 20)]) ∧
      (mByte m 0 = 2 → isRank0 s = false →
        ∃ t z, exec (.millSealUp key x) s = .next t ∧ t.mem = s.mem ∧ getStep t y.num = some z ∧ z.faultFwd = y.faultFwd + 1)) ∧
    (Comes s key 0x35 x m → fromUp s g key m = true → fullStep s (mStep m) = y.num →
      mStep m = y.num % 2 ^ 32 → y.isOpen = true → y.computed = true → mByte m 0 = 1 → s.lock.jok ≠ none → LedgerQuiet s →
      ∃ t, exec (.millSealDown key x) s = .next t ∧ getStep t y.num = none ∧ t.released = y.num ∧
        (getJr t (y.num % 2)).estate = 0) ∧
    (Comes s key 0x50 x m → ∀ f, foldGroup s = .ring f → f.gid = g.gid →
      partLane s g key { m with spec := m.spec / 2 ^ 32 * 2 ^ 32 + m.spec % 2 ^ 30 } = some 0 →
      s.steps.find? (fun u => u.num % 2 ^ 32 == mStep m && u.isOpen) = some y →
      ∃ t z, exec (.ledgerFold key x) s = .next t ∧ t.mem = s.mem ∧ getStep t y.num = some z ∧
        z.peerFold = some (BitVec.ofNat 64 (mLe m 0 8), mLe m 8 8))

/-- R304, R307, R313, R314, R319: a whole block that comes on a ring is reduced and the run moves on; a result is taken at its place; a
message without its command stands in its channel; a NAK or the Mill timeout ends the running command, whose stream halts. -/
def Obligations.MillMessages : Prop :=
  ∀ (s : State) (key : Nat) (x : MsgIn) (m : Msg) (g : MGroup) (r : MillRun), 
    (∀ lane, Comes s key 0x30 x m → ForGroup s key m g → matchRun (takeRx s key m) g m = some r → partLane s g key m = some lane →
      g.ring = true → partFits g r lane (msgEls g r m).length m = true →
      let k := 64 * mSeg m + lane
      tget [] r.recv k = [] → (msgEls g r m).length = min 256 (partLen g r.op - tget 0 r.prog k) →
      (msgEls g r m).any elBad = false → s.poison = [] →
      ∃ t z, exec (.millPart key x) s = .next t ∧ z ∈ t.mill ∧ z.cell = r.cell ∧ z.fly = r.fly ∧
        tget 0 z.prog k = tget 0 r.prog k + (msgEls g r m).length ∧ tget [] z.recv k = []) ∧
    (∀ rail, Comes s key 0x31 x m → ForGroup s key m g → matchRun (takeRx s key m) g m = some r → resLane s g key m = some rail →
      resFits g r rail (msgEls g r m).length m = true →
      ∃ t z, exec (.millRes key x) s = .next t ∧ z ∈ t.mill ∧ z.cell = r.cell ∧ z.fly = r.fly ∧
        tget 0 z.res (64 * mSeg m + rail) = tget 0 r.res (64 * mSeg m + rail) + (msgEls g r m).length) ∧
    (Comes s key 0x30 x m → ForGroup s key m g → matchRun (takeRx s key m) g m = none → partLane s g key m ≠ none →
      ∃ t, exec (.millPart key x) s = .next t ∧ m ∈ tget [] t.rxq key ∧ t.mem = s.mem ∧ t.cells = s.cells) ∧
    (∀ f, (getStrm s r.cell 3).fly = [f] → (getStrm s r.cell 3).mode = .live → f.id = r.fly →
      (Comes s key 0x36 x m → ForGroup s key m g → nakFrom s g key m = true → matchRun (takeRx s key m) g m = some r →
        ∃ t, exec (.millNak key x) s = .next t ∧ t.mem = s.mem ∧ (getStrm t r.cell 3).mode = .halted ∧
          (getStrm t r.cell 3).cause = 0x72 ∧ ∀ z ∈ t.mill, ¬ (z.cell = r.cell ∧ z.fly = r.fly)) ∧
      (isReady s = true → s.mill.find? (fun z => z.group == r.group && liveRun s z) = some r →
        ∃ t, exec (.millTimeout r.group) s = .next t ∧ t.mem = s.mem ∧ (getStrm t r.cell 3).mode = .halted ∧
          (getStrm t r.cell 3).cause = 0x73 ∧ (∃ e ∈ t.evLog, e.code = 0x0E10) ∧
          ∀ z ∈ t.mill, ¬ (z.cell = r.cell ∧ z.fly = r.fly)))

/-! Ports, frames and messages of the Sweul links (09). -/

/-- R259, R261, R260, R536: training begins with signal and presence; it ends in HELLO with the generation reached, which a fast retrain
keeps, or DOWN; loss of
signal, cable or a second lane takes the port DOWN, a first lane is spared and the port retrains. R284, R285: the HELLO goes again
until the far end's has come; without a plan one that verifies takes the port to HELLO with the neighbour's numbers, one that does not
quarantines it for AUTH; a used port that hears none is ABSENT. -/
def Obligations.PortsAndHellos : Prop :=
  (∀ (s : State) (p : PortIx),
      let x := getPort s p.val
      let st := portState s p.val
      (maySignal s p.val = true → x.pres = true → st = 0 ∨ st = 4 →
        ∃ t, exec (.portSignalDetect p) s = .next t ∧ portState t p.val = 1 ∧
          getPort t p.val = { x with signal := true, gens := oget s (portIdx p.val) 1, cred := [] } ∧
          t.mem = s.mem ∧ ∀ q, q ≠ p.val → portState t q = portState s q) ∧
      (maySignal s p.val = true → x.signal = true → st = 0 ∨ st = 4 →
        ∃ t, exec (.portPresLow p) s = .next t ∧ portState t p.val = 1 ∧
          getPort t p.val = { x with pres := true, gens := oget s (portIdx p.val) 1, cred := [] } ∧ t.mem = s.mem) ∧
      (∀ gen rtt tx, serving s = true → st = 1 →
        (mayTrainAt s p.val gen = true → ∃ t, exec (.portTrained p gen rtt tx true) s = .next t ∧ portState t p.val = 2 ∧
          oget t (portIdx p.val) 3 = (if x.cred = [] then gen else oget s (portIdx p.val) 3) ∧ (getPort t p.val).rtt = rtt ∧ (getPort t p.val).helloOut = true ∧ t.mem = s.mem ∧ t.cells = s.cells) ∧
        (mayTrainAt s p.val gen = false → ∃ t, exec (.portTrained p gen rtt tx true) s = .next t ∧ portState t p.val = 1 ∧ t.mem = s.mem) ∧
        (∃ t, exec (.portTrained p gen rtt tx false) s = .next t ∧ portState t p.val = 0 ∧ t.mem = s.mem)) ∧
      (serving s = true → st ≠ 0 →
        (∃ t, exec (.portLos p) s = .next t ∧ portState t p.val = 0 ∧ (getPort t p.val).signal = false ∧ (getPort t p.val).unack = [] ∧
          t.mem = s.mem ∧ (s.trk = [] → s.mill = [] → ∃ e ∈ t.evLog, e.code = 0x0D10)) ∧
        (∃ t, exec (.portPresHigh p) s = .next t ∧ portState t p.val = 0 ∧ (getPort t p.val).pres = false ∧ t.mem = s.mem ∧
          (s.trk = [] → s.mill = [] → ∃ e ∈ t.evLog, e.code = 0x0D10)) ∧
        ∀ l : Fin 5, ∃ t, exec (.laneSignalLoss p l) s = .next t ∧ t.mem = s.mem ∧
          (linked s p.val = false ∨ oget s (portIdx p.val) 5 = l.val ∨ (l.val = 4 ∧ oget s (portIdx p.val) 5 = 0xFF) → t = watchSafe s) ∧
          (linked s p.val = true → oget s (portIdx p.val) 5 = 0xFF → l.val ≠ 4 → portState t p.val = (if st = 5 then 5 else 1) ∧ oget t (portIdx p.val) 5 = l.val ∧ ∃ e ∈ t.evLog, e.code = 0x0D11) ∧
          (linked s p.val = true → oget s (portIdx p.val) 5 ≠ 0xFF → oget s (portIdx p.val) 5 ≠ l.val → portState t p.val = 0 ∧ (s.trk = [] → s.mill = [] → ∃ e ∈ t.evLog, e.code = 0x0D12)))) ∧
  (∀ (s : State) (p : PortIx), serving s = true →
      let x := getPort s p.val
      let st := portState s p.val
      (st ≠ 0 → x.helloIn = true →
        ∃ t, exec (.hello p x.hello.far) s = .next t ∧ portState t p.val = st ∧ t.mem = s.mem ∧ t.cells = s.cells ∧
          (getPort t p.val).txCount = x.txCount ∧ (getPort t p.val).rxCount = x.rxCount) ∧
      (∀ bs : List Byte, st ≠ 0 → st ≠ 5 → teePort s p.val = false → x.helloOut = true → (x.helloIn = true → x.hello.far ≠ bs) →
        ∃ t, exec (.hello p bs) s = .next t ∧ t.mem = s.mem ∧ t.cells = s.cells ∧
          (helloBad bs = true → portState t p.val = st ∧ oget t (portIdx p.val) 0x0F = errAdd (oget s (portIdx p.val) 0x0F) 1) ∧
          (helloBad bs = false → ecdsaOk (lslice bs 16 64) (bs.take 144) (lslice bs 144 64) = false →
            portState t p.val = 5 ∧ oget t (portIdx p.val) 4 = 4) ∧
          (helloBad bs = false → ecdsaOk (lslice bs 16 64) (bs.take 144) (lslice bs 144 64) = true → s.plan = none →
            portState t p.val = 2 ∧ (getPort t p.val).helloIn = true ∧ (getPort t p.val).hello.far = bs ∧
            oget t (portIdx p.val) 6 = leNat (lslice bs 4 2) ∧ oget t (portIdx p.val) 8 = leNat (lslice bs 8 8))) ∧
      (x.helloOut = true → x.helloIn = false → x.helloEnd = false → st ≠ 0 → (tget [] s.txq p.val).any (fun m => m.mtype == 0x20) = false →
        exec (.helloResend p) s = .next { s with txq := tset s.txq p.val (tget [] s.txq p.val ++ [helloMsg s p.val x.hello.mine]) }) ∧
      (x.helloOut = true → x.helloIn = false → st ≠ 0 →
        ∃ t, exec (.helloTimeout p) s = .next t ∧ (getPort t p.val).helloEnd = true ∧ t.mem = s.mem ∧
          (usedPort s p.val = false → portState t p.val = st)) ∧
      (x.helloOut = true → x.helloIn = false → usedPort s p.val = true → st ≠ 0 → st ≠ 4 → st ≠ 5 →
        ∃ t, exec (.helloTimeout p) s = .next t ∧ portState t p.val = 4 ∧ t.mem = s.mem ∧ ∃ e ∈ t.evLog, e.code = 0x0D16))

/-- R265, R266, R268-R270: a new frame takes the next sequence number and stays until it is acknowledged; a resent one is the same, byte
for byte; a frame that decodes in its turn is accepted with its credit, one out of turn, or with a header that no frame has, is
answered with NAK, one that cannot be corrected is counted; the retry timer makes the port resend what is unacknowledged, and after the
sixteenth time retrain. -/
def Obligations.Frames : Prop :=
  ∀ (s : State) (p : PortIx), serving s = true → portLive s p.val = true →
    let x := getPort s p.val
    let gen := oget s (portIdx p.val) 3
    (x.replay = 0 → x.unack.length < 1024 →
      ∃ t body, exec (.frameTx p) s = .next t ∧ t.mem = s.mem ∧ t.cells = s.cells ∧
        t.outbox.getLast? = some (.frame p.val (laneWords gen body)) ∧ (getPort t p.val).unack = x.unack ++ [⟨x.txSeq, body⟩] ∧
        (getPort t p.val).txSeq = (x.txSeq + 1) % 4096 ∧ (fheadOf (leNat (body.take 12))).seq = x.txSeq % 4096 ∧
        (fheadOf (leNat (body.take 12))).ack = (x.rxSeq + 4095) % 4096) ∧
    (∀ f, 0 < x.replay → x.unack[x.unack.length - x.replay]? = some f →
      ∃ t, exec (.frameTx p) s = .next t ∧ t.mem = s.mem ∧ t.outbox.getLast? = some (.frame p.val (laneWords gen f.body)) ∧
        (getPort t p.val).unack = x.unack ∧ (getPort t p.val).replay = x.replay - 1) ∧
    (∀ (lanes ds : List (List Byte)),
      let body := (List.range 916).map (fun i => (ds.getD (i % 4) []).getD (i / 4) 0#8)
      let h := fheadOf (leNat (body.take 12))
      ds.length = 4 → (∀ l, l < 4 → laneDecode gen (lanes.getD l []) = some (ds.getD l [], 0)) →
      crc32 (body.take 912) = leNat (body.drop 912) →
      ∃ t, exec (.frameRx p lanes) s = .next t ∧ t.mem = s.mem ∧
        (h.seq = x.rxSeq → fheadBad (leNat (body.take 12)) = false → (getPort t p.val).rxSeq = (x.rxSeq + 1) % 4096 ∧
          ∀ v, v < 6 → tget 0 (getPort t p.val).cred v = tget 0 x.cred v + (if v = h.cvc then h.cnt else 0)) ∧
        (h.seq ≠ x.rxSeq ∨ fheadBad (leNat (body.take 12)) = true → (getPort t p.val).rxSeq = x.rxSeq ∧ (getPort t p.val).nakSent = true ∧ t.rxq = s.rxq)) ∧
    (∀ (lanes : List (List Byte)), (∃ l, l < 4 ∧ laneDecode gen (lanes.getD l []) = none) →
      ∃ t, exec (.frameRx p lanes) s = .next t ∧ t.mem = s.mem ∧ (getPort t p.val).rxSeq = x.rxSeq ∧
        oget t (portIdx p.val) 0x0B = errAdd (oget s (portIdx p.val) 0x0B) 1) ∧
    (x.unack ≠ [] → x.resent < 16 →
      ∃ t, exec (.retryTimer p) s = .next t ∧ t.mem = s.mem ∧ getPort t p.val = { x with replay := x.unack.length, resent := x.resent + 1 }) ∧
    (x.unack ≠ [] → 16 ≤ x.resent →
      ∃ t, exec (.retryTimer p) s = .next t ∧ t.mem = s.mem ∧
        (x.pres = true → portState t p.val = (if portState s p.val = 5 then 5 else 1)) ∧ ∃ e ∈ t.evLog, e.code = 0x0D13)

/-- R276, R239-R245, R215: a WRITE stores its words and is acknowledged, a READ is answered with its words and their poison, an atomic
operation whose turn has come is applied, up to a poisoned word it meets, and one whose turn has not is answered with RETRY, a SIGNAL of an open step changes its flag
alone and one of a step that is still to open is held without an answer yet. An operation that has waited too long for its turn is
refused with status 3. A WRITE or READ that may not reach its addresses changes no memory and is
refused with status 1. -/
def Obligations.RequestsAtTheirTarget : Prop :=
  ∀ (s : State) (key : Nat) (x : MsgIn) (u : State) (m : Msg),
    (Arrives s key 1 x u m → (∀ w ∈ m.data, w.bytes.length = 32) → m.addr % 32 = 0 → s.Canonical →
      ∃ t, exec (.sweulWrite key x) s = .next t ∧ t.cells = s.cells ∧
        (reqAddrOk u key m (32 * m.data.length) true = true → mustPend u m.addr (32 * m.data.length) = false → Replied t m 8 0 [] ∧
          (∀ b, memGet t b = if m.addr ≤ b ∧ b < m.addr + 32 * m.data.length then
              (m.data.getD ((b - m.addr) / 32) { bytes := [] }).bytes.getD ((b - m.addr) % 32) 0#8 else memGet s b) ∧
          ∀ i, i < m.data.length → isPoison t (m.addr + 32 * i) = (m.data.getD i { bytes := [] }).poison) ∧
        (reqAddrOk u key m (32 * m.data.length) true = false → t.mem = s.mem ∧ t.poison = s.poison ∧ Replied t m 0x0A 1 [])) ∧
    (Arrives s key 2 x u m → m.spec % 32 < 16 →
      ∃ t, exec (.sweulRead key x) s = .next t ∧ t.mem = s.mem ∧ t.cells = s.cells ∧
        (reqAddrOk u key m (32 * (m.spec % 32 + 1)) false = true →
          Replied t m 9 0 ((List.range (m.spec % 32 + 1)).map (fun i => readWord s (m.addr / 32 + i)))) ∧
        (reqAddrOk u key m (32 * (m.spec % 32 + 1)) false = false → Replied t m 0x0A 1 [])) ∧
    (Arrives s key 3 x u m → aopOk (atomOf m).aop = true → (m.data = [] → (atomOf m).nodata = true ∧ aopOrdered (atomOf m).aop = true) →
      (aopCas (atomOf m).aop = true → m.data.length = 1) → reqAddrOk u key m (atomSpan (atomOf m)) true = true →
      mustPend u (atomOf m).addr (atomLen (atomOf m)) = false →
      ∃ t, exec (.sweulAtomic key x) s = .next t ∧
        (atomTurn u (atomOf m) m.trk = .go → atomStop u (atomOf m) = none →
          t.mem = (atomApply u 0 (atomOf m)).1.mem ∧ ∃ spec, spec % 256 = 0 ∧ Replied t m 8 spec []) ∧
        (∀ i, atomTurn u (atomOf m) m.trk = .go → atomStop u (atomOf m) = some i → t.mem = (atomPart u 0 (atomOf m) i).mem) ∧
        ((m.src, m.trk) ∉ u.lateOps → atomTurn u (atomOf m) m.trk = .retry → t.mem = s.mem ∧ Replied t m 0x0B 0 []) ∧
        ((m.src, m.trk) ∈ u.lateOps → atomTurn u (atomOf m) m.trk = .retry → t.mem = s.mem ∧ Replied t m 0x0A 3 [])) ∧
    (Arrives s key 4 x u m →
      (∀ p, sigCheck u (sgDev m) (sgFlag m) (sgCell m) (sgStep m) = .apply p →
        ∃ t, exec (.signal key x) s = .next t ∧ t.mem = s.mem ∧ Replied t m 8 0 [] ∧
          ∀ (d : Nat) (b : Bool) (g q : Nat), q < 2 →
            getFlag t d b g q =
              if b = sgDev m ∧ (b = true ∨ d = sgCell m) ∧ g = sgFlag m ∧ q = p then
                (if sgAdd m = true then getFlag s d b g q + sgVal m else sgVal m)
              else getFlag s d b g q) ∧
      (sigCheck u (sgDev m) (sgFlag m) (sgCell m) (sgStep m) = .hold →
        ∃ t, exec (.signal key x) s = .next t ∧ t.mem = s.mem ∧ t.cells = s.cells ∧ t.heldSig = s.heldSig ++ [(key, m)]))

/-- R275, R277, R280, R243: an ACK that matches its entry counts for its command; READ_DATA without poison lands where the command reads
to; a REFUSE and a poisoned word halt the stream with their causes; a RETRY leaves the entry to be sent again. R280, R281, R243, R159:
a message whose generation is not its entry's retires nothing; the remote timeout halts the stream with cause 0x61; after a RETRY the
message goes again; a local ordered operation that waits too long ends at once with cause 0x52, another device's is remembered as late
by its target. A count message whose session does not count yet stays in its channel. -/
def Obligations.ResponsesAndTimeouts : Prop :=
  (∀ (s : State) (key : Nat) (x : MsgIn) (u : State) (m : Msg) (w : Trk) (f : Fly), AnswersFly u m w f → s.scrQ = [] →
      (Arrives s key 8 x u m → m.spec % 256 = 0 → isCasMsg w.msg = false → w.msg.mtype ≠ 0x28 →
        ∃ t, exec (.ack key x) s = .next t ∧ t.mem = s.mem ∧
          ∃ g, (getStrm t w.cell w.strm).fly = [g] ∧ g.id = f.id ∧ g.remote = f.remote - 1 ∧
            (f.remote ≤ 1 → isCarter f.op = true → g.done = true ∧ g.acked = true)) ∧
      (Arrives s key 9 x u m → m.spec % 256 = 0 → mustPend u (gLocal w.dest) (32 * m.data.length) = false →
        (m.data.any (fun d => d.poison) = false → (∀ d ∈ m.data, d.bytes.length = 32) → isLocalAddr u w.dest = true →
          inRegs (gLocal w.dest) = false → gLocal w.dest % 32 = 0 → s.Canonical →
          ∃ t, exec (.readData key x) s = .next t ∧
            (∀ b, memGet t b = if gLocal w.dest ≤ b ∧ b < gLocal w.dest + 32 * m.data.length then
                (m.data.getD ((b - gLocal w.dest) / 32) { bytes := [] }).bytes.getD ((b - gLocal w.dest) % 32) 0#8 else memGet s b) ∧
            ∃ g, findFly (getStrm t w.cell w.strm) f.id = some g) ∧
        (m.data.any (fun d => d.poison) = true →
          ∃ t, exec (.readData key x) s = .next t ∧ t.mem = s.mem ∧ HaltedBy t w f 0x50)) ∧
      (Arrives s key 10 x u m → w.msg.mtype ≠ 0x28 →
        ∃ t, exec (.refuse key x) s = .next t ∧ t.mem = s.mem ∧
          HaltedBy t w f (if m.spec % 256 = 8 then 0x32 else statusCause (m.spec % 256))) ∧
      (Arrives s key 11 x u m →
        ∃ t, exec (.retry key x) s = .next t ∧ t.mem = s.mem ∧ t.cells = s.cells ∧ tfind t.trk m.trk = some { w with retry := true })) ∧
  (∀ (s : State) (e : Nat) (w : Trk),
      (∀ (key : Nat) (x : MsgIn) (u : State) (m : Msg), Arrives s key 8 x u m → trkOf u m = none →
        ∃ t, exec (.ack key x) s = .next t ∧ t.mem = s.mem ∧ t.cells = s.cells ∧ t.trk = s.trk ∧
          (key < 32 → oget t (portIdx key) 0x14 = perfAdd (oget s (portIdx key) 0x14) 1)) ∧
      (isReady s = true → tfind s.trk e = some w →
        (w.port ≠ 0xFF → w.retry = true → isShadow s = false →
          ∃ t, exec (.remoteResend e) s = .next t ∧ t.mem = s.mem ∧ t.cells = s.cells ∧ tfind t.trk e = some { w with retry := false } ∧
            w.msg ∈ tget [] t.txq w.port) ∧
        (∀ f, w.kind = 0 → w.cell < 64 → (getStrm s w.cell w.strm).mode = .live → (getStrm s w.cell w.strm).fly = [f] → f.id = w.fly →
          (w.port ≠ 0xFF → w.retry = false →
            ∃ t, exec (.remoteTimeout e) s = .next t ∧ t.mem = s.mem ∧ HaltedBy t w f 0x61) ∧
          (w.port = 0xFF →
            ∃ t, exec (.windowTimeout (ownId s) e) s = .next t ∧ t.mem = s.mem ∧ HaltedBy t w f 0x52))) ∧
      (∀ d, isReady s = true → d ≠ ownId s → (d, e) ∉ s.lateOps →
        ∃ t, exec (.windowTimeout d e) s = .next t ∧ t.mem = s.mem ∧ t.cells = s.cells ∧ t.lateOps = s.lateOps ++ [(d, e)]) ∧
      (∀ (key : Nat) (x : MsgIn) (u : State) (m : Msg), Arrives s key 0x28 x u m →
        (countSess u (cntMb m) m.src (cntCrc m) = none →
          ∃ t, exec (.drvCount key x) s = .next t ∧ t.mem = s.mem ∧ t.sess = s.sess ∧ m ∈ tget [] t.rxq key) ∧
        (∀ i q z, countSess u (cntMb m) m.src (cntCrc m) = some i → s.sess[i]? = some q → q.d.crc = cntCrc m → q.send = some z → z.unsent ≠ [] →
          ∃ t v, exec (.drvCount key x) s = .next t ∧ t.mem = s.mem ∧ t.sess[i]? = some v ∧ Replied t m 8 0 [] ∧
            tget [] v.counts (q.d.group.findIdx (fun d => d == m.src)) = cntRows m) ∧
        (∀ i q, countSess u (cntMb m) m.src (cntCrc m) = some i → s.sess[i]? = some q → q.d.crc ≠ cntCrc m →
          ∃ t v, exec (.drvCount key x) s = .next t ∧ t.mem = s.mem ∧ t.sess[i]? = some v ∧ v.faulted = true ∧ Replied t m 0x0A 8 [])))

/-! Recovery (12). -/

/-- R365, R375, R356, R367, R370, R371: a ready device says so, or resumes the job as rank 0; children's RCV_READY and restore results are
kept; RCV_RESUME ends the hold and the streams go on; a restore's decision is applied; the buddy's mirror state and the end of a
transfer are taken; a shadow keeps its pattern's folds and uses its pattern's answers. R356, R358-R360, R371: a front sends its next
unit, the mirror's last one establishes it; copy-on-write places the unit that has waited longest; a tee without credit ends. -/
def Obligations.RecoveryAndFronts : Prop :=
  (∀ (s : State) (key : Nat) (x : MsgIn) (m : Msg),
      (isReady s = true → rcvIsReady s = true →
        ∃ t, exec .recoveryReady s = .next t ∧
          (isRank0 s = false → t.rcv.readySent = true ∧ t.mem = s.mem ∧ t.cells = s.cells ∧ t.holding = true) ∧
          (isRank0 s = true → t.holding = false ∧ t.rcv.kind = 0)) ∧
      (ComesNow s key 0x51 x m → ∀ i, jobKidIx s key m = some i → s.rcv.kidsReady.contains i = false → s.holding = false →
        ∃ t, exec (.rcvReady key x) s = .next t ∧ t.mem = s.mem ∧ t.cells = s.cells ∧ t.rcv.kidsReady = s.rcv.kidsReady ++ [i]) ∧
      (ComesNow s key 0x52 x m → fromParent s key m = true → s.holding = true → s.rcv.readySent = true → s.rcv.kind = 1 →
        s.rcv.xferPorts = [] →
        ∃ t, exec (.rcvResume key x) s = .next t ∧ t.holding = false ∧ t.rcv.kind = 0 ∧
          ∀ c k, c < 64 → k < 4 → (getStrm t c k).mode ≠ .halted ∧ (getStrm t c k).mode ≠ .aborted) ∧
      (ComesNow s key 0x53 x m → ∀ r i, s.rcv.restore = some r → jobKidIx s key m = some i → (∀ k ∈ r.kids, k.1 ≠ i) → r.result = none →
        ∃ t, exec (.rcvRestoreUp key x) s = .next t ∧ t.mem = s.mem ∧
          t.rcv.restore = some { r with kids := r.kids ++ [(i, mByte m 0 == 1, mLe m 2 2)] }) ∧
      (ComesNow s key 0x54 x m → ∀ r, s.rcv.restore = some r → fromParent s key m = true →
        (mByte m 0 = 1 → ∃ t, exec (.rcvRestoreDown key x) s = .next t ∧ t.mem = s.mem ∧ t.rcv.restore = none ∧
          oget t 0x5401 1 = fieldLe r.shard 16 8 + 1 ∧ oget t 0x5401 2 = fieldLe r.shard 32 8 ∧ oget t 0x5401 3 = r.epoch ∧
          t.lastPosted = none) ∧
        (mByte m 0 = 3 → ∃ t, exec (.rcvRestoreDown key x) s = .next t ∧ t.mem = s.mem ∧ t.rcv.restore = none ∧
          (∀ i, oget t 0x5401 i = oget s 0x5401 i) ∧ ∃ e ∈ t.evLog, e.code = 0x0F1F)) ∧
      (ComesNow s key 0x57 x m → buddyOf s = some m.src →
        ∃ t, exec (.mirrorState key x) s = .next t ∧ t.mem = s.mem ∧ t.cells = s.cells ∧ oget t 0x5800 3 = m.spec % 4) ∧
      (ComesNow s key 0x58 x m → s.rcv.waitXfer = true → s.xferFrom = some m.src →
        ∃ t, exec (.xferDone key x) s = .next t ∧ t.rcv.waitXfer = false ∧ oget t 0x5401 1 = s.rcv.u ∧ oget t 0x5401 3 = s.epoch ∧
          oget t 0x5401 2 = (hdrOf s (s.rcv.u % 2)).seed) ∧
      (∀ k, TeeComes s key 0x56 k x m → (∀ y ∈ s.steps, y.isOpen = false) →
        ∃ t, exec (.shadowFold key x) s = .next t ∧ t.mem = s.mem ∧ t.cells = s.cells ∧
          tfind t.rcv.shFolds (fullStep s (mStep m)) = some (BitVec.ofNat 64 (mLe m 0 8), mLe m 8 8)) ∧
      (∀ k, TeeComes s key 0x55 k x m →
        (s.trk.find? (rspHit s m) = none →
          ∃ t, exec (.shadowRsp key x) s = .next t ∧ t.mem = s.mem ∧ t.cells = s.cells ∧ t.trk = s.trk ∧ m ∈ tget [] t.rxq k) ∧
        ∀ e w, s.trk.find? (rspHit s m) = some (e, w) → m.spec / 2 ^ 44 % 16 = 0 → w.msg.mtype = 2 → w.cell < 64 →
          m.data.any (fun d => d.poison) = false → (∀ d ∈ m.data, d.bytes.length = 32) → isLocalAddr s w.dest = true →
          inRegs (gLocal w.dest) = false → gLocal w.dest % 32 = 0 → s.Canonical →
          ∃ t, exec (.shadowRsp key x) s = .next t ∧
            ∀ b, memGet t b = if gLocal w.dest ≤ b ∧ b < gLocal w.dest + 32 * m.data.length then
                (m.data.getD ((b - gLocal w.dest) / 32) { bytes := [] }).bytes.getD ((b - gLocal w.dest) % 32) 0#8 else memGet s b)) ∧
  (∀ s : State, isReady s = true →
      (∀ (kind : Fin 3) (f : Front) (u v : Nat) (rest : List Nat), s.fronts.find? (fun g => g.kind == kind.val) = some f →
        f.cow = [] → f.units = u :: v :: rest → (kind = 0 → liveRoute s f.dest ≠ none) → (kind = 1 → teeReady s = true) →
        ∃ t, exec (.copyFrontUnit kind) s = .next t ∧ t.mem = s.mem ∧ t.cells = s.cells ∧
          oget t 0x5800 8 = perfAdd (oget s 0x5800 8) 1 ∧
          ∃ g ∈ t.fronts, g.kind = kind.val ∧ g.units = v :: rest ∧ g.pos = f.pos + 1 ∧ g.dest = f.dest) ∧
      (∀ (f : Front) (u : Nat), s.fronts.find? (fun g => g.kind == 0) = some f → f.cow = [] → f.units = [u] → liveRoute s f.dest ≠ none →
        ∃ t, exec (.copyFrontUnit 0) s = .next t ∧ t.mem = s.mem ∧ oget t 0x5800 2 = 2 ∧ (∀ g ∈ t.fronts, g.kind ≠ 0) ∧
          ∃ e ∈ t.evLog, e.code = 0x0F11) ∧
      (∀ (u : Nat) (rest : List Nat), s.cowQ = u :: rest → cowHeld s < 2 → s.pendW = [] → s.wtq = [] → ledgerSettle s = s →
        ∃ t, exec .cowReadDone s = .next t ∧ t.mem = s.mem ∧ t.cells = s.cells ∧ t.cowQ = rest ∧
          t.fronts = s.fronts.map (frontCow s u)) ∧
      (s.tee.isSome = true → isShadow s = false →
        ∃ t, exec .teeCreditTimeout s = .next t ∧ t.mem = s.mem ∧ t.tee = none ∧ t.fronts = s.fronts.filter (fun f => f.kind ≠ 1) ∧
          ∃ e ∈ t.evLog, e.code = 0x0F1A))

/-! SPDM, the ordinary network and the links to the host (14, 16). -/

/-- R414, R413, R415, R477: the responder answers each request at its connection's stage, with the spec's features and nothing else of the
device changed; a session opens by KEY_EXCHANGE, is complete after FINISH, and ends with END_SESSION; inside one each answer is sealed
with AES-256-GCM under the session's keys, and the IDE keys are programmed, started and stopped. -/
def Obligations.SpdmRequests : Prop :=
  ∀ (s : State) (ep : EpIx), serving s = true → spdmOn s ep.val = true →
    let x := getConn s ep.val
    let n := (drbgBytes s 32).1
    let answers (i : Instr) (code : Nat) (rsp : List Byte) (st : Nat) : Prop :=
      ∃ t, exec i s = .next t ∧ Untouched s t ∧ t.outbox = s.outbox ++ [.spdm code rsp] ∧ (getConn t ep.val).stage = st ∧
        t.ssess = s.ssess ∧ t.ide = s.ide
    let within (i : Instr) (w : SpdmSess) (code : Nat) (rsp : List Byte) : Prop :=
      ∃ t, exec i s = .next t ∧ Untouched s t ∧ t.outbox = s.outbox ++ [sealOut w code rsp] ∧ (getConn t ep.val).stage = x.stage ∧
        nextMsg w ∈ t.ssess ∧ t.ide = s.ide
    answers (.getVersion ep) 0x04 [0x13#8] 1 ∧
    (∀ fl, 1 ≤ x.stage → answers (.getCapabilities ep fl) 0x61 (natLe spdmCaps 4) (max 2 x.stage)) ∧
    (∀ a : SpdmAlgs, 2 ≤ x.stage →
      (a.ecdsa = true ∧ a.sha256 = true ∧ a.dhe = true ∧ a.aead = true → answers (.negotiateAlgorithms ep a) 0x63 [1#8, 1#8, 1#8, 1#8] 3) ∧
      (¬ (a.ecdsa = true ∧ a.sha256 = true ∧ a.dhe = true ∧ a.aead = true) →
        answers (.negotiateAlgorithms ep a) 0x7F [1#8, 0#8] x.stage)) ∧
    (∀ code, answers (.unsupportedRequest ep code) 0x7F [7#8, BitVec.ofNat 8 code] x.stage) ∧
    (3 ≤ x.stage →
      answers (.getDigests ep) 0x01 (sha256 certChain) x.stage ∧
      (∀ off len,
        let part := lslice certChain off len
        answers (.getCertificate ep 0 off len) (if off < certChain.length then 0x02 else 0x7F)
          (if off < certChain.length then
            natLe part.length 2 ++ natLe (certChain.length - off - part.length) 2 ++ part else [1#8, 0#8]) x.stage) ∧
      (∀ nonce, ∃ k, 0 < k ∧ k < p256n ∧
        answers (.challenge ep 0 nonce) 0x03 (sha256 certChain ++ n ++
          ecdsaSign s.lock.idk (x.vca ++ nonce ++ (sha256 certChain ++ n)) k) x.stage) ∧
      (∀ i nonce, i ≤ 8 ∨ i = 0xFF →
        answers (.getMeasurements ep i false nonce) 0x60 (natLe 8 1 ++ measBlocks s i ++ n) x.stage ∧
        ∃ k, answers (.getMeasurements ep i true nonce) 0x60 (natLe 8 1 ++ measBlocks s i ++ n ++
          ecdsaSign s.lock.idk (x.vca ++ natLe i 1 ++ nonce ++ (natLe 8 1 ++ measBlocks s i ++ n)) k) x.stage) ∧
      (∀ req pub, ∃ t, exec (.keyExchange ep req pub) s = .next t ∧ Untouched s t ∧
        (4 ≤ s.ssess.length → t.ssess = s.ssess ∧ t.outbox = s.outbox ++ [.spdm 0x7F [0x0A#8, 0#8]]) ∧
        (s.ssess.length < 4 → ecdh (drbgKey s).1 pub = none →
          t.ssess = s.ssess ∧ t.outbox = s.outbox ++ [.spdm 0x7F [1#8, 0#8]]) ∧
        (s.ssess.length < 4 → ∀ z, ecdh (drbgKey s).1 pub = some z →
          t.ssess.length ≤ 4 ∧ ∃ w ∈ t.ssess, w.ep = ep.val ∧ w.up = false ∧ w.z = z ∧ w.id % 2 ^ 16 = req % 2 ^ 16))) ∧
    (∀ (w : SpdmSess), s.ssess.find? (fun y => y.id == w.id && y.ep == ep.val && !y.up) = some w →
      (∃ t, exec (.finish ep w.id (finishMac w)) s = .next t ∧ Untouched s t ∧ t.outbox = s.outbox ++ [sealOut w 0x65 []] ∧
        doneSess w (finishMac w) ∈ t.ssess) ∧
      (∀ mac, mac ≠ finishMac w → ∃ t, exec (.finish ep w.id mac) s = .next t ∧ Untouched s t ∧
        t.outbox = s.outbox ++ [sealOut w 0x7F [6#8, 0#8]] ∧ ∀ y ∈ t.ssess, y.id ≠ w.id)) ∧
    (∀ (w : SpdmSess), s.ssess.find? (fun y => y.id == w.id && y.ep == ep.val && y.up) = some w →
      within (.heartbeat ep w.id) w 0x68 [] ∧
      (∀ op tag, 1 ≤ op → op ≤ 3 → ∃ t, exec (.keyUpdate ep w.id op tag) s = .next t ∧ Untouched s t ∧
        t.outbox = s.outbox ++ [sealOut (updateSess w op) 0x69 [BitVec.ofNat 8 op, BitVec.ofNat 8 tag]] ∧
        ∃ y ∈ t.ssess, y.id = w.id ∧ y.reqGen = w.reqGen + (if op = 3 then 0 else 1) ∧ y.rspGen = w.rspGen + (if op = 2 then 1 else 0)) ∧
      (∃ t, exec (.endSession ep w.id) s = .next t ∧ Untouched s t ∧ t.outbox = s.outbox ++ [sealOut w 0x6C []] ∧
        ∀ y ∈ t.ssess, y.id ≠ w.id) ∧
      within (.vendorDefinedRequest ep w.id .query) w 0x7E [0#8] ∧
      (∀ i set dir sub key, ideOk i set dir sub = true →
        let k := ideKey set dir sub
        (s.board.pcieUp = true → key.length = 40 →
          ∃ t, exec (.vendorDefinedRequest ep w.id (.keyProg i set dir sub key)) s = .next t ∧ Untouched s t ∧
            tfind (tget {} t.ide i).keys k = some key ∧ (tget {} t.ide i).secure = (tget {} s.ide i).secure) ∧
        ((tfind (tget {} s.ide i).keys k).isSome = true →
          ∃ t, exec (.vendorDefinedRequest ep w.id (.setGo i set dir sub)) s = .next t ∧ Untouched s t ∧
            (tget {} t.ide i).go = insertAsc k (tget {} s.ide i).go ∧ (tget {} t.ide i).keys = (tget {} s.ide i).keys) ∧
        (∃ t, exec (.vendorDefinedRequest ep w.id (.setStop i set dir sub)) s = .next t ∧ Untouched s t ∧
          tfind (tget {} t.ide i).keys k = none ∧ k ∉ (tget {} t.ide i).go)))

/-- R485, R486, R488: an authenticated OPEN or ACCEPT completes a session, one that is not is answered by nothing; DATA in its order goes
on, a failed tag is counted; ACK retires what it acknowledges; CLOSE ends the session; timers acknowledge, resend and give up. R490,
R375, R328, R327: COMMITTED ends a checkpoint's wait; DATA and END belong to the restore that asked; IWRITE stores into a FREE entry's
input area and nowhere else; IPOST posts as the registers do. -/
def Obligations.BulkAndStorage : Prop :=
  (∀ (s : State) (ep : PeerIx) (pkt : List Byte) (h : BHead), serving s = true →
      let x := getB s ep.val
      let pl := lslice pkt 32 196
      (bheadOf pkt = some h →
        (h.ty = 1 → epKind s ep.val ≠ 0 → s.mgr ≠ some ep.val →
          ∃ t, exec (.bulkOpen ep pkt) s = .next t ∧ t.mem = s.mem ∧
            (handOk s ep.val pkt = false ∨ ecdh (drbgKey (draw s).2).1 (lslice pl 68 64) = none →
              getB t ep.val = x ∧ ∃ e ∈ t.evLog, e.code = 0x1017) ∧
            (handOk s ep.val pkt = true → (ecdh (drbgKey (draw s).2).1 (lslice pl 68 64)).isSome = true →
              x.waitq.length < 2 ^ 48 →
              (getB t ep.val).phase = 2 ∧ (getB t ep.val).opener = false ∧ (getB t ep.val).far = fieldLe pl 0 4)) ∧
        (h.ty = 2 → x.phase = 1 → h.session = x.mine →
          ∃ t, exec (.bulkAccept ep pkt) s = .next t ∧ t.mem = s.mem ∧
            (handOk s ep.val pkt = false ∨ ecdh x.eph (lslice pl 68 64) = none → getB t ep.val = x) ∧
            (handOk s ep.val pkt = true → (ecdh x.eph (lslice pl 68 64)).isSome = true → x.waitq.length < 2 ^ 48 →
              (getB t ep.val).phase = 2 ∧ (getB t ep.val).far = fieldLe pl 0 4)) ∧
        (∀ ce, h.ty = 3 → x.phase = 2 → h.session = x.mine →
          ∃ t, exec (.bulkData ep ce pkt) s = .next t ∧
            (openPkt x h h.psn pkt = none → x.fails < 15 → t.mem = s.mem ∧ (getB t ep.val).fails = x.fails + 1 ∧
              oget t 0x2052 6 = errAdd (oget s 0x2052 6) 1) ∧
            (openPkt x h h.psn pkt ≠ none → h.psn = x.rxNext → x.held = [] → x.unack = [] → epKind s ep.val = 1 →
              h.chan = 1 ∨ h.chan = 2 →
              x.psn + x.waitq.length < 2 ^ 48 → x.ctl + 2 < 2 ^ 48 →
              t.mem = s.mem ∧ (getB t ep.val).rxNext = x.rxNext + 1 ∧ oget t 0x2052 2 = perfAdd (oget s 0x2052 2) 1)) ∧
        (h.ty = 4 → x.phase = 2 → h.session = x.mine → openPkt x h (h.psn + 2 ^ 63) pkt ≠ none → (∀ n, x.ctlRx = some n → n < h.psn) →
          h.sack = 0 → x.waitq = [] →
          ∃ t, exec (.bulkAck ep pkt) s = .next t ∧ t.mem = s.mem ∧ (getB t ep.val).ctlRx = some h.psn ∧
            (getB t ep.val).unack = x.unack.filter (fun p => h.ack == 2 ^ 48 - 1 || h.ack < p.1)) ∧
        (h.ty = 5 → x.phase = 2 → h.session = x.mine → openPkt x h (h.psn + 2 ^ 63) pkt ≠ none → (∀ n, x.ctlRx = some n → n < h.psn) →
          ∃ t, exec (.bulkClose ep pkt) s = .next t ∧ t.mem = s.mem ∧ (getB t ep.val).phase = 0 ∧ (getB t ep.val).unack = [] ∧
            (getB t ep.val).waitq = x.waitq)) ∧
      (x.phase = 2 → 0 < x.got → x.ctl + 2 < 2 ^ 48 →
        ∃ t, exec (.bulkAckTimer ep) s = .next t ∧ t.mem = s.mem ∧ (getB t ep.val).got = 0 ∧ (getB t ep.val).ctl = x.ctl + 1) ∧
      (∀ psn b n, x.phase = 2 → tfind x.unack psn = some (b, n) →
        (n < 64 → ∃ t, exec (.bulkResendTimer ep psn) s = .next t ∧ t.mem = s.mem ∧ tfind (getB t ep.val).unack psn = some (b, n + 1) ∧
          oget t 0x2052 3 = perfAdd (oget s 0x2052 3) 1) ∧
        (64 ≤ n → epKind s ep.val = 1 → ∃ t, exec (.bulkResendTimer ep psn) s = .next t ∧ (getB t ep.val).phase = 0 ∧ t.mem = s.mem)) ∧
      ((x.phase = 2 ∧ x.unack ≠ []) ∨ x.phase = 1 → epKind s ep.val = 1 →
        ∃ t, exec (.peerTimeout ep) s = .next t ∧ (getB t ep.val).phase = 0 ∧ t.mem = s.mem)) ∧
  (∀ (s : State) (ep : PeerIx) (pl : List Byte), isReady s = true → (getB s ep.val).phase = 2 → epKind s ep.val = 2 → opFormOk pl = true →
      let step := fieldLe pl 8 8
      (fieldLe pl 0 1 = 3 → s.rcv.ckptSent = some (ep.val, step) → fieldLe pl 16 4 = planShard s →
        ∃ t, exec (.committed ep pl) s = .next t ∧ t.mem = s.mem ∧ t.rcv = { s.rcv with ckptSent := none } ∧ ∃ e ∈ t.evLog, e.code = 0x0F1B) ∧
      (fieldLe pl 0 1 = 3 → fieldLe pl 16 4 ≠ planShard s → ∃ t, exec (.committed ep pl) s = .next t ∧ t.mem = s.mem ∧ t.rcv = s.rcv) ∧
      (∀ r, fieldLe pl 0 1 = 5 → restoreFor s ep.val pl = some r →
        ∃ t, exec (.data ep pl) s = .next t ∧ t.mem = s.mem ∧
          t.rcv = { s.rcv with restore := some { r with buf := r.buf ++ [(fieldLe pl 20 8, pl.drop 32)] } }) ∧
      (∀ r, fieldLe pl 0 1 = 6 → restoreFor s ep.val pl = some r → fieldLe pl 28 4 = 0 → r.kids.length < (jobKids s).length →
        ∃ t, exec (.endShard ep pl) s = .next t ∧ t.mem = s.mem ∧
          t.rcv.restore = some { r with buf := [], shard := [], result := some false } ∧ ∃ e ∈ t.evLog, e.code = 0x0F1D) ∧
      (fieldLe pl 0 1 = 7 → s.Canonical → pl.length ≠ 32 →
        let n := pl.length - 32
        let off := fieldLe pl 20 8
        let a := entryAddr s (step % 2) + 0x02200000 + off
        ∃ t, exec (.iwrite ep pl) s = .next t ∧ t.cells = s.cells ∧ t.jr = s.jr ∧
          (s.hasJournal = true ∧ (getJr s (step % 2)).estate = 0 ∧ off + n ≤ oget s 0x5402 2 * 0x100000 → mustPend s a n = false →
            ∀ b, memGet t b = if a ≤ b ∧ b < a + n then pl.getD (32 + (b - a)) 0#8 else memGet s b) ∧
          (¬ (s.hasJournal = true ∧ (getJr s (step % 2)).estate = 0 ∧ off + n ≤ oget s 0x5402 2 * 0x100000) →
            t.mem = s.mem ∧ oget t 0x5400 0x0F = errAdd (oget s 0x5400 0x0F) 1)) ∧
      (fieldLe pl 0 1 = 8 →
        let len := fieldLe pl 28 4
        ∃ t, exec (.ipost ep pl) s = .next t ∧ t.mem = s.mem ∧ t.cells = s.cells ∧ t.ldg.postStep = step ∧
          (postCheck s step len = 0 → getJr t (step % 2) = { estate := 1, step := step, len := len } ∧ t.lastPosted = some step) ∧
          (postCheck s step len ≠ 0 → t.jr = s.jr ∧ t.ldg.postErr = postCheck s step len)))

/-- R480, R492, R479, R447, R446: an Ethernet frame with a bad FCS is counted and dropped, an ARP request for the port's address is
answered; links come up with their values and go down with what they carry; PERST_N resets the PCIe controller; an assigned endpoint
ID brings its dictionary endpoint up. -/
def Obligations.LinksUpAndDown : Prop :=
  ∀ (s : State),
    (∀ (p : EthIx) (fr : List Byte), serving s = true → ethUp s p.val = true →
      (∃ t, exec (.ethFrameRx p fr false) s = .next t ∧ t.mem = s.mem ∧ t.cells = s.cells ∧
        oget t 0x2052 4 = errAdd (oget s 0x2052 4) 1) ∧
      (let e := ethOf fr
       let y := getEth s p.val
       14 ≤ fr.length → e.body.length ≤ max y.mtu 46 → e.vlan = y.vlan → (e.dst = Config.ethMac p.val ∨ (e.dst.getD 0 0#8).toNat % 2 = 1) → e.ty = 0x0806 →
       lslice e.body 0 8 = [0#8, 1#8, 8#8, 0#8, 6#8, 4#8, 0#8, 1#8] → lslice e.body 24 4 = y.v4 → y.v4.all (fun b => b == 0#8) = false →
       exec (.ethFrameRx p fr true) s = .next (watchSafe (ethReply s p.val (lslice e.body 8 6) 0x0806
         ([0#8, 1#8, 8#8, 0#8, 6#8, 4#8, 0#8, 2#8] ++ Config.ethMac p.val ++ y.v4 ++ lslice e.body 8 10)))) ∧
      (∃ t, exec (.ethLinkDown p) s = .next t ∧ t.mem = s.mem ∧ ethUp t p.val = false ∧ ∃ e ∈ t.evLog, e.code = 0x1014)) ∧
    (∀ p : EthIx, serving s = true → ethUp s p.val = false → s.board.pllLost.contains (16 + p.val) = false →
      ∃ t, exec (.ethLinkUp p) s = .next t ∧ t.mem = s.mem ∧ ethUp t p.val = true ∧ getEth t p.val = ethTake s p.val ∧
        ∃ e ∈ t.evLog, e.code = 0x1015) ∧
    (s.board.pcieUp = true →
      ∃ t, exec .pcieLinkDown s = .next t ∧ t.mem = s.mem ∧ t.cells = s.cells ∧ t.board.pcieUp = false ∧ t.ide = [] ∧
        (getEp t 0).up = false ∧ (getEp t 1).up = false ∧ oget t 0x2040 1 = 0 ∧ oget t 0x2040 2 = 0 ∧ ∃ e ∈ t.evLog, e.code = 0x1010) ∧
    (∀ r l rate width, trainedTo s r l = some (rate, width) → s.board.pcieUp = false → s.board.perst = false → s.board.rstLow = false → 2 ≤ oget s 0x2060 1 →
      s.board.pllLost.contains 32 = false →
      ∃ t, exec (.pcieLinkUp r l) s = .next t ∧ t.mem = s.mem ∧ t.board.pcieUp = true ∧ oget t 0x2040 1 = rate ∧
        oget t 0x2040 2 = width ∧ (serving s = true → (getEp t 1).up = true) ∧ ∃ e ∈ t.evLog, e.code = 0x1011) ∧
    (∃ t, exec (.perstN true) s = .next t ∧ t.mem = s.mem ∧ t.cells = s.cells ∧ t.board.perst = true ∧ t.board.pcieUp = false ∧
      t.msixEn = false ∧ t.msixPend = [] ∧ t.host.winLog = 34 ∧ t.ide = []) ∧
    exec (.perstN false) s = .next { s with board := { s.board with perst := false } } ∧
    (serving s = true →
      (∃ t, exec .sidebandBusReset s = .next t ∧ t.mem = s.mem ∧ (getEp t 2).up = false ∧ (getEp t 2).eid = 0 ∧ ∀ y ∈ t.ssess, y.ep ≠ 2) ∧
      (∀ bus eid mode, bus ≠ 0 ∨ s.board.pcieUp = true →
        ∃ t, exec (.mctpEndpointIdAssigned bus eid mode) s = .next t ∧ t.mem = s.mem ∧
          (getEp t (if bus = 0 then 0 else 2)).eid = eid ∧ (getEp t (if bus = 0 then 0 else 2)).up = true ∧
          (bus ≠ 0 → oget t 0x1020 4 = mode)))

/-! Power, boot, the Almanac and the person at the tray (13, 18). -/

/-- R518-R520, R523, R524: a reset forgets everything but the always-on domain, the persistent store, the fuses and the pins (R421: a
loss of power during a blow leaves the SVN floor between the old value and the new), with its cause, the lower one when two fall
together, which 0x2060:05 shows; a thermal trip resets nothing; when no cause of reset is left the boot starts with stage 1; a link's
PLL takes its links down and brings them back. -/
def Obligations.ResetsAndClocks : Prop :=
  ∀ s : State,
    let wiped (t : State) : Prop := t.mem = [] ∧ t.poison = [] ∧ t.cells = [] ∧ t.steps = [] ∧ t.plan = none ∧ t.lock.jok = none ∧
      t.board.rwp = s.board.rwp ∧ t.board.rwpDom = s.board.rwpDom ∧ (s.lock.blow = none → t.lock.svn = s.lock.svn) ∧
      (∀ old t0, s.lock.blow = some (old, t0) → old ≤ s.lock.svn → old ≤ t.lock.svn ∧ t.lock.svn ≤ s.lock.svn) ∧ t.lock.unlocks = s.lock.unlocks ∧
      t.pending = s.pending
    let cause (k : Nat) : Nat := if inReset s then min s.board.cause k else k
    objRead s 0x2060 5 = s.board.cause ∧
    (serving s = true → ∀ x : AlmIn, ∃ t, exec (.almanacUpdate x) s = .next t ∧ t.board.cause = s.board.cause ∧ t.mem = s.mem ∧
      t.cells = s.cells ∧ t.board.boot = s.board.boot ∧ (s.alm.tripped = true → t.alm.tripped = true)) ∧
    (∃ t, exec .powerOn s = .next t ∧ wiped t ∧ inReset t = true ∧ t.board.cause = 0) ∧
    (∃ t, exec .sysRstNAssert s = .next t ∧ wiped t ∧ t.board.rstLow = true ∧ t.board.cause = cause 1 ∧ oget t 0x2060 1 = 0) ∧
    (∀ i : Fin 10, ∃ t, exec (.supplyLow i) s = .next t ∧ wiped t ∧ t.board.supplies / 2 ^ i.val % 2 = 0 ∧
      t.board.cause = cause 2 ∧ oget t 0x2060 1 = 0) ∧
    (∃ t, exec .refclkLoss s = .next t ∧ wiped t ∧ t.board.refOk = false ∧ t.board.cause = cause 3 ∧ oget t 0x2060 1 = 0) ∧
    (s.board.boot = false →
      (s.board.rstLow = true → s.board.supplies = allSupplies → s.board.refOk = true →
        ∃ t, exec .sysRstNRelease s = .next t ∧ inReset t = false ∧ t.board.boot = true ∧ oget t 0x2060 1 = 1 ∧ t.mem = s.mem) ∧
      (s.board.rstLow = false → s.board.supplies ≠ allSupplies → s.board.refOk = true →
        ∃ t, exec .supplyRestored s = .next t ∧ inReset t = false ∧ t.board.boot = true ∧ oget t 0x2060 1 = 1 ∧ t.mem = s.mem) ∧
      (s.board.rstLow = false → s.board.supplies = allSupplies → s.board.refOk = false →
        ∃ t, exec .refclkRestored s = .next t ∧ inReset t = false ∧ t.board.boot = true ∧ oget t 0x2060 1 = 1 ∧ t.mem = s.mem)) ∧
    (isReady s = true →
      (∀ p, p = .root ∨ (∃ k, p = .hbm k) → inReset s = false →
        ∃ t, exec (.pllLoss p) s = .next t ∧ wiped t ∧ t.board.cause = 4 ∧ t.board.boot = true ∧ oget t 0x2060 1 = 1) ∧
      (∀ q, ∃ t, exec (.pllLoss (.sweul q)) s = .next t ∧ t.mem = s.mem ∧ ∀ p ∈ quadPorts (q % 4), portState t p = 0) ∧
      (∀ e, ∃ t, exec (.pllLoss (.eth e)) s = .next t ∧ t.mem = s.mem ∧ ethUp t (e % 2) = false) ∧
      (∃ t, exec (.pllLoss .pcie) s = .next t ∧ t.mem = s.mem ∧ t.board.pcieUp = false)) ∧
    (serving s = true →
      (∃ t, exec (.pllRelock .pcie) s = .next t ∧ t.mem = s.mem ∧ 32 ∉ t.board.pllLost) ∧
      (∀ e, ∃ t, exec (.pllRelock (.eth e)) s = .next t ∧ t.mem = s.mem ∧ 16 + e % 2 ∉ t.board.pllLost) ∧
      ∀ q, ∃ t, exec (.pllRelock (.sweul q)) s = .next t ∧ t.mem = s.mem ∧
        ∀ p ∈ quadPorts (q % 4), (getPort s p).signal = true → (getPort s p).pres = true → portState s p = 0 → portState t p = 1)

/-- R525-R530, R410, R416: each boot stage that ends well leads on, the Locksmith's rebuilds the DRS and derives IDK and DEK before the
Steward runs, the Steward serves from the end of stage 3, and the device is READY with empty
memory at the end of stage 6; a stage that fails with one of its units stops the boot with that unit and index. -/
def Obligations.BootStages : Prop :=
  ∀ (s : State) (r : StageEnd),
    (r.fail = none →
      (stageRuns s 1 = true → ∃ t, exec (.bootStageEnd 1 r) s = .next t ∧ oget t 0x2060 1 = 2 ∧ .avs Config.fusedMv ∈ t.outbox) ∧
      (stageRuns s 2 = true → ∃ t, exec (.bootStageEnd 2 r) s = .next t ∧ oget t 0x2060 1 = 3 ∧ t.mem = s.mem ∧
        t.lock.drs = some Config.drs ∧ t.lock.idk = deriveKey Config.drs "RLM4-IDK" ∧ t.lock.dek = deriveKey Config.drs "RLM4-DEK" ∧
        t.lock.drbg.cnt = 1 ∧ t.lock.slots = s.lock.slots) ∧
      (stageRuns s 3 = true → ∃ t, exec (.bootStageEnd 3 r) s = .next t ∧ serving t = true ∧ oget t 0x2060 1 = 4 ∧
        (getEp t 2).up = true ∧ t.mem = s.mem) ∧
      (stageRuns s 4 = true → r.cells = [] → ∃ t, exec (.bootStageEnd 4 r) s = .next t ∧ t.board.done4 = true ∧
        oget t 0x2060 1 = (if s.board.done5 then 6 else 5) ∧ t.mem = s.mem) ∧
      (stageRuns s 5 = true → r.lanes = [] → ∃ t, exec (.bootStageEnd 5 r) s = .next t ∧ t.board.done5 = true ∧ t.up = true ∧
        (s.board.done4 = true → oget t 0x2060 1 = 6) ∧ t.mem = s.mem) ∧
      (stageRuns s 6 = true → ∃ t, exec (.bootStageEnd 6 r) s = .next t ∧ isReady t = true ∧ oget t 0x2060 6 = r.ms ∧ t.mem = [] ∧
        t.poison = [] ∧ t.board.boot = false ∧ ∃ e ∈ t.evLog, e.code = 0x1110)) ∧
    ∀ (st : Fin 8) (u i : Nat), r.fail = some (u, i) → stageRuns s st.val = true → u ∈ stageUnits st.val →
      ∃ t, exec (.bootStageEnd st r) s = .next t ∧ t.board.boot = false ∧ oget t 0x2060 3 = u ∧ oget t 0x2060 4 = failIx u i ∧
        oget t 0x2060 1 = oget s 0x2060 1 ∧ t.mem = s.mem

/-- R528: a persistent store that cannot be read at stage 3 does not fail the boot: the device takes every RWP object at its default,
writes the store anew, and raises event 0x1119. -/
def Obligations.PersistentStoreUnreadable : Prop :=
  ∀ (s : State) (r : StageEnd), stageRuns s 3 = true → r.fail = none → r.store = false →
    ∃ t, exec (.bootStageEnd 3 r) s = .next t ∧ t.board.boot = true ∧ oget t 0x2060 1 = 4 ∧ oget t 0x2060 3 = oget s 0x2060 3 ∧
      (∀ i j, j < 256 → isRwp i j = true → oget t i j = objDefault i j) ∧ t.board.rwp = [] ∧ t.board.rwpDom = [] ∧
      ∃ e ∈ t.evLog, e.code = 0x1119

/-- R383-R405: the power cap takes hold at once, is late when the power stays, and lets go; an update keeps the power it measured, never
raises the duty, and trips at the trip temperature; the ramp raises the duty by one; a reading of the regulator stands, a third
failure in a row loses it. None of them touches memory or cells. R531-R535, R431: presses are remembered and act on release by their
length, up to 60 s; an open tray is noted; the debug port shows memory only at level 2, and the trace and the ring from level 1
(assumption log 158). -/
def Obligations.AlmanacAndService : Prop :=
  (∀ s : State, serving s = true →
      (s.alm.capped = false →
        ∃ t, exec .pwrcapAssert s = .next t ∧ t.mem = s.mem ∧ t.cells = s.cells ∧ t.alm.capped = true ∧ t.alm.pstate = 3 ∧
          t.alm.dDev ≤ t.alm.dCap ∧ oget t 0x5002 5 = perfAdd (oget s 0x5002 5) 1 ∧ ∃ e ∈ t.evLog, e.code = 0x0910) ∧
      (s.alm.capped = true → s.alm.late = false → s.alm.fallback ≤ almP100 s →
        ∃ t, exec .pwrcapLate s = .next t ∧ t.mem = s.mem ∧ t.cells = s.cells ∧ t.alm.late = true ∧ t.alm.dCap = 1 ∧ t.alm.dDev ≤ 1 ∧
          oget t 0x5002 6 = errAdd (oget s 0x5002 6) 1 ∧ ∃ e ∈ t.evLog, e.code = 0x0912) ∧
      (s.alm.capped = true →
        ∃ t, exec .pwrcapRelease s = .next t ∧ t.mem = s.mem ∧ t.cells = s.cells ∧ t.alm.capped = false ∧ t.alm.late = false ∧
          t.alm.dCap = 16 ∧ t.alm.dDev ≤ s.alm.dDev) ∧
      (∀ x : AlmIn, ∃ t, exec (.almanacUpdate x) s = .next t ∧ t.mem = s.mem ∧ t.cells = s.cells ∧
        t.alm.powers.getLast? = some (almPower s x.uncore x.cells.sum) ∧ t.alm.dDev ≤ s.alm.dDev ∧
        (t.alm.tripped = true ↔ s.alm.tripped = true ∨ (tripSensor x).isSome = true) ∧ t.alm.tjMax = (x.junc ++ x.io).foldl max (x.junc.headD 0)) ∧
      (∀ mv ma w, ∃ t, exec (.avsRead true mv ma w) s = .next t ∧ t.mem = s.mem ∧ t.cells = s.cells ∧ t.alm.avsFail = 0 ∧
        t.alm.avsLost = false ∧ t.alm.regWarn = w ∧ oget t 0x5001 0x0B = mv ∧ oget t 0x5001 0x0C = ma / 1000) ∧
      (∀ mv ma w, ∃ t, exec (.avsRead false mv ma w) s = .next t ∧ t.mem = s.mem ∧ t.cells = s.cells ∧
        t.alm.avsFail = s.alm.avsFail + 1 ∧ oget t 0x5002 8 = errAdd (oget s 0x5002 8) 1 ∧ (2 ≤ s.alm.avsFail → t.alm.avsLost = true)) ∧
      (∃ t, exec .dutyRamp s = .next t ∧ t.mem = s.mem ∧ t.cells = s.cells ∧
        t.alm.dDev = (if s.alm.dDev < dutyTarget s then s.alm.dDev + 1 else s.alm.dDev))) ∧
  (∀ s : State, serving s = true →
      (s.board.btn = 0 → exec .svcBtnPress s = .next { s with board := { s.board with btn := 1 } }) ∧
      (s.board.btn = 1 →
        exec (.svcBtnHeld false) s = .next (watchSafe { s with board := { s.board with btn := 2 } }) ∧
        exec (.svcBtnHeld true) s = .next (watchSafe { s with board := { s.board with btn := 3 } })) ∧
      (1 ≤ s.board.btn → s.board.btn ≤ 3 →
        (∃ t, exec .svcButtonStuck s = .next t ∧ t.mem = s.mem ∧ t.board.btn = 4 ∧ ∃ e ∈ t.evLog, e.code = 0x111A) ∧
        ∀ ms, ∃ t, exec (.svcBtnRelease ms) s = .next t ∧ t.mem = s.mem ∧ t.cells = s.cells ∧ t.board.btn = 0 ∧
          (ms < 1000 → t.board.identify = true ∧ ∃ e ∈ t.evLog, e.code = 0x1112) ∧
          (1000 ≤ ms → ms < 3000 → t = watchSafe { s with board := { s.board with btn := 0 } }) ∧
          (3000 ≤ ms → ms ≤ 8000 → (∃ e ∈ t.evLog, e.code = 0x1113) ∧
            (drainable s = true → oget s 0x2062 1 = 0 → oget t 0x2062 1 = 1 ∧ t.board.reason = 1) ∧
            (drainable s = false → oget t 0x2062 1 = oget s 0x2062 1)) ∧
          (60000 < ms → t = watchSafe (setBtn s 0)) ∧
          (8000 < ms → ms ≤ 60000 → (∃ e ∈ t.evLog, e.code = 0x1114) ∧ (oget s 0x2062 1 = 1 → oget t 0x2062 1 = 0) ∧
            (oget s 0x2062 1 ≠ 1 → oget t 0x2062 1 = oget s 0x2062 1))) ∧
      exec .identifyEnd s = .next (watchSafe { s with board := { s.board with identify := false } }) ∧
      (∀ o : Bool, (oget s 0x2062 5 == 1) ≠ o →
        ∃ t, exec (.trayLatch o) s = .next t ∧ t.mem = s.mem ∧ t.cells = s.cells ∧ oget t 0x2062 5 = b2n o ∧
          ∃ e ∈ t.evLog, e.code = if o then 0x1116 else 0x1117) ∧
      exec (.debugPortAccess .ident) s = .next (emit s (.debug 0 [])) ∧
      exec (.debugPortAccess .trace) s = .next (if 1 ≤ s.lock.debug then emit s (.debug 1 []) else s) ∧
      (∀ c o, exec (.debugPortAccess (.ringRead c o)) s =
        .next (if 1 ≤ s.lock.debug then emit s (.debug 3 (natLe (cellReg s c.val o) 8)) else s)) ∧
      (∀ c b, exec (.debugPortAccess (.ringPause c b)) s =
        .next (if 1 ≤ s.lock.debug then modCell s c.val (fun x => { x with paused := b }) else s)) ∧
      (∀ a n, memOk s a n = true →
        exec (.debugPortAccess (.read a n)) s = .next (if s.lock.debug = 2 then emit s (.debug 2 (memRead s a n)) else s)) ∧
      ∀ a bs, memOk s a bs.length = true → s.Canonical → mustPend s a bs.length = false →
        ∃ t, exec (.debugPortAccess (.write a bs)) s = .next t ∧ t.cells = s.cells ∧
          ∀ b, memGet t b = if s.lock.debug = 2 ∧ a ≤ b ∧ b < a + bs.length then bs.getD (b - a) 0#8 else memGet s b)
end

