-- ==== Sys2Proof/Laws/Tab.lean ====
section
/-! SUPPORT. Tables: a key that was set reads as set, every other key reads as before. -/
namespace Sys2Proof.Machine

variable {α : Type}

@[simp] theorem tget_nil (d : α) (i : Nat) : tget d [] i = d := rfl

@[simp] theorem tget_tset_same (d : α) (t : Tab α) (i : Nat) (v : α) : tget d (tset t i v) i = v := by
  induction t with
  | nil => simp [tset, tget]
  | cons p r ih =>
    obtain ⟨k, w⟩ := p
    by_cases h : k = i <;> simp [tset, tget, h, ih]

theorem tget_tset_ne (d : α) (t : Tab α) (i j : Nat) (v : α) (h : i ≠ j) : tget d (tset t i v) j = tget d t j := by
  induction t with
  | nil => simp [tset, tget, h]
  | cons p r ih =>
    obtain ⟨k, w⟩ := p
    by_cases hk : k = i
    · subst hk; simp [tset, tget, h]
    · by_cases hj : k = j
      · subst hj; simp [tset, tget, hk]
      · simp [tset, tget, hk, hj, ih]

theorem tget_tset (d : α) (t : Tab α) (i j : Nat) (v : α) : tget d (tset t i v) j = if i = j then v else tget d t j := by
  by_cases h : i = j
  · subst h; simp
  · simp [h, tget_tset_ne d t i j v h]

@[simp] theorem tfind_tset_same (t : Tab α) (i : Nat) (v : α) : tfind (tset t i v) i = some v := by
  induction t with
  | nil => simp [tset, tfind]
  | cons p r ih =>
    obtain ⟨k, w⟩ := p
    by_cases h : k = i <;> simp [tset, tfind, h, ih]

theorem tfind_tset_ne (t : Tab α) (i j : Nat) (v : α) (h : i ≠ j) : tfind (tset t i v) j = tfind t j := by
  induction t with
  | nil => simp [tset, tfind, h]
  | cons p r ih =>
    obtain ⟨k, w⟩ := p
    by_cases hk : k = i
    · subst hk; simp [tset, tfind, h]
    · by_cases hj : k = j
      · subst hj; simp [tset, tfind, hk]
      · simp [tset, tfind, hk, hj, ih]

theorem tget_eq_tfind (d : α) (t : Tab α) (i : Nat) : tget d t i = (tfind t i).getD d := by
  induction t with
  | nil => rfl
  | cons p r ih =>
    obtain ⟨k, w⟩ := p
    by_cases h : k = i <;> simp [tget, tfind, h, ih]

end Sys2Proof.Machine
end

