-- ==== Sys2Proof/Laws/State.lean ====
section
/-! SUPPORT. What the named updates of the state leave as it was, field by field, and what they read as. -/
namespace Sys2Proof.Machine

variable (s : State)

@[simp] theorem setCell_dflags (c : Nat) (x : Cell) : (setCell s c x).dflags = s.dflags := rfl
@[simp] theorem setCell_mem (c : Nat) (x : Cell) : (setCell s c x).mem = s.mem := rfl
@[simp] theorem setCell_poison (c : Nat) (x : Cell) : (setCell s c x).poison = s.poison := rfl
@[simp] theorem setCell_pchk (c : Nat) (x : Cell) : (setCell s c x).pchk = s.pchk := rfl
@[simp] theorem setCell_wins (c : Nat) (x : Cell) : (setCell s c x).wins = s.wins := rfl
@[simp] theorem setCell_objs (c : Nat) (x : Cell) : (setCell s c x).objs = s.objs := rfl
@[simp] theorem setCell_evLog (c : Nat) (x : Cell) : (setCell s c x).evLog = s.evLog := rfl
@[simp] theorem setCell_eps (c : Nat) (x : Cell) : (setCell s c x).eps = s.eps := rfl
@[simp] theorem setCell_epoch (c : Nat) (x : Cell) : (setCell s c x).epoch = s.epoch := rfl
@[simp] theorem setCell_holding (c : Nat) (x : Cell) : (setCell s c x).holding = s.holding := rfl
@[simp] theorem setCell_past (c : Nat) (x : Cell) : (setCell s c x).past = s.past := rfl
@[simp] theorem setCell_steps (c : Nat) (x : Cell) : (setCell s c x).steps = s.steps := rfl
@[simp] theorem setCell_released (c : Nat) (x : Cell) : (setCell s c x).released = s.released := rfl
@[simp] theorem setCell_jr (c : Nat) (x : Cell) : (setCell s c x).jr = s.jr := rfl
@[simp] theorem setCell_lastPosted (c : Nat) (x : Cell) : (setCell s c x).lastPosted = s.lastPosted := rfl
@[simp] theorem setCell_ldg (c : Nat) (x : Cell) : (setCell s c x).ldg = s.ldg := rfl
@[simp] theorem setCell_roll (c : Nat) (x : Cell) : (setCell s c x).roll = s.roll := rfl
@[simp] theorem setCell_rcv (c : Nat) (x : Cell) : (setCell s c x).rcv = s.rcv := rfl
@[simp] theorem setCell_baro (c : Nat) (x : Cell) : (setCell s c x).baro = s.baro := rfl
@[simp] theorem setCell_lock (c : Nat) (x : Cell) : (setCell s c x).lock = s.lock := rfl
@[simp] theorem setCell_host (c : Nat) (x : Cell) : (setCell s c x).host = s.host := rfl
@[simp] theorem setCell_up (c : Nat) (x : Cell) : (setCell s c x).up = s.up := rfl
@[simp] theorem setCell_hbm (c : Nat) (x : Cell) : (setCell s c x).hbm = s.hbm := rfl
@[simp] theorem setCell_doms (c : Nat) (x : Cell) : (setCell s c x).doms = s.doms := rfl
@[simp] theorem setCell_hasJournal (c : Nat) (x : Cell) : (setCell s c x).hasJournal = s.hasJournal := rfl
@[simp] theorem setCell_plan (c : Nat) (x : Cell) : (setCell s c x).plan = s.plan := rfl
@[simp] theorem setCell_inPlan (c : Nat) (x : Cell) : (setCell s c x).inPlan = s.inPlan := rfl
@[simp] theorem setCell_found (c : Nat) (x : Cell) : (setCell s c x).found = s.found := rfl
@[simp] theorem setCell_pendW (c : Nat) (x : Cell) : (setCell s c x).pendW = s.pendW := rfl
@[simp] theorem setCell_notSafe0 (c : Nat) (x : Cell) : (setCell s c x).notSafe0 = s.notSafe0 := rfl
@[simp] theorem setCell_ranks (c : Nat) (x : Cell) : (setCell s c x).ranks = s.ranks := rfl
@[simp] theorem setCell_ports (c : Nat) (x : Cell) : (setCell s c x).ports = s.ports := rfl
@[simp] theorem setCell_trk (c : Nat) (x : Cell) : (setCell s c x).trk = s.trk := rfl
@[simp] theorem setCell_trkGen (c : Nat) (x : Cell) : (setCell s c x).trkGen = s.trkGen := rfl
@[simp] theorem setCell_trkHwm (c : Nat) (x : Cell) : (setCell s c x).trkHwm = s.trkHwm := rfl
@[simp] theorem setCell_sess (c : Nat) (x : Cell) : (setCell s c x).sess = s.sess := rfl
@[simp] theorem setCell_mill (c : Nat) (x : Cell) : (setCell s c x).mill = s.mill := rfl
@[simp] theorem setCell_mseq0 (c : Nat) (x : Cell) : (setCell s c x).mseq0 = s.mseq0 := rfl
@[simp] theorem setCell_later (c : Nat) (x : Cell) : (setCell s c x).later = s.later := rfl
@[simp] theorem setCell_scratch (c : Nat) (x : Cell) : (setCell s c x).scratch = s.scratch := rfl
@[simp] theorem setCell_msadd (c : Nat) (x : Cell) : (setCell s c x).msadd = s.msadd := rfl
@[simp] theorem setCell_cellMap (c : Nat) (x : Cell) : (setCell s c x).cellMap = s.cellMap := rfl
@[simp] theorem setCell_alm (c : Nat) (x : Cell) : (setCell s c x).alm = s.alm := rfl
@[simp] theorem setCell_txq (c : Nat) (x : Cell) : (setCell s c x).txq = s.txq := rfl
@[simp] theorem setCell_rxq (c : Nat) (x : Cell) : (setCell s c x).rxq = s.rxq := rfl
@[simp] theorem setCell_heldSig (c : Nat) (x : Cell) : (setCell s c x).heldSig = s.heldSig := rfl
@[simp] theorem setCell_wtq (c : Nat) (x : Cell) : (setCell s c x).wtq = s.wtq := rfl
@[simp] theorem setCell_fronts (c : Nat) (x : Cell) : (setCell s c x).fronts = s.fronts := rfl
@[simp] theorem setCell_xferFrom (c : Nat) (x : Cell) : (setCell s c x).xferFrom = s.xferFrom := rfl
@[simp] theorem setCell_tee (c : Nat) (x : Cell) : (setCell s c x).tee = s.tee := rfl
@[simp] theorem setCell_cowQ (c : Nat) (x : Cell) : (setCell s c x).cowQ = s.cowQ := rfl
@[simp] theorem setCell_scrQ (c : Nat) (x : Cell) : (setCell s c x).scrQ = s.scrQ := rfl
@[simp] theorem setCell_lateOps (c : Nat) (x : Cell) : (setCell s c x).lateOps = s.lateOps := rfl
@[simp] theorem setCell_selfUp (c : Nat) (x : Cell) : (setCell s c x).selfUp = s.selfUp := rfl
@[simp] theorem setCell_selfDown (c : Nat) (x : Cell) : (setCell s c x).selfDown = s.selfDown := rfl
@[simp] theorem setCell_once (c : Nat) (x : Cell) : (setCell s c x).once = s.once := rfl
@[simp] theorem setCell_msixEn (c : Nat) (x : Cell) : (setCell s c x).msixEn = s.msixEn := rfl
@[simp] theorem setCell_msixOpen (c : Nat) (x : Cell) : (setCell s c x).msixOpen = s.msixOpen := rfl
@[simp] theorem setCell_msixPend (c : Nat) (x : Cell) : (setCell s c x).msixPend = s.msixPend := rfl
@[simp] theorem setCell_board (c : Nat) (x : Cell) : (setCell s c x).board = s.board := rfl
@[simp] theorem setCell_spdm (c : Nat) (x : Cell) : (setCell s c x).spdm = s.spdm := rfl
@[simp] theorem setCell_ssess (c : Nat) (x : Cell) : (setCell s c x).ssess = s.ssess := rfl
@[simp] theorem setCell_ide (c : Nat) (x : Cell) : (setCell s c x).ide = s.ide := rfl
@[simp] theorem setCell_bulk (c : Nat) (x : Cell) : (setCell s c x).bulk = s.bulk := rfl
@[simp] theorem setCell_mgr (c : Nat) (x : Cell) : (setCell s c x).mgr = s.mgr := rfl
@[simp] theorem setCell_mgmtTx (c : Nat) (x : Cell) : (setCell s c x).mgmtTx = s.mgmtTx := rfl
@[simp] theorem setCell_eth (c : Nat) (x : Cell) : (setCell s c x).eth = s.eth := rfl
@[simp] theorem setCell_now (c : Nat) (x : Cell) : (setCell s c x).now = s.now := rfl
@[simp] theorem setCell_free (c : Nat) (x : Cell) : (setCell s c x).free = s.free := rfl
@[simp] theorem setCell_outbox (c : Nat) (x : Cell) : (setCell s c x).outbox = s.outbox := rfl
@[simp] theorem setCell_pending (c : Nat) (x : Cell) : (setCell s c x).pending = s.pending := rfl

@[simp] theorem modCell_dflags (c : Nat) (f : Cell → Cell) : (modCell s c f).dflags = s.dflags := rfl
@[simp] theorem modCell_mem (c : Nat) (f : Cell → Cell) : (modCell s c f).mem = s.mem := rfl
@[simp] theorem modCell_poison (c : Nat) (f : Cell → Cell) : (modCell s c f).poison = s.poison := rfl
@[simp] theorem modCell_pchk (c : Nat) (f : Cell → Cell) : (modCell s c f).pchk = s.pchk := rfl
@[simp] theorem modCell_wins (c : Nat) (f : Cell → Cell) : (modCell s c f).wins = s.wins := rfl
@[simp] theorem modCell_objs (c : Nat) (f : Cell → Cell) : (modCell s c f).objs = s.objs := rfl
@[simp] theorem modCell_evLog (c : Nat) (f : Cell → Cell) : (modCell s c f).evLog = s.evLog := rfl
@[simp] theorem modCell_eps (c : Nat) (f : Cell → Cell) : (modCell s c f).eps = s.eps := rfl
@[simp] theorem modCell_epoch (c : Nat) (f : Cell → Cell) : (modCell s c f).epoch = s.epoch := rfl
@[simp] theorem modCell_holding (c : Nat) (f : Cell → Cell) : (modCell s c f).holding = s.holding := rfl
@[simp] theorem modCell_past (c : Nat) (f : Cell → Cell) : (modCell s c f).past = s.past := rfl
@[simp] theorem modCell_steps (c : Nat) (f : Cell → Cell) : (modCell s c f).steps = s.steps := rfl
@[simp] theorem modCell_released (c : Nat) (f : Cell → Cell) : (modCell s c f).released = s.released := rfl
@[simp] theorem modCell_jr (c : Nat) (f : Cell → Cell) : (modCell s c f).jr = s.jr := rfl
@[simp] theorem modCell_lastPosted (c : Nat) (f : Cell → Cell) : (modCell s c f).lastPosted = s.lastPosted := rfl
@[simp] theorem modCell_ldg (c : Nat) (f : Cell → Cell) : (modCell s c f).ldg = s.ldg := rfl
@[simp] theorem modCell_roll (c : Nat) (f : Cell → Cell) : (modCell s c f).roll = s.roll := rfl
@[simp] theorem modCell_rcv (c : Nat) (f : Cell → Cell) : (modCell s c f).rcv = s.rcv := rfl
@[simp] theorem modCell_baro (c : Nat) (f : Cell → Cell) : (modCell s c f).baro = s.baro := rfl
@[simp] theorem modCell_lock (c : Nat) (f : Cell → Cell) : (modCell s c f).lock = s.lock := rfl
@[simp] theorem modCell_host (c : Nat) (f : Cell → Cell) : (modCell s c f).host = s.host := rfl
@[simp] theorem modCell_up (c : Nat) (f : Cell → Cell) : (modCell s c f).up = s.up := rfl
@[simp] theorem modCell_hbm (c : Nat) (f : Cell → Cell) : (modCell s c f).hbm = s.hbm := rfl
@[simp] theorem modCell_doms (c : Nat) (f : Cell → Cell) : (modCell s c f).doms = s.doms := rfl
@[simp] theorem modCell_hasJournal (c : Nat) (f : Cell → Cell) : (modCell s c f).hasJournal = s.hasJournal := rfl
@[simp] theorem modCell_plan (c : Nat) (f : Cell → Cell) : (modCell s c f).plan = s.plan := rfl
@[simp] theorem modCell_inPlan (c : Nat) (f : Cell → Cell) : (modCell s c f).inPlan = s.inPlan := rfl
@[simp] theorem modCell_found (c : Nat) (f : Cell → Cell) : (modCell s c f).found = s.found := rfl
@[simp] theorem modCell_pendW (c : Nat) (f : Cell → Cell) : (modCell s c f).pendW = s.pendW := rfl
@[simp] theorem modCell_notSafe0 (c : Nat) (f : Cell → Cell) : (modCell s c f).notSafe0 = s.notSafe0 := rfl
@[simp] theorem modCell_ranks (c : Nat) (f : Cell → Cell) : (modCell s c f).ranks = s.ranks := rfl
@[simp] theorem modCell_ports (c : Nat) (f : Cell → Cell) : (modCell s c f).ports = s.ports := rfl
@[simp] theorem modCell_trk (c : Nat) (f : Cell → Cell) : (modCell s c f).trk = s.trk := rfl
@[simp] theorem modCell_trkGen (c : Nat) (f : Cell → Cell) : (modCell s c f).trkGen = s.trkGen := rfl
@[simp] theorem modCell_trkHwm (c : Nat) (f : Cell → Cell) : (modCell s c f).trkHwm = s.trkHwm := rfl
@[simp] theorem modCell_sess (c : Nat) (f : Cell → Cell) : (modCell s c f).sess = s.sess := rfl
@[simp] theorem modCell_mill (c : Nat) (f : Cell → Cell) : (modCell s c f).mill = s.mill := rfl
@[simp] theorem modCell_mseq0 (c : Nat) (f : Cell → Cell) : (modCell s c f).mseq0 = s.mseq0 := rfl
@[simp] theorem modCell_later (c : Nat) (f : Cell → Cell) : (modCell s c f).later = s.later := rfl
@[simp] theorem modCell_scratch (c : Nat) (f : Cell → Cell) : (modCell s c f).scratch = s.scratch := rfl
@[simp] theorem modCell_msadd (c : Nat) (f : Cell → Cell) : (modCell s c f).msadd = s.msadd := rfl
@[simp] theorem modCell_cellMap (c : Nat) (f : Cell → Cell) : (modCell s c f).cellMap = s.cellMap := rfl
@[simp] theorem modCell_alm (c : Nat) (f : Cell → Cell) : (modCell s c f).alm = s.alm := rfl
@[simp] theorem modCell_txq (c : Nat) (f : Cell → Cell) : (modCell s c f).txq = s.txq := rfl
@[simp] theorem modCell_rxq (c : Nat) (f : Cell → Cell) : (modCell s c f).rxq = s.rxq := rfl
@[simp] theorem modCell_heldSig (c : Nat) (f : Cell → Cell) : (modCell s c f).heldSig = s.heldSig := rfl
@[simp] theorem modCell_wtq (c : Nat) (f : Cell → Cell) : (modCell s c f).wtq = s.wtq := rfl
@[simp] theorem modCell_fronts (c : Nat) (f : Cell → Cell) : (modCell s c f).fronts = s.fronts := rfl
@[simp] theorem modCell_xferFrom (c : Nat) (f : Cell → Cell) : (modCell s c f).xferFrom = s.xferFrom := rfl
@[simp] theorem modCell_tee (c : Nat) (f : Cell → Cell) : (modCell s c f).tee = s.tee := rfl
@[simp] theorem modCell_cowQ (c : Nat) (f : Cell → Cell) : (modCell s c f).cowQ = s.cowQ := rfl
@[simp] theorem modCell_scrQ (c : Nat) (f : Cell → Cell) : (modCell s c f).scrQ = s.scrQ := rfl
@[simp] theorem modCell_lateOps (c : Nat) (f : Cell → Cell) : (modCell s c f).lateOps = s.lateOps := rfl
@[simp] theorem modCell_selfUp (c : Nat) (f : Cell → Cell) : (modCell s c f).selfUp = s.selfUp := rfl
@[simp] theorem modCell_selfDown (c : Nat) (f : Cell → Cell) : (modCell s c f).selfDown = s.selfDown := rfl
@[simp] theorem modCell_once (c : Nat) (f : Cell → Cell) : (modCell s c f).once = s.once := rfl
@[simp] theorem modCell_msixEn (c : Nat) (f : Cell → Cell) : (modCell s c f).msixEn = s.msixEn := rfl
@[simp] theorem modCell_msixOpen (c : Nat) (f : Cell → Cell) : (modCell s c f).msixOpen = s.msixOpen := rfl
@[simp] theorem modCell_msixPend (c : Nat) (f : Cell → Cell) : (modCell s c f).msixPend = s.msixPend := rfl
@[simp] theorem modCell_board (c : Nat) (f : Cell → Cell) : (modCell s c f).board = s.board := rfl
@[simp] theorem modCell_spdm (c : Nat) (f : Cell → Cell) : (modCell s c f).spdm = s.spdm := rfl
@[simp] theorem modCell_ssess (c : Nat) (f : Cell → Cell) : (modCell s c f).ssess = s.ssess := rfl
@[simp] theorem modCell_ide (c : Nat) (f : Cell → Cell) : (modCell s c f).ide = s.ide := rfl
@[simp] theorem modCell_bulk (c : Nat) (f : Cell → Cell) : (modCell s c f).bulk = s.bulk := rfl
@[simp] theorem modCell_mgr (c : Nat) (f : Cell → Cell) : (modCell s c f).mgr = s.mgr := rfl
@[simp] theorem modCell_mgmtTx (c : Nat) (f : Cell → Cell) : (modCell s c f).mgmtTx = s.mgmtTx := rfl
@[simp] theorem modCell_eth (c : Nat) (f : Cell → Cell) : (modCell s c f).eth = s.eth := rfl
@[simp] theorem modCell_now (c : Nat) (f : Cell → Cell) : (modCell s c f).now = s.now := rfl
@[simp] theorem modCell_free (c : Nat) (f : Cell → Cell) : (modCell s c f).free = s.free := rfl
@[simp] theorem modCell_outbox (c : Nat) (f : Cell → Cell) : (modCell s c f).outbox = s.outbox := rfl
@[simp] theorem modCell_pending (c : Nat) (f : Cell → Cell) : (modCell s c f).pending = s.pending := rfl

@[simp] theorem setStrm_dflags (c k : Nat) (x : Stream) : (setStrm s c k x).dflags = s.dflags := rfl
@[simp] theorem setStrm_mem (c k : Nat) (x : Stream) : (setStrm s c k x).mem = s.mem := rfl
@[simp] theorem setStrm_poison (c k : Nat) (x : Stream) : (setStrm s c k x).poison = s.poison := rfl
@[simp] theorem setStrm_pchk (c k : Nat) (x : Stream) : (setStrm s c k x).pchk = s.pchk := rfl
@[simp] theorem setStrm_wins (c k : Nat) (x : Stream) : (setStrm s c k x).wins = s.wins := rfl
@[simp] theorem setStrm_objs (c k : Nat) (x : Stream) : (setStrm s c k x).objs = s.objs := rfl
@[simp] theorem setStrm_evLog (c k : Nat) (x : Stream) : (setStrm s c k x).evLog = s.evLog := rfl
@[simp] theorem setStrm_eps (c k : Nat) (x : Stream) : (setStrm s c k x).eps = s.eps := rfl
@[simp] theorem setStrm_epoch (c k : Nat) (x : Stream) : (setStrm s c k x).epoch = s.epoch := rfl
@[simp] theorem setStrm_holding (c k : Nat) (x : Stream) : (setStrm s c k x).holding = s.holding := rfl
@[simp] theorem setStrm_past (c k : Nat) (x : Stream) : (setStrm s c k x).past = s.past := rfl
@[simp] theorem setStrm_steps (c k : Nat) (x : Stream) : (setStrm s c k x).steps = s.steps := rfl
@[simp] theorem setStrm_released (c k : Nat) (x : Stream) : (setStrm s c k x).released = s.released := rfl
@[simp] theorem setStrm_jr (c k : Nat) (x : Stream) : (setStrm s c k x).jr = s.jr := rfl
@[simp] theorem setStrm_lastPosted (c k : Nat) (x : Stream) : (setStrm s c k x).lastPosted = s.lastPosted := rfl
@[simp] theorem setStrm_ldg (c k : Nat) (x : Stream) : (setStrm s c k x).ldg = s.ldg := rfl
@[simp] theorem setStrm_roll (c k : Nat) (x : Stream) : (setStrm s c k x).roll = s.roll := rfl
@[simp] theorem setStrm_rcv (c k : Nat) (x : Stream) : (setStrm s c k x).rcv = s.rcv := rfl
@[simp] theorem setStrm_baro (c k : Nat) (x : Stream) : (setStrm s c k x).baro = s.baro := rfl
@[simp] theorem setStrm_lock (c k : Nat) (x : Stream) : (setStrm s c k x).lock = s.lock := rfl
@[simp] theorem setStrm_host (c k : Nat) (x : Stream) : (setStrm s c k x).host = s.host := rfl
@[simp] theorem setStrm_up (c k : Nat) (x : Stream) : (setStrm s c k x).up = s.up := rfl
@[simp] theorem setStrm_hbm (c k : Nat) (x : Stream) : (setStrm s c k x).hbm = s.hbm := rfl
@[simp] theorem setStrm_doms (c k : Nat) (x : Stream) : (setStrm s c k x).doms = s.doms := rfl
@[simp] theorem setStrm_hasJournal (c k : Nat) (x : Stream) : (setStrm s c k x).hasJournal = s.hasJournal := rfl
@[simp] theorem setStrm_plan (c k : Nat) (x : Stream) : (setStrm s c k x).plan = s.plan := rfl
@[simp] theorem setStrm_inPlan (c k : Nat) (x : Stream) : (setStrm s c k x).inPlan = s.inPlan := rfl
@[simp] theorem setStrm_found (c k : Nat) (x : Stream) : (setStrm s c k x).found = s.found := rfl
@[simp] theorem setStrm_pendW (c k : Nat) (x : Stream) : (setStrm s c k x).pendW = s.pendW := rfl
@[simp] theorem setStrm_notSafe0 (c k : Nat) (x : Stream) : (setStrm s c k x).notSafe0 = s.notSafe0 := rfl
@[simp] theorem setStrm_ranks (c k : Nat) (x : Stream) : (setStrm s c k x).ranks = s.ranks := rfl
@[simp] theorem setStrm_ports (c k : Nat) (x : Stream) : (setStrm s c k x).ports = s.ports := rfl
@[simp] theorem setStrm_trk (c k : Nat) (x : Stream) : (setStrm s c k x).trk = s.trk := rfl
@[simp] theorem setStrm_trkGen (c k : Nat) (x : Stream) : (setStrm s c k x).trkGen = s.trkGen := rfl
@[simp] theorem setStrm_trkHwm (c k : Nat) (x : Stream) : (setStrm s c k x).trkHwm = s.trkHwm := rfl
@[simp] theorem setStrm_sess (c k : Nat) (x : Stream) : (setStrm s c k x).sess = s.sess := rfl
@[simp] theorem setStrm_mill (c k : Nat) (x : Stream) : (setStrm s c k x).mill = s.mill := rfl
@[simp] theorem setStrm_mseq0 (c k : Nat) (x : Stream) : (setStrm s c k x).mseq0 = s.mseq0 := rfl
@[simp] theorem setStrm_later (c k : Nat) (x : Stream) : (setStrm s c k x).later = s.later := rfl
@[simp] theorem setStrm_scratch (c k : Nat) (x : Stream) : (setStrm s c k x).scratch = s.scratch := rfl
@[simp] theorem setStrm_msadd (c k : Nat) (x : Stream) : (setStrm s c k x).msadd = s.msadd := rfl
@[simp] theorem setStrm_cellMap (c k : Nat) (x : Stream) : (setStrm s c k x).cellMap = s.cellMap := rfl
@[simp] theorem setStrm_alm (c k : Nat) (x : Stream) : (setStrm s c k x).alm = s.alm := rfl
@[simp] theorem setStrm_txq (c k : Nat) (x : Stream) : (setStrm s c k x).txq = s.txq := rfl
@[simp] theorem setStrm_rxq (c k : Nat) (x : Stream) : (setStrm s c k x).rxq = s.rxq := rfl
@[simp] theorem setStrm_heldSig (c k : Nat) (x : Stream) : (setStrm s c k x).heldSig = s.heldSig := rfl
@[simp] theorem setStrm_wtq (c k : Nat) (x : Stream) : (setStrm s c k x).wtq = s.wtq := rfl
@[simp] theorem setStrm_fronts (c k : Nat) (x : Stream) : (setStrm s c k x).fronts = s.fronts := rfl
@[simp] theorem setStrm_xferFrom (c k : Nat) (x : Stream) : (setStrm s c k x).xferFrom = s.xferFrom := rfl
@[simp] theorem setStrm_tee (c k : Nat) (x : Stream) : (setStrm s c k x).tee = s.tee := rfl
@[simp] theorem setStrm_cowQ (c k : Nat) (x : Stream) : (setStrm s c k x).cowQ = s.cowQ := rfl
@[simp] theorem setStrm_scrQ (c k : Nat) (x : Stream) : (setStrm s c k x).scrQ = s.scrQ := rfl
@[simp] theorem setStrm_lateOps (c k : Nat) (x : Stream) : (setStrm s c k x).lateOps = s.lateOps := rfl
@[simp] theorem setStrm_selfUp (c k : Nat) (x : Stream) : (setStrm s c k x).selfUp = s.selfUp := rfl
@[simp] theorem setStrm_selfDown (c k : Nat) (x : Stream) : (setStrm s c k x).selfDown = s.selfDown := rfl
@[simp] theorem setStrm_once (c k : Nat) (x : Stream) : (setStrm s c k x).once = s.once := rfl
@[simp] theorem setStrm_msixEn (c k : Nat) (x : Stream) : (setStrm s c k x).msixEn = s.msixEn := rfl
@[simp] theorem setStrm_msixOpen (c k : Nat) (x : Stream) : (setStrm s c k x).msixOpen = s.msixOpen := rfl
@[simp] theorem setStrm_msixPend (c k : Nat) (x : Stream) : (setStrm s c k x).msixPend = s.msixPend := rfl
@[simp] theorem setStrm_board (c k : Nat) (x : Stream) : (setStrm s c k x).board = s.board := rfl
@[simp] theorem setStrm_spdm (c k : Nat) (x : Stream) : (setStrm s c k x).spdm = s.spdm := rfl
@[simp] theorem setStrm_ssess (c k : Nat) (x : Stream) : (setStrm s c k x).ssess = s.ssess := rfl
@[simp] theorem setStrm_ide (c k : Nat) (x : Stream) : (setStrm s c k x).ide = s.ide := rfl
@[simp] theorem setStrm_bulk (c k : Nat) (x : Stream) : (setStrm s c k x).bulk = s.bulk := rfl
@[simp] theorem setStrm_mgr (c k : Nat) (x : Stream) : (setStrm s c k x).mgr = s.mgr := rfl
@[simp] theorem setStrm_mgmtTx (c k : Nat) (x : Stream) : (setStrm s c k x).mgmtTx = s.mgmtTx := rfl
@[simp] theorem setStrm_eth (c k : Nat) (x : Stream) : (setStrm s c k x).eth = s.eth := rfl
@[simp] theorem setStrm_now (c k : Nat) (x : Stream) : (setStrm s c k x).now = s.now := rfl
@[simp] theorem setStrm_free (c k : Nat) (x : Stream) : (setStrm s c k x).free = s.free := rfl
@[simp] theorem setStrm_outbox (c k : Nat) (x : Stream) : (setStrm s c k x).outbox = s.outbox := rfl
@[simp] theorem setStrm_pending (c k : Nat) (x : Stream) : (setStrm s c k x).pending = s.pending := rfl

@[simp] theorem modStrm_dflags (c k : Nat) (f : Stream → Stream) : (modStrm s c k f).dflags = s.dflags := rfl
@[simp] theorem modStrm_mem (c k : Nat) (f : Stream → Stream) : (modStrm s c k f).mem = s.mem := rfl
@[simp] theorem modStrm_poison (c k : Nat) (f : Stream → Stream) : (modStrm s c k f).poison = s.poison := rfl
@[simp] theorem modStrm_pchk (c k : Nat) (f : Stream → Stream) : (modStrm s c k f).pchk = s.pchk := rfl
@[simp] theorem modStrm_wins (c k : Nat) (f : Stream → Stream) : (modStrm s c k f).wins = s.wins := rfl
@[simp] theorem modStrm_objs (c k : Nat) (f : Stream → Stream) : (modStrm s c k f).objs = s.objs := rfl
@[simp] theorem modStrm_evLog (c k : Nat) (f : Stream → Stream) : (modStrm s c k f).evLog = s.evLog := rfl
@[simp] theorem modStrm_eps (c k : Nat) (f : Stream → Stream) : (modStrm s c k f).eps = s.eps := rfl
@[simp] theorem modStrm_epoch (c k : Nat) (f : Stream → Stream) : (modStrm s c k f).epoch = s.epoch := rfl
@[simp] theorem modStrm_holding (c k : Nat) (f : Stream → Stream) : (modStrm s c k f).holding = s.holding := rfl
@[simp] theorem modStrm_past (c k : Nat) (f : Stream → Stream) : (modStrm s c k f).past = s.past := rfl
@[simp] theorem modStrm_steps (c k : Nat) (f : Stream → Stream) : (modStrm s c k f).steps = s.steps := rfl
@[simp] theorem modStrm_released (c k : Nat) (f : Stream → Stream) : (modStrm s c k f).released = s.released := rfl
@[simp] theorem modStrm_jr (c k : Nat) (f : Stream → Stream) : (modStrm s c k f).jr = s.jr := rfl
@[simp] theorem modStrm_lastPosted (c k : Nat) (f : Stream → Stream) : (modStrm s c k f).lastPosted = s.lastPosted := rfl
@[simp] theorem modStrm_ldg (c k : Nat) (f : Stream → Stream) : (modStrm s c k f).ldg = s.ldg := rfl
@[simp] theorem modStrm_roll (c k : Nat) (f : Stream → Stream) : (modStrm s c k f).roll = s.roll := rfl
@[simp] theorem modStrm_rcv (c k : Nat) (f : Stream → Stream) : (modStrm s c k f).rcv = s.rcv := rfl
@[simp] theorem modStrm_baro (c k : Nat) (f : Stream → Stream) : (modStrm s c k f).baro = s.baro := rfl
@[simp] theorem modStrm_lock (c k : Nat) (f : Stream → Stream) : (modStrm s c k f).lock = s.lock := rfl
@[simp] theorem modStrm_host (c k : Nat) (f : Stream → Stream) : (modStrm s c k f).host = s.host := rfl
@[simp] theorem modStrm_up (c k : Nat) (f : Stream → Stream) : (modStrm s c k f).up = s.up := rfl
@[simp] theorem modStrm_hbm (c k : Nat) (f : Stream → Stream) : (modStrm s c k f).hbm = s.hbm := rfl
@[simp] theorem modStrm_doms (c k : Nat) (f : Stream → Stream) : (modStrm s c k f).doms = s.doms := rfl
@[simp] theorem modStrm_hasJournal (c k : Nat) (f : Stream → Stream) : (modStrm s c k f).hasJournal = s.hasJournal := rfl
@[simp] theorem modStrm_plan (c k : Nat) (f : Stream → Stream) : (modStrm s c k f).plan = s.plan := rfl
@[simp] theorem modStrm_inPlan (c k : Nat) (f : Stream → Stream) : (modStrm s c k f).inPlan = s.inPlan := rfl
@[simp] theorem modStrm_found (c k : Nat) (f : Stream → Stream) : (modStrm s c k f).found = s.found := rfl
@[simp] theorem modStrm_pendW (c k : Nat) (f : Stream → Stream) : (modStrm s c k f).pendW = s.pendW := rfl
@[simp] theorem modStrm_notSafe0 (c k : Nat) (f : Stream → Stream) : (modStrm s c k f).notSafe0 = s.notSafe0 := rfl
@[simp] theorem modStrm_ranks (c k : Nat) (f : Stream → Stream) : (modStrm s c k f).ranks = s.ranks := rfl
@[simp] theorem modStrm_ports (c k : Nat) (f : Stream → Stream) : (modStrm s c k f).ports = s.ports := rfl
@[simp] theorem modStrm_trk (c k : Nat) (f : Stream → Stream) : (modStrm s c k f).trk = s.trk := rfl
@[simp] theorem modStrm_trkGen (c k : Nat) (f : Stream → Stream) : (modStrm s c k f).trkGen = s.trkGen := rfl
@[simp] theorem modStrm_trkHwm (c k : Nat) (f : Stream → Stream) : (modStrm s c k f).trkHwm = s.trkHwm := rfl
@[simp] theorem modStrm_sess (c k : Nat) (f : Stream → Stream) : (modStrm s c k f).sess = s.sess := rfl
@[simp] theorem modStrm_mill (c k : Nat) (f : Stream → Stream) : (modStrm s c k f).mill = s.mill := rfl
@[simp] theorem modStrm_mseq0 (c k : Nat) (f : Stream → Stream) : (modStrm s c k f).mseq0 = s.mseq0 := rfl
@[simp] theorem modStrm_later (c k : Nat) (f : Stream → Stream) : (modStrm s c k f).later = s.later := rfl
@[simp] theorem modStrm_scratch (c k : Nat) (f : Stream → Stream) : (modStrm s c k f).scratch = s.scratch := rfl
@[simp] theorem modStrm_msadd (c k : Nat) (f : Stream → Stream) : (modStrm s c k f).msadd = s.msadd := rfl
@[simp] theorem modStrm_cellMap (c k : Nat) (f : Stream → Stream) : (modStrm s c k f).cellMap = s.cellMap := rfl
@[simp] theorem modStrm_alm (c k : Nat) (f : Stream → Stream) : (modStrm s c k f).alm = s.alm := rfl
@[simp] theorem modStrm_txq (c k : Nat) (f : Stream → Stream) : (modStrm s c k f).txq = s.txq := rfl
@[simp] theorem modStrm_rxq (c k : Nat) (f : Stream → Stream) : (modStrm s c k f).rxq = s.rxq := rfl
@[simp] theorem modStrm_heldSig (c k : Nat) (f : Stream → Stream) : (modStrm s c k f).heldSig = s.heldSig := rfl
@[simp] theorem modStrm_wtq (c k : Nat) (f : Stream → Stream) : (modStrm s c k f).wtq = s.wtq := rfl
@[simp] theorem modStrm_fronts (c k : Nat) (f : Stream → Stream) : (modStrm s c k f).fronts = s.fronts := rfl
@[simp] theorem modStrm_xferFrom (c k : Nat) (f : Stream → Stream) : (modStrm s c k f).xferFrom = s.xferFrom := rfl
@[simp] theorem modStrm_tee (c k : Nat) (f : Stream → Stream) : (modStrm s c k f).tee = s.tee := rfl
@[simp] theorem modStrm_cowQ (c k : Nat) (f : Stream → Stream) : (modStrm s c k f).cowQ = s.cowQ := rfl
@[simp] theorem modStrm_scrQ (c k : Nat) (f : Stream → Stream) : (modStrm s c k f).scrQ = s.scrQ := rfl
@[simp] theorem modStrm_lateOps (c k : Nat) (f : Stream → Stream) : (modStrm s c k f).lateOps = s.lateOps := rfl
@[simp] theorem modStrm_selfUp (c k : Nat) (f : Stream → Stream) : (modStrm s c k f).selfUp = s.selfUp := rfl
@[simp] theorem modStrm_selfDown (c k : Nat) (f : Stream → Stream) : (modStrm s c k f).selfDown = s.selfDown := rfl
@[simp] theorem modStrm_once (c k : Nat) (f : Stream → Stream) : (modStrm s c k f).once = s.once := rfl
@[simp] theorem modStrm_msixEn (c k : Nat) (f : Stream → Stream) : (modStrm s c k f).msixEn = s.msixEn := rfl
@[simp] theorem modStrm_msixOpen (c k : Nat) (f : Stream → Stream) : (modStrm s c k f).msixOpen = s.msixOpen := rfl
@[simp] theorem modStrm_msixPend (c k : Nat) (f : Stream → Stream) : (modStrm s c k f).msixPend = s.msixPend := rfl
@[simp] theorem modStrm_board (c k : Nat) (f : Stream → Stream) : (modStrm s c k f).board = s.board := rfl
@[simp] theorem modStrm_spdm (c k : Nat) (f : Stream → Stream) : (modStrm s c k f).spdm = s.spdm := rfl
@[simp] theorem modStrm_ssess (c k : Nat) (f : Stream → Stream) : (modStrm s c k f).ssess = s.ssess := rfl
@[simp] theorem modStrm_ide (c k : Nat) (f : Stream → Stream) : (modStrm s c k f).ide = s.ide := rfl
@[simp] theorem modStrm_bulk (c k : Nat) (f : Stream → Stream) : (modStrm s c k f).bulk = s.bulk := rfl
@[simp] theorem modStrm_mgr (c k : Nat) (f : Stream → Stream) : (modStrm s c k f).mgr = s.mgr := rfl
@[simp] theorem modStrm_mgmtTx (c k : Nat) (f : Stream → Stream) : (modStrm s c k f).mgmtTx = s.mgmtTx := rfl
@[simp] theorem modStrm_eth (c k : Nat) (f : Stream → Stream) : (modStrm s c k f).eth = s.eth := rfl
@[simp] theorem modStrm_now (c k : Nat) (f : Stream → Stream) : (modStrm s c k f).now = s.now := rfl
@[simp] theorem modStrm_free (c k : Nat) (f : Stream → Stream) : (modStrm s c k f).free = s.free := rfl
@[simp] theorem modStrm_outbox (c k : Nat) (f : Stream → Stream) : (modStrm s c k f).outbox = s.outbox := rfl
@[simp] theorem modStrm_pending (c k : Nat) (f : Stream → Stream) : (modStrm s c k f).pending = s.pending := rfl

@[simp] theorem setHop_dflags (c h : Nat) (x : Hopper) : (setHop s c h x).dflags = s.dflags := rfl
@[simp] theorem setHop_mem (c h : Nat) (x : Hopper) : (setHop s c h x).mem = s.mem := rfl
@[simp] theorem setHop_poison (c h : Nat) (x : Hopper) : (setHop s c h x).poison = s.poison := rfl
@[simp] theorem setHop_pchk (c h : Nat) (x : Hopper) : (setHop s c h x).pchk = s.pchk := rfl
@[simp] theorem setHop_wins (c h : Nat) (x : Hopper) : (setHop s c h x).wins = s.wins := rfl
@[simp] theorem setHop_objs (c h : Nat) (x : Hopper) : (setHop s c h x).objs = s.objs := rfl
@[simp] theorem setHop_evLog (c h : Nat) (x : Hopper) : (setHop s c h x).evLog = s.evLog := rfl
@[simp] theorem setHop_eps (c h : Nat) (x : Hopper) : (setHop s c h x).eps = s.eps := rfl
@[simp] theorem setHop_epoch (c h : Nat) (x : Hopper) : (setHop s c h x).epoch = s.epoch := rfl
@[simp] theorem setHop_holding (c h : Nat) (x : Hopper) : (setHop s c h x).holding = s.holding := rfl
@[simp] theorem setHop_past (c h : Nat) (x : Hopper) : (setHop s c h x).past = s.past := rfl
@[simp] theorem setHop_steps (c h : Nat) (x : Hopper) : (setHop s c h x).steps = s.steps := rfl
@[simp] theorem setHop_released (c h : Nat) (x : Hopper) : (setHop s c h x).released = s.released := rfl
@[simp] theorem setHop_jr (c h : Nat) (x : Hopper) : (setHop s c h x).jr = s.jr := rfl
@[simp] theorem setHop_lastPosted (c h : Nat) (x : Hopper) : (setHop s c h x).lastPosted = s.lastPosted := rfl
@[simp] theorem setHop_ldg (c h : Nat) (x : Hopper) : (setHop s c h x).ldg = s.ldg := rfl
@[simp] theorem setHop_roll (c h : Nat) (x : Hopper) : (setHop s c h x).roll = s.roll := rfl
@[simp] theorem setHop_rcv (c h : Nat) (x : Hopper) : (setHop s c h x).rcv = s.rcv := rfl
@[simp] theorem setHop_baro (c h : Nat) (x : Hopper) : (setHop s c h x).baro = s.baro := rfl
@[simp] theorem setHop_lock (c h : Nat) (x : Hopper) : (setHop s c h x).lock = s.lock := rfl
@[simp] theorem setHop_host (c h : Nat) (x : Hopper) : (setHop s c h x).host = s.host := rfl
@[simp] theorem setHop_up (c h : Nat) (x : Hopper) : (setHop s c h x).up = s.up := rfl
@[simp] theorem setHop_hbm (c h : Nat) (x : Hopper) : (setHop s c h x).hbm = s.hbm := rfl
@[simp] theorem setHop_doms (c h : Nat) (x : Hopper) : (setHop s c h x).doms = s.doms := rfl
@[simp] theorem setHop_hasJournal (c h : Nat) (x : Hopper) : (setHop s c h x).hasJournal = s.hasJournal := rfl
@[simp] theorem setHop_plan (c h : Nat) (x : Hopper) : (setHop s c h x).plan = s.plan := rfl
@[simp] theorem setHop_inPlan (c h : Nat) (x : Hopper) : (setHop s c h x).inPlan = s.inPlan := rfl
@[simp] theorem setHop_found (c h : Nat) (x : Hopper) : (setHop s c h x).found = s.found := rfl
@[simp] theorem setHop_pendW (c h : Nat) (x : Hopper) : (setHop s c h x).pendW = s.pendW := rfl
@[simp] theorem setHop_notSafe0 (c h : Nat) (x : Hopper) : (setHop s c h x).notSafe0 = s.notSafe0 := rfl
@[simp] theorem setHop_ranks (c h : Nat) (x : Hopper) : (setHop s c h x).ranks = s.ranks := rfl
@[simp] theorem setHop_ports (c h : Nat) (x : Hopper) : (setHop s c h x).ports = s.ports := rfl
@[simp] theorem setHop_trk (c h : Nat) (x : Hopper) : (setHop s c h x).trk = s.trk := rfl
@[simp] theorem setHop_trkGen (c h : Nat) (x : Hopper) : (setHop s c h x).trkGen = s.trkGen := rfl
@[simp] theorem setHop_trkHwm (c h : Nat) (x : Hopper) : (setHop s c h x).trkHwm = s.trkHwm := rfl
@[simp] theorem setHop_sess (c h : Nat) (x : Hopper) : (setHop s c h x).sess = s.sess := rfl
@[simp] theorem setHop_mill (c h : Nat) (x : Hopper) : (setHop s c h x).mill = s.mill := rfl
@[simp] theorem setHop_mseq0 (c h : Nat) (x : Hopper) : (setHop s c h x).mseq0 = s.mseq0 := rfl
@[simp] theorem setHop_later (c h : Nat) (x : Hopper) : (setHop s c h x).later = s.later := rfl
@[simp] theorem setHop_scratch (c h : Nat) (x : Hopper) : (setHop s c h x).scratch = s.scratch := rfl
@[simp] theorem setHop_msadd (c h : Nat) (x : Hopper) : (setHop s c h x).msadd = s.msadd := rfl
@[simp] theorem setHop_cellMap (c h : Nat) (x : Hopper) : (setHop s c h x).cellMap = s.cellMap := rfl
@[simp] theorem setHop_alm (c h : Nat) (x : Hopper) : (setHop s c h x).alm = s.alm := rfl
@[simp] theorem setHop_txq (c h : Nat) (x : Hopper) : (setHop s c h x).txq = s.txq := rfl
@[simp] theorem setHop_rxq (c h : Nat) (x : Hopper) : (setHop s c h x).rxq = s.rxq := rfl
@[simp] theorem setHop_heldSig (c h : Nat) (x : Hopper) : (setHop s c h x).heldSig = s.heldSig := rfl
@[simp] theorem setHop_wtq (c h : Nat) (x : Hopper) : (setHop s c h x).wtq = s.wtq := rfl
@[simp] theorem setHop_fronts (c h : Nat) (x : Hopper) : (setHop s c h x).fronts = s.fronts := rfl
@[simp] theorem setHop_xferFrom (c h : Nat) (x : Hopper) : (setHop s c h x).xferFrom = s.xferFrom := rfl
@[simp] theorem setHop_tee (c h : Nat) (x : Hopper) : (setHop s c h x).tee = s.tee := rfl
@[simp] theorem setHop_cowQ (c h : Nat) (x : Hopper) : (setHop s c h x).cowQ = s.cowQ := rfl
@[simp] theorem setHop_scrQ (c h : Nat) (x : Hopper) : (setHop s c h x).scrQ = s.scrQ := rfl
@[simp] theorem setHop_lateOps (c h : Nat) (x : Hopper) : (setHop s c h x).lateOps = s.lateOps := rfl
@[simp] theorem setHop_selfUp (c h : Nat) (x : Hopper) : (setHop s c h x).selfUp = s.selfUp := rfl
@[simp] theorem setHop_selfDown (c h : Nat) (x : Hopper) : (setHop s c h x).selfDown = s.selfDown := rfl
@[simp] theorem setHop_once (c h : Nat) (x : Hopper) : (setHop s c h x).once = s.once := rfl
@[simp] theorem setHop_msixEn (c h : Nat) (x : Hopper) : (setHop s c h x).msixEn = s.msixEn := rfl
@[simp] theorem setHop_msixOpen (c h : Nat) (x : Hopper) : (setHop s c h x).msixOpen = s.msixOpen := rfl
@[simp] theorem setHop_msixPend (c h : Nat) (x : Hopper) : (setHop s c h x).msixPend = s.msixPend := rfl
@[simp] theorem setHop_board (c h : Nat) (x : Hopper) : (setHop s c h x).board = s.board := rfl
@[simp] theorem setHop_spdm (c h : Nat) (x : Hopper) : (setHop s c h x).spdm = s.spdm := rfl
@[simp] theorem setHop_ssess (c h : Nat) (x : Hopper) : (setHop s c h x).ssess = s.ssess := rfl
@[simp] theorem setHop_ide (c h : Nat) (x : Hopper) : (setHop s c h x).ide = s.ide := rfl
@[simp] theorem setHop_bulk (c h : Nat) (x : Hopper) : (setHop s c h x).bulk = s.bulk := rfl
@[simp] theorem setHop_mgr (c h : Nat) (x : Hopper) : (setHop s c h x).mgr = s.mgr := rfl
@[simp] theorem setHop_mgmtTx (c h : Nat) (x : Hopper) : (setHop s c h x).mgmtTx = s.mgmtTx := rfl
@[simp] theorem setHop_eth (c h : Nat) (x : Hopper) : (setHop s c h x).eth = s.eth := rfl
@[simp] theorem setHop_now (c h : Nat) (x : Hopper) : (setHop s c h x).now = s.now := rfl
@[simp] theorem setHop_free (c h : Nat) (x : Hopper) : (setHop s c h x).free = s.free := rfl
@[simp] theorem setHop_outbox (c h : Nat) (x : Hopper) : (setHop s c h x).outbox = s.outbox := rfl
@[simp] theorem setHop_pending (c h : Nat) (x : Hopper) : (setHop s c h x).pending = s.pending := rfl

@[simp] theorem setLoom_dflags (c l : Nat) (x : LoomSt) : (setLoom s c l x).dflags = s.dflags := rfl
@[simp] theorem setLoom_mem (c l : Nat) (x : LoomSt) : (setLoom s c l x).mem = s.mem := rfl
@[simp] theorem setLoom_poison (c l : Nat) (x : LoomSt) : (setLoom s c l x).poison = s.poison := rfl
@[simp] theorem setLoom_pchk (c l : Nat) (x : LoomSt) : (setLoom s c l x).pchk = s.pchk := rfl
@[simp] theorem setLoom_wins (c l : Nat) (x : LoomSt) : (setLoom s c l x).wins = s.wins := rfl
@[simp] theorem setLoom_objs (c l : Nat) (x : LoomSt) : (setLoom s c l x).objs = s.objs := rfl
@[simp] theorem setLoom_evLog (c l : Nat) (x : LoomSt) : (setLoom s c l x).evLog = s.evLog := rfl
@[simp] theorem setLoom_eps (c l : Nat) (x : LoomSt) : (setLoom s c l x).eps = s.eps := rfl
@[simp] theorem setLoom_epoch (c l : Nat) (x : LoomSt) : (setLoom s c l x).epoch = s.epoch := rfl
@[simp] theorem setLoom_holding (c l : Nat) (x : LoomSt) : (setLoom s c l x).holding = s.holding := rfl
@[simp] theorem setLoom_past (c l : Nat) (x : LoomSt) : (setLoom s c l x).past = s.past := rfl
@[simp] theorem setLoom_steps (c l : Nat) (x : LoomSt) : (setLoom s c l x).steps = s.steps := rfl
@[simp] theorem setLoom_released (c l : Nat) (x : LoomSt) : (setLoom s c l x).released = s.released := rfl
@[simp] theorem setLoom_jr (c l : Nat) (x : LoomSt) : (setLoom s c l x).jr = s.jr := rfl
@[simp] theorem setLoom_lastPosted (c l : Nat) (x : LoomSt) : (setLoom s c l x).lastPosted = s.lastPosted := rfl
@[simp] theorem setLoom_ldg (c l : Nat) (x : LoomSt) : (setLoom s c l x).ldg = s.ldg := rfl
@[simp] theorem setLoom_roll (c l : Nat) (x : LoomSt) : (setLoom s c l x).roll = s.roll := rfl
@[simp] theorem setLoom_rcv (c l : Nat) (x : LoomSt) : (setLoom s c l x).rcv = s.rcv := rfl
@[simp] theorem setLoom_baro (c l : Nat) (x : LoomSt) : (setLoom s c l x).baro = s.baro := rfl
@[simp] theorem setLoom_lock (c l : Nat) (x : LoomSt) : (setLoom s c l x).lock = s.lock := rfl
@[simp] theorem setLoom_host (c l : Nat) (x : LoomSt) : (setLoom s c l x).host = s.host := rfl
@[simp] theorem setLoom_up (c l : Nat) (x : LoomSt) : (setLoom s c l x).up = s.up := rfl
@[simp] theorem setLoom_hbm (c l : Nat) (x : LoomSt) : (setLoom s c l x).hbm = s.hbm := rfl
@[simp] theorem setLoom_doms (c l : Nat) (x : LoomSt) : (setLoom s c l x).doms = s.doms := rfl
@[simp] theorem setLoom_hasJournal (c l : Nat) (x : LoomSt) : (setLoom s c l x).hasJournal = s.hasJournal := rfl
@[simp] theorem setLoom_plan (c l : Nat) (x : LoomSt) : (setLoom s c l x).plan = s.plan := rfl
@[simp] theorem setLoom_inPlan (c l : Nat) (x : LoomSt) : (setLoom s c l x).inPlan = s.inPlan := rfl
@[simp] theorem setLoom_found (c l : Nat) (x : LoomSt) : (setLoom s c l x).found = s.found := rfl
@[simp] theorem setLoom_pendW (c l : Nat) (x : LoomSt) : (setLoom s c l x).pendW = s.pendW := rfl
@[simp] theorem setLoom_notSafe0 (c l : Nat) (x : LoomSt) : (setLoom s c l x).notSafe0 = s.notSafe0 := rfl
@[simp] theorem setLoom_ranks (c l : Nat) (x : LoomSt) : (setLoom s c l x).ranks = s.ranks := rfl
@[simp] theorem setLoom_ports (c l : Nat) (x : LoomSt) : (setLoom s c l x).ports = s.ports := rfl
@[simp] theorem setLoom_trk (c l : Nat) (x : LoomSt) : (setLoom s c l x).trk = s.trk := rfl
@[simp] theorem setLoom_trkGen (c l : Nat) (x : LoomSt) : (setLoom s c l x).trkGen = s.trkGen := rfl
@[simp] theorem setLoom_trkHwm (c l : Nat) (x : LoomSt) : (setLoom s c l x).trkHwm = s.trkHwm := rfl
@[simp] theorem setLoom_sess (c l : Nat) (x : LoomSt) : (setLoom s c l x).sess = s.sess := rfl
@[simp] theorem setLoom_mill (c l : Nat) (x : LoomSt) : (setLoom s c l x).mill = s.mill := rfl
@[simp] theorem setLoom_mseq0 (c l : Nat) (x : LoomSt) : (setLoom s c l x).mseq0 = s.mseq0 := rfl
@[simp] theorem setLoom_later (c l : Nat) (x : LoomSt) : (setLoom s c l x).later = s.later := rfl
@[simp] theorem setLoom_scratch (c l : Nat) (x : LoomSt) : (setLoom s c l x).scratch = s.scratch := rfl
@[simp] theorem setLoom_msadd (c l : Nat) (x : LoomSt) : (setLoom s c l x).msadd = s.msadd := rfl
@[simp] theorem setLoom_cellMap (c l : Nat) (x : LoomSt) : (setLoom s c l x).cellMap = s.cellMap := rfl
@[simp] theorem setLoom_alm (c l : Nat) (x : LoomSt) : (setLoom s c l x).alm = s.alm := rfl
@[simp] theorem setLoom_txq (c l : Nat) (x : LoomSt) : (setLoom s c l x).txq = s.txq := rfl
@[simp] theorem setLoom_rxq (c l : Nat) (x : LoomSt) : (setLoom s c l x).rxq = s.rxq := rfl
@[simp] theorem setLoom_heldSig (c l : Nat) (x : LoomSt) : (setLoom s c l x).heldSig = s.heldSig := rfl
@[simp] theorem setLoom_wtq (c l : Nat) (x : LoomSt) : (setLoom s c l x).wtq = s.wtq := rfl
@[simp] theorem setLoom_fronts (c l : Nat) (x : LoomSt) : (setLoom s c l x).fronts = s.fronts := rfl
@[simp] theorem setLoom_xferFrom (c l : Nat) (x : LoomSt) : (setLoom s c l x).xferFrom = s.xferFrom := rfl
@[simp] theorem setLoom_tee (c l : Nat) (x : LoomSt) : (setLoom s c l x).tee = s.tee := rfl
@[simp] theorem setLoom_cowQ (c l : Nat) (x : LoomSt) : (setLoom s c l x).cowQ = s.cowQ := rfl
@[simp] theorem setLoom_scrQ (c l : Nat) (x : LoomSt) : (setLoom s c l x).scrQ = s.scrQ := rfl
@[simp] theorem setLoom_lateOps (c l : Nat) (x : LoomSt) : (setLoom s c l x).lateOps = s.lateOps := rfl
@[simp] theorem setLoom_selfUp (c l : Nat) (x : LoomSt) : (setLoom s c l x).selfUp = s.selfUp := rfl
@[simp] theorem setLoom_selfDown (c l : Nat) (x : LoomSt) : (setLoom s c l x).selfDown = s.selfDown := rfl
@[simp] theorem setLoom_once (c l : Nat) (x : LoomSt) : (setLoom s c l x).once = s.once := rfl
@[simp] theorem setLoom_msixEn (c l : Nat) (x : LoomSt) : (setLoom s c l x).msixEn = s.msixEn := rfl
@[simp] theorem setLoom_msixOpen (c l : Nat) (x : LoomSt) : (setLoom s c l x).msixOpen = s.msixOpen := rfl
@[simp] theorem setLoom_msixPend (c l : Nat) (x : LoomSt) : (setLoom s c l x).msixPend = s.msixPend := rfl
@[simp] theorem setLoom_board (c l : Nat) (x : LoomSt) : (setLoom s c l x).board = s.board := rfl
@[simp] theorem setLoom_spdm (c l : Nat) (x : LoomSt) : (setLoom s c l x).spdm = s.spdm := rfl
@[simp] theorem setLoom_ssess (c l : Nat) (x : LoomSt) : (setLoom s c l x).ssess = s.ssess := rfl
@[simp] theorem setLoom_ide (c l : Nat) (x : LoomSt) : (setLoom s c l x).ide = s.ide := rfl
@[simp] theorem setLoom_bulk (c l : Nat) (x : LoomSt) : (setLoom s c l x).bulk = s.bulk := rfl
@[simp] theorem setLoom_mgr (c l : Nat) (x : LoomSt) : (setLoom s c l x).mgr = s.mgr := rfl
@[simp] theorem setLoom_mgmtTx (c l : Nat) (x : LoomSt) : (setLoom s c l x).mgmtTx = s.mgmtTx := rfl
@[simp] theorem setLoom_eth (c l : Nat) (x : LoomSt) : (setLoom s c l x).eth = s.eth := rfl
@[simp] theorem setLoom_now (c l : Nat) (x : LoomSt) : (setLoom s c l x).now = s.now := rfl
@[simp] theorem setLoom_free (c l : Nat) (x : LoomSt) : (setLoom s c l x).free = s.free := rfl
@[simp] theorem setLoom_outbox (c l : Nat) (x : LoomSt) : (setLoom s c l x).outbox = s.outbox := rfl
@[simp] theorem setLoom_pending (c l : Nat) (x : LoomSt) : (setLoom s c l x).pending = s.pending := rfl

@[simp] theorem oset_cells (idx sub v : Nat) : (oset s idx sub v).cells = s.cells := rfl
@[simp] theorem oset_dflags (idx sub v : Nat) : (oset s idx sub v).dflags = s.dflags := rfl
@[simp] theorem oset_mem (idx sub v : Nat) : (oset s idx sub v).mem = s.mem := rfl
@[simp] theorem oset_poison (idx sub v : Nat) : (oset s idx sub v).poison = s.poison := rfl
@[simp] theorem oset_pchk (idx sub v : Nat) : (oset s idx sub v).pchk = s.pchk := rfl
@[simp] theorem oset_wins (idx sub v : Nat) : (oset s idx sub v).wins = s.wins := rfl
@[simp] theorem oset_evLog (idx sub v : Nat) : (oset s idx sub v).evLog = s.evLog := rfl
@[simp] theorem oset_eps (idx sub v : Nat) : (oset s idx sub v).eps = s.eps := rfl
@[simp] theorem oset_epoch (idx sub v : Nat) : (oset s idx sub v).epoch = s.epoch := rfl
@[simp] theorem oset_holding (idx sub v : Nat) : (oset s idx sub v).holding = s.holding := rfl
@[simp] theorem oset_past (idx sub v : Nat) : (oset s idx sub v).past = s.past := rfl
@[simp] theorem oset_steps (idx sub v : Nat) : (oset s idx sub v).steps = s.steps := rfl
@[simp] theorem oset_released (idx sub v : Nat) : (oset s idx sub v).released = s.released := rfl
@[simp] theorem oset_jr (idx sub v : Nat) : (oset s idx sub v).jr = s.jr := rfl
@[simp] theorem oset_lastPosted (idx sub v : Nat) : (oset s idx sub v).lastPosted = s.lastPosted := rfl
@[simp] theorem oset_ldg (idx sub v : Nat) : (oset s idx sub v).ldg = s.ldg := rfl
@[simp] theorem oset_roll (idx sub v : Nat) : (oset s idx sub v).roll = s.roll := rfl
@[simp] theorem oset_rcv (idx sub v : Nat) : (oset s idx sub v).rcv = s.rcv := rfl
@[simp] theorem oset_baro (idx sub v : Nat) : (oset s idx sub v).baro = s.baro := rfl
@[simp] theorem oset_lock (idx sub v : Nat) : (oset s idx sub v).lock = s.lock := rfl
@[simp] theorem oset_host (idx sub v : Nat) : (oset s idx sub v).host = s.host := rfl
@[simp] theorem oset_up (idx sub v : Nat) : (oset s idx sub v).up = s.up := rfl
@[simp] theorem oset_hbm (idx sub v : Nat) : (oset s idx sub v).hbm = s.hbm := rfl
@[simp] theorem oset_doms (idx sub v : Nat) : (oset s idx sub v).doms = s.doms := rfl
@[simp] theorem oset_hasJournal (idx sub v : Nat) : (oset s idx sub v).hasJournal = s.hasJournal := rfl
@[simp] theorem oset_plan (idx sub v : Nat) : (oset s idx sub v).plan = s.plan := rfl
@[simp] theorem oset_inPlan (idx sub v : Nat) : (oset s idx sub v).inPlan = s.inPlan := rfl
@[simp] theorem oset_found (idx sub v : Nat) : (oset s idx sub v).found = s.found := rfl
@[simp] theorem oset_pendW (idx sub v : Nat) : (oset s idx sub v).pendW = s.pendW := rfl
@[simp] theorem oset_notSafe0 (idx sub v : Nat) : (oset s idx sub v).notSafe0 = s.notSafe0 := rfl
@[simp] theorem oset_ranks (idx sub v : Nat) : (oset s idx sub v).ranks = s.ranks := rfl
@[simp] theorem oset_ports (idx sub v : Nat) : (oset s idx sub v).ports = s.ports := rfl
@[simp] theorem oset_trk (idx sub v : Nat) : (oset s idx sub v).trk = s.trk := rfl
@[simp] theorem oset_trkGen (idx sub v : Nat) : (oset s idx sub v).trkGen = s.trkGen := rfl
@[simp] theorem oset_trkHwm (idx sub v : Nat) : (oset s idx sub v).trkHwm = s.trkHwm := rfl
@[simp] theorem oset_sess (idx sub v : Nat) : (oset s idx sub v).sess = s.sess := rfl
@[simp] theorem oset_mill (idx sub v : Nat) : (oset s idx sub v).mill = s.mill := rfl
@[simp] theorem oset_mseq0 (idx sub v : Nat) : (oset s idx sub v).mseq0 = s.mseq0 := rfl
@[simp] theorem oset_later (idx sub v : Nat) : (oset s idx sub v).later = s.later := rfl
@[simp] theorem oset_scratch (idx sub v : Nat) : (oset s idx sub v).scratch = s.scratch := rfl
@[simp] theorem oset_msadd (idx sub v : Nat) : (oset s idx sub v).msadd = s.msadd := rfl
@[simp] theorem oset_cellMap (idx sub v : Nat) : (oset s idx sub v).cellMap = s.cellMap := rfl
@[simp] theorem oset_alm (idx sub v : Nat) : (oset s idx sub v).alm = s.alm := rfl
@[simp] theorem oset_txq (idx sub v : Nat) : (oset s idx sub v).txq = s.txq := rfl
@[simp] theorem oset_rxq (idx sub v : Nat) : (oset s idx sub v).rxq = s.rxq := rfl
@[simp] theorem oset_heldSig (idx sub v : Nat) : (oset s idx sub v).heldSig = s.heldSig := rfl
@[simp] theorem oset_wtq (idx sub v : Nat) : (oset s idx sub v).wtq = s.wtq := rfl
@[simp] theorem oset_fronts (idx sub v : Nat) : (oset s idx sub v).fronts = s.fronts := rfl
@[simp] theorem oset_xferFrom (idx sub v : Nat) : (oset s idx sub v).xferFrom = s.xferFrom := rfl
@[simp] theorem oset_tee (idx sub v : Nat) : (oset s idx sub v).tee = s.tee := rfl
@[simp] theorem oset_cowQ (idx sub v : Nat) : (oset s idx sub v).cowQ = s.cowQ := rfl
@[simp] theorem oset_scrQ (idx sub v : Nat) : (oset s idx sub v).scrQ = s.scrQ := rfl
@[simp] theorem oset_lateOps (idx sub v : Nat) : (oset s idx sub v).lateOps = s.lateOps := rfl
@[simp] theorem oset_selfUp (idx sub v : Nat) : (oset s idx sub v).selfUp = s.selfUp := rfl
@[simp] theorem oset_selfDown (idx sub v : Nat) : (oset s idx sub v).selfDown = s.selfDown := rfl
@[simp] theorem oset_once (idx sub v : Nat) : (oset s idx sub v).once = s.once := rfl
@[simp] theorem oset_msixEn (idx sub v : Nat) : (oset s idx sub v).msixEn = s.msixEn := rfl
@[simp] theorem oset_msixOpen (idx sub v : Nat) : (oset s idx sub v).msixOpen = s.msixOpen := rfl
@[simp] theorem oset_msixPend (idx sub v : Nat) : (oset s idx sub v).msixPend = s.msixPend := rfl
@[simp] theorem oset_board (idx sub v : Nat) : (oset s idx sub v).board = s.board := rfl
@[simp] theorem oset_spdm (idx sub v : Nat) : (oset s idx sub v).spdm = s.spdm := rfl
@[simp] theorem oset_ssess (idx sub v : Nat) : (oset s idx sub v).ssess = s.ssess := rfl
@[simp] theorem oset_ide (idx sub v : Nat) : (oset s idx sub v).ide = s.ide := rfl
@[simp] theorem oset_bulk (idx sub v : Nat) : (oset s idx sub v).bulk = s.bulk := rfl
@[simp] theorem oset_mgr (idx sub v : Nat) : (oset s idx sub v).mgr = s.mgr := rfl
@[simp] theorem oset_mgmtTx (idx sub v : Nat) : (oset s idx sub v).mgmtTx = s.mgmtTx := rfl
@[simp] theorem oset_eth (idx sub v : Nat) : (oset s idx sub v).eth = s.eth := rfl
@[simp] theorem oset_now (idx sub v : Nat) : (oset s idx sub v).now = s.now := rfl
@[simp] theorem oset_free (idx sub v : Nat) : (oset s idx sub v).free = s.free := rfl
@[simp] theorem oset_outbox (idx sub v : Nat) : (oset s idx sub v).outbox = s.outbox := rfl
@[simp] theorem oset_pending (idx sub v : Nat) : (oset s idx sub v).pending = s.pending := rfl

@[simp] theorem setEp_cells (e : Nat) (x : Endpoint) : (setEp s e x).cells = s.cells := rfl
@[simp] theorem setEp_dflags (e : Nat) (x : Endpoint) : (setEp s e x).dflags = s.dflags := rfl
@[simp] theorem setEp_mem (e : Nat) (x : Endpoint) : (setEp s e x).mem = s.mem := rfl
@[simp] theorem setEp_poison (e : Nat) (x : Endpoint) : (setEp s e x).poison = s.poison := rfl
@[simp] theorem setEp_pchk (e : Nat) (x : Endpoint) : (setEp s e x).pchk = s.pchk := rfl
@[simp] theorem setEp_wins (e : Nat) (x : Endpoint) : (setEp s e x).wins = s.wins := rfl
@[simp] theorem setEp_objs (e : Nat) (x : Endpoint) : (setEp s e x).objs = s.objs := rfl
@[simp] theorem setEp_evLog (e : Nat) (x : Endpoint) : (setEp s e x).evLog = s.evLog := rfl
@[simp] theorem setEp_epoch (e : Nat) (x : Endpoint) : (setEp s e x).epoch = s.epoch := rfl
@[simp] theorem setEp_holding (e : Nat) (x : Endpoint) : (setEp s e x).holding = s.holding := rfl
@[simp] theorem setEp_past (e : Nat) (x : Endpoint) : (setEp s e x).past = s.past := rfl
@[simp] theorem setEp_steps (e : Nat) (x : Endpoint) : (setEp s e x).steps = s.steps := rfl
@[simp] theorem setEp_released (e : Nat) (x : Endpoint) : (setEp s e x).released = s.released := rfl
@[simp] theorem setEp_jr (e : Nat) (x : Endpoint) : (setEp s e x).jr = s.jr := rfl
@[simp] theorem setEp_lastPosted (e : Nat) (x : Endpoint) : (setEp s e x).lastPosted = s.lastPosted := rfl
@[simp] theorem setEp_ldg (e : Nat) (x : Endpoint) : (setEp s e x).ldg = s.ldg := rfl
@[simp] theorem setEp_roll (e : Nat) (x : Endpoint) : (setEp s e x).roll = s.roll := rfl
@[simp] theorem setEp_rcv (e : Nat) (x : Endpoint) : (setEp s e x).rcv = s.rcv := rfl
@[simp] theorem setEp_baro (e : Nat) (x : Endpoint) : (setEp s e x).baro = s.baro := rfl
@[simp] theorem setEp_lock (e : Nat) (x : Endpoint) : (setEp s e x).lock = s.lock := rfl
@[simp] theorem setEp_host (e : Nat) (x : Endpoint) : (setEp s e x).host = s.host := rfl
@[simp] theorem setEp_up (e : Nat) (x : Endpoint) : (setEp s e x).up = s.up := rfl
@[simp] theorem setEp_hbm (e : Nat) (x : Endpoint) : (setEp s e x).hbm = s.hbm := rfl
@[simp] theorem setEp_doms (e : Nat) (x : Endpoint) : (setEp s e x).doms = s.doms := rfl
@[simp] theorem setEp_hasJournal (e : Nat) (x : Endpoint) : (setEp s e x).hasJournal = s.hasJournal := rfl
@[simp] theorem setEp_plan (e : Nat) (x : Endpoint) : (setEp s e x).plan = s.plan := rfl
@[simp] theorem setEp_inPlan (e : Nat) (x : Endpoint) : (setEp s e x).inPlan = s.inPlan := rfl
@[simp] theorem setEp_found (e : Nat) (x : Endpoint) : (setEp s e x).found = s.found := rfl
@[simp] theorem setEp_pendW (e : Nat) (x : Endpoint) : (setEp s e x).pendW = s.pendW := rfl
@[simp] theorem setEp_notSafe0 (e : Nat) (x : Endpoint) : (setEp s e x).notSafe0 = s.notSafe0 := rfl
@[simp] theorem setEp_ranks (e : Nat) (x : Endpoint) : (setEp s e x).ranks = s.ranks := rfl
@[simp] theorem setEp_ports (e : Nat) (x : Endpoint) : (setEp s e x).ports = s.ports := rfl
@[simp] theorem setEp_trk (e : Nat) (x : Endpoint) : (setEp s e x).trk = s.trk := rfl
@[simp] theorem setEp_trkGen (e : Nat) (x : Endpoint) : (setEp s e x).trkGen = s.trkGen := rfl
@[simp] theorem setEp_trkHwm (e : Nat) (x : Endpoint) : (setEp s e x).trkHwm = s.trkHwm := rfl
@[simp] theorem setEp_sess (e : Nat) (x : Endpoint) : (setEp s e x).sess = s.sess := rfl
@[simp] theorem setEp_mill (e : Nat) (x : Endpoint) : (setEp s e x).mill = s.mill := rfl
@[simp] theorem setEp_mseq0 (e : Nat) (x : Endpoint) : (setEp s e x).mseq0 = s.mseq0 := rfl
@[simp] theorem setEp_later (e : Nat) (x : Endpoint) : (setEp s e x).later = s.later := rfl
@[simp] theorem setEp_scratch (e : Nat) (x : Endpoint) : (setEp s e x).scratch = s.scratch := rfl
@[simp] theorem setEp_msadd (e : Nat) (x : Endpoint) : (setEp s e x).msadd = s.msadd := rfl
@[simp] theorem setEp_cellMap (e : Nat) (x : Endpoint) : (setEp s e x).cellMap = s.cellMap := rfl
@[simp] theorem setEp_alm (e : Nat) (x : Endpoint) : (setEp s e x).alm = s.alm := rfl
@[simp] theorem setEp_txq (e : Nat) (x : Endpoint) : (setEp s e x).txq = s.txq := rfl
@[simp] theorem setEp_rxq (e : Nat) (x : Endpoint) : (setEp s e x).rxq = s.rxq := rfl
@[simp] theorem setEp_heldSig (e : Nat) (x : Endpoint) : (setEp s e x).heldSig = s.heldSig := rfl
@[simp] theorem setEp_wtq (e : Nat) (x : Endpoint) : (setEp s e x).wtq = s.wtq := rfl
@[simp] theorem setEp_fronts (e : Nat) (x : Endpoint) : (setEp s e x).fronts = s.fronts := rfl
@[simp] theorem setEp_xferFrom (e : Nat) (x : Endpoint) : (setEp s e x).xferFrom = s.xferFrom := rfl
@[simp] theorem setEp_tee (e : Nat) (x : Endpoint) : (setEp s e x).tee = s.tee := rfl
@[simp] theorem setEp_cowQ (e : Nat) (x : Endpoint) : (setEp s e x).cowQ = s.cowQ := rfl
@[simp] theorem setEp_scrQ (e : Nat) (x : Endpoint) : (setEp s e x).scrQ = s.scrQ := rfl
@[simp] theorem setEp_lateOps (e : Nat) (x : Endpoint) : (setEp s e x).lateOps = s.lateOps := rfl
@[simp] theorem setEp_selfUp (e : Nat) (x : Endpoint) : (setEp s e x).selfUp = s.selfUp := rfl
@[simp] theorem setEp_selfDown (e : Nat) (x : Endpoint) : (setEp s e x).selfDown = s.selfDown := rfl
@[simp] theorem setEp_once (e : Nat) (x : Endpoint) : (setEp s e x).once = s.once := rfl
@[simp] theorem setEp_msixEn (e : Nat) (x : Endpoint) : (setEp s e x).msixEn = s.msixEn := rfl
@[simp] theorem setEp_msixOpen (e : Nat) (x : Endpoint) : (setEp s e x).msixOpen = s.msixOpen := rfl
@[simp] theorem setEp_msixPend (e : Nat) (x : Endpoint) : (setEp s e x).msixPend = s.msixPend := rfl
@[simp] theorem setEp_board (e : Nat) (x : Endpoint) : (setEp s e x).board = s.board := rfl
@[simp] theorem setEp_spdm (e : Nat) (x : Endpoint) : (setEp s e x).spdm = s.spdm := rfl
@[simp] theorem setEp_ssess (e : Nat) (x : Endpoint) : (setEp s e x).ssess = s.ssess := rfl
@[simp] theorem setEp_ide (e : Nat) (x : Endpoint) : (setEp s e x).ide = s.ide := rfl
@[simp] theorem setEp_bulk (e : Nat) (x : Endpoint) : (setEp s e x).bulk = s.bulk := rfl
@[simp] theorem setEp_mgr (e : Nat) (x : Endpoint) : (setEp s e x).mgr = s.mgr := rfl
@[simp] theorem setEp_mgmtTx (e : Nat) (x : Endpoint) : (setEp s e x).mgmtTx = s.mgmtTx := rfl
@[simp] theorem setEp_eth (e : Nat) (x : Endpoint) : (setEp s e x).eth = s.eth := rfl
@[simp] theorem setEp_now (e : Nat) (x : Endpoint) : (setEp s e x).now = s.now := rfl
@[simp] theorem setEp_free (e : Nat) (x : Endpoint) : (setEp s e x).free = s.free := rfl
@[simp] theorem setEp_outbox (e : Nat) (x : Endpoint) : (setEp s e x).outbox = s.outbox := rfl
@[simp] theorem setEp_pending (e : Nat) (x : Endpoint) : (setEp s e x).pending = s.pending := rfl

@[simp] theorem emit_cells (o : Out) : (emit s o).cells = s.cells := rfl
@[simp] theorem emit_dflags (o : Out) : (emit s o).dflags = s.dflags := rfl
@[simp] theorem emit_mem (o : Out) : (emit s o).mem = s.mem := rfl
@[simp] theorem emit_poison (o : Out) : (emit s o).poison = s.poison := rfl
@[simp] theorem emit_pchk (o : Out) : (emit s o).pchk = s.pchk := rfl
@[simp] theorem emit_wins (o : Out) : (emit s o).wins = s.wins := rfl
@[simp] theorem emit_objs (o : Out) : (emit s o).objs = s.objs := rfl
@[simp] theorem emit_evLog (o : Out) : (emit s o).evLog = s.evLog := rfl
@[simp] theorem emit_eps (o : Out) : (emit s o).eps = s.eps := rfl
@[simp] theorem emit_epoch (o : Out) : (emit s o).epoch = s.epoch := rfl
@[simp] theorem emit_holding (o : Out) : (emit s o).holding = s.holding := rfl
@[simp] theorem emit_past (o : Out) : (emit s o).past = s.past := rfl
@[simp] theorem emit_steps (o : Out) : (emit s o).steps = s.steps := rfl
@[simp] theorem emit_released (o : Out) : (emit s o).released = s.released := rfl
@[simp] theorem emit_jr (o : Out) : (emit s o).jr = s.jr := rfl
@[simp] theorem emit_lastPosted (o : Out) : (emit s o).lastPosted = s.lastPosted := rfl
@[simp] theorem emit_ldg (o : Out) : (emit s o).ldg = s.ldg := rfl
@[simp] theorem emit_roll (o : Out) : (emit s o).roll = s.roll := rfl
@[simp] theorem emit_rcv (o : Out) : (emit s o).rcv = s.rcv := rfl
@[simp] theorem emit_baro (o : Out) : (emit s o).baro = s.baro := rfl
@[simp] theorem emit_lock (o : Out) : (emit s o).lock = s.lock := rfl
@[simp] theorem emit_host (o : Out) : (emit s o).host = s.host := rfl
@[simp] theorem emit_up (o : Out) : (emit s o).up = s.up := rfl
@[simp] theorem emit_hbm (o : Out) : (emit s o).hbm = s.hbm := rfl
@[simp] theorem emit_doms (o : Out) : (emit s o).doms = s.doms := rfl
@[simp] theorem emit_hasJournal (o : Out) : (emit s o).hasJournal = s.hasJournal := rfl
@[simp] theorem emit_plan (o : Out) : (emit s o).plan = s.plan := rfl
@[simp] theorem emit_inPlan (o : Out) : (emit s o).inPlan = s.inPlan := rfl
@[simp] theorem emit_found (o : Out) : (emit s o).found = s.found := rfl
@[simp] theorem emit_pendW (o : Out) : (emit s o).pendW = s.pendW := rfl
@[simp] theorem emit_notSafe0 (o : Out) : (emit s o).notSafe0 = s.notSafe0 := rfl
@[simp] theorem emit_ranks (o : Out) : (emit s o).ranks = s.ranks := rfl
@[simp] theorem emit_ports (o : Out) : (emit s o).ports = s.ports := rfl
@[simp] theorem emit_trk (o : Out) : (emit s o).trk = s.trk := rfl
@[simp] theorem emit_trkGen (o : Out) : (emit s o).trkGen = s.trkGen := rfl
@[simp] theorem emit_trkHwm (o : Out) : (emit s o).trkHwm = s.trkHwm := rfl
@[simp] theorem emit_sess (o : Out) : (emit s o).sess = s.sess := rfl
@[simp] theorem emit_mill (o : Out) : (emit s o).mill = s.mill := rfl
@[simp] theorem emit_mseq0 (o : Out) : (emit s o).mseq0 = s.mseq0 := rfl
@[simp] theorem emit_later (o : Out) : (emit s o).later = s.later := rfl
@[simp] theorem emit_scratch (o : Out) : (emit s o).scratch = s.scratch := rfl
@[simp] theorem emit_msadd (o : Out) : (emit s o).msadd = s.msadd := rfl
@[simp] theorem emit_cellMap (o : Out) : (emit s o).cellMap = s.cellMap := rfl
@[simp] theorem emit_alm (o : Out) : (emit s o).alm = s.alm := rfl
@[simp] theorem emit_txq (o : Out) : (emit s o).txq = s.txq := rfl
@[simp] theorem emit_rxq (o : Out) : (emit s o).rxq = s.rxq := rfl
@[simp] theorem emit_heldSig (o : Out) : (emit s o).heldSig = s.heldSig := rfl
@[simp] theorem emit_wtq (o : Out) : (emit s o).wtq = s.wtq := rfl
@[simp] theorem emit_fronts (o : Out) : (emit s o).fronts = s.fronts := rfl
@[simp] theorem emit_xferFrom (o : Out) : (emit s o).xferFrom = s.xferFrom := rfl
@[simp] theorem emit_tee (o : Out) : (emit s o).tee = s.tee := rfl
@[simp] theorem emit_cowQ (o : Out) : (emit s o).cowQ = s.cowQ := rfl
@[simp] theorem emit_scrQ (o : Out) : (emit s o).scrQ = s.scrQ := rfl
@[simp] theorem emit_lateOps (o : Out) : (emit s o).lateOps = s.lateOps := rfl
@[simp] theorem emit_selfUp (o : Out) : (emit s o).selfUp = s.selfUp := rfl
@[simp] theorem emit_selfDown (o : Out) : (emit s o).selfDown = s.selfDown := rfl
@[simp] theorem emit_once (o : Out) : (emit s o).once = s.once := rfl
@[simp] theorem emit_msixEn (o : Out) : (emit s o).msixEn = s.msixEn := rfl
@[simp] theorem emit_msixOpen (o : Out) : (emit s o).msixOpen = s.msixOpen := rfl
@[simp] theorem emit_msixPend (o : Out) : (emit s o).msixPend = s.msixPend := rfl
@[simp] theorem emit_board (o : Out) : (emit s o).board = s.board := rfl
@[simp] theorem emit_spdm (o : Out) : (emit s o).spdm = s.spdm := rfl
@[simp] theorem emit_ssess (o : Out) : (emit s o).ssess = s.ssess := rfl
@[simp] theorem emit_ide (o : Out) : (emit s o).ide = s.ide := rfl
@[simp] theorem emit_bulk (o : Out) : (emit s o).bulk = s.bulk := rfl
@[simp] theorem emit_mgr (o : Out) : (emit s o).mgr = s.mgr := rfl
@[simp] theorem emit_mgmtTx (o : Out) : (emit s o).mgmtTx = s.mgmtTx := rfl
@[simp] theorem emit_eth (o : Out) : (emit s o).eth = s.eth := rfl
@[simp] theorem emit_now (o : Out) : (emit s o).now = s.now := rfl
@[simp] theorem emit_free (o : Out) : (emit s o).free = s.free := rfl
@[simp] theorem emit_pending (o : Out) : (emit s o).pending = s.pending := rfl

@[simp] theorem memSet_cells (a : Nat) (b : Byte) : (memSet s a b).cells = s.cells := rfl
@[simp] theorem memSet_dflags (a : Nat) (b : Byte) : (memSet s a b).dflags = s.dflags := rfl
@[simp] theorem memSet_poison (a : Nat) (b : Byte) : (memSet s a b).poison = s.poison := rfl
@[simp] theorem memSet_pchk (a : Nat) (b : Byte) : (memSet s a b).pchk = s.pchk := rfl
@[simp] theorem memSet_wins (a : Nat) (b : Byte) : (memSet s a b).wins = s.wins := rfl
@[simp] theorem memSet_objs (a : Nat) (b : Byte) : (memSet s a b).objs = s.objs := rfl
@[simp] theorem memSet_evLog (a : Nat) (b : Byte) : (memSet s a b).evLog = s.evLog := rfl
@[simp] theorem memSet_eps (a : Nat) (b : Byte) : (memSet s a b).eps = s.eps := rfl
@[simp] theorem memSet_epoch (a : Nat) (b : Byte) : (memSet s a b).epoch = s.epoch := rfl
@[simp] theorem memSet_holding (a : Nat) (b : Byte) : (memSet s a b).holding = s.holding := rfl
@[simp] theorem memSet_past (a : Nat) (b : Byte) : (memSet s a b).past = s.past := rfl
@[simp] theorem memSet_steps (a : Nat) (b : Byte) : (memSet s a b).steps = s.steps := rfl
@[simp] theorem memSet_released (a : Nat) (b : Byte) : (memSet s a b).released = s.released := rfl
@[simp] theorem memSet_jr (a : Nat) (b : Byte) : (memSet s a b).jr = s.jr := rfl
@[simp] theorem memSet_lastPosted (a : Nat) (b : Byte) : (memSet s a b).lastPosted = s.lastPosted := rfl
@[simp] theorem memSet_ldg (a : Nat) (b : Byte) : (memSet s a b).ldg = s.ldg := rfl
@[simp] theorem memSet_roll (a : Nat) (b : Byte) : (memSet s a b).roll = s.roll := rfl
@[simp] theorem memSet_rcv (a : Nat) (b : Byte) : (memSet s a b).rcv = s.rcv := rfl
@[simp] theorem memSet_baro (a : Nat) (b : Byte) : (memSet s a b).baro = s.baro := rfl
@[simp] theorem memSet_lock (a : Nat) (b : Byte) : (memSet s a b).lock = s.lock := rfl
@[simp] theorem memSet_host (a : Nat) (b : Byte) : (memSet s a b).host = s.host := rfl
@[simp] theorem memSet_up (a : Nat) (b : Byte) : (memSet s a b).up = s.up := rfl
@[simp] theorem memSet_hbm (a : Nat) (b : Byte) : (memSet s a b).hbm = s.hbm := rfl
@[simp] theorem memSet_doms (a : Nat) (b : Byte) : (memSet s a b).doms = s.doms := rfl
@[simp] theorem memSet_hasJournal (a : Nat) (b : Byte) : (memSet s a b).hasJournal = s.hasJournal := rfl
@[simp] theorem memSet_plan (a : Nat) (b : Byte) : (memSet s a b).plan = s.plan := rfl
@[simp] theorem memSet_inPlan (a : Nat) (b : Byte) : (memSet s a b).inPlan = s.inPlan := rfl
@[simp] theorem memSet_found (a : Nat) (b : Byte) : (memSet s a b).found = s.found := rfl
@[simp] theorem memSet_pendW (a : Nat) (b : Byte) : (memSet s a b).pendW = s.pendW := rfl
@[simp] theorem memSet_notSafe0 (a : Nat) (b : Byte) : (memSet s a b).notSafe0 = s.notSafe0 := rfl
@[simp] theorem memSet_ranks (a : Nat) (b : Byte) : (memSet s a b).ranks = s.ranks := rfl
@[simp] theorem memSet_ports (a : Nat) (b : Byte) : (memSet s a b).ports = s.ports := rfl
@[simp] theorem memSet_trk (a : Nat) (b : Byte) : (memSet s a b).trk = s.trk := rfl
@[simp] theorem memSet_trkGen (a : Nat) (b : Byte) : (memSet s a b).trkGen = s.trkGen := rfl
@[simp] theorem memSet_trkHwm (a : Nat) (b : Byte) : (memSet s a b).trkHwm = s.trkHwm := rfl
@[simp] theorem memSet_sess (a : Nat) (b : Byte) : (memSet s a b).sess = s.sess := rfl
@[simp] theorem memSet_mill (a : Nat) (b : Byte) : (memSet s a b).mill = s.mill := rfl
@[simp] theorem memSet_mseq0 (a : Nat) (b : Byte) : (memSet s a b).mseq0 = s.mseq0 := rfl
@[simp] theorem memSet_later (a : Nat) (b : Byte) : (memSet s a b).later = s.later := rfl
@[simp] theorem memSet_scratch (a : Nat) (b : Byte) : (memSet s a b).scratch = s.scratch := rfl
@[simp] theorem memSet_msadd (a : Nat) (b : Byte) : (memSet s a b).msadd = s.msadd := rfl
@[simp] theorem memSet_cellMap (a : Nat) (b : Byte) : (memSet s a b).cellMap = s.cellMap := rfl
@[simp] theorem memSet_alm (a : Nat) (b : Byte) : (memSet s a b).alm = s.alm := rfl
@[simp] theorem memSet_txq (a : Nat) (b : Byte) : (memSet s a b).txq = s.txq := rfl
@[simp] theorem memSet_rxq (a : Nat) (b : Byte) : (memSet s a b).rxq = s.rxq := rfl
@[simp] theorem memSet_heldSig (a : Nat) (b : Byte) : (memSet s a b).heldSig = s.heldSig := rfl
@[simp] theorem memSet_wtq (a : Nat) (b : Byte) : (memSet s a b).wtq = s.wtq := rfl
@[simp] theorem memSet_fronts (a : Nat) (b : Byte) : (memSet s a b).fronts = s.fronts := rfl
@[simp] theorem memSet_xferFrom (a : Nat) (b : Byte) : (memSet s a b).xferFrom = s.xferFrom := rfl
@[simp] theorem memSet_tee (a : Nat) (b : Byte) : (memSet s a b).tee = s.tee := rfl
@[simp] theorem memSet_cowQ (a : Nat) (b : Byte) : (memSet s a b).cowQ = s.cowQ := rfl
@[simp] theorem memSet_scrQ (a : Nat) (b : Byte) : (memSet s a b).scrQ = s.scrQ := rfl
@[simp] theorem memSet_lateOps (a : Nat) (b : Byte) : (memSet s a b).lateOps = s.lateOps := rfl
@[simp] theorem memSet_selfUp (a : Nat) (b : Byte) : (memSet s a b).selfUp = s.selfUp := rfl
@[simp] theorem memSet_selfDown (a : Nat) (b : Byte) : (memSet s a b).selfDown = s.selfDown := rfl
@[simp] theorem memSet_once (a : Nat) (b : Byte) : (memSet s a b).once = s.once := rfl
@[simp] theorem memSet_msixEn (a : Nat) (b : Byte) : (memSet s a b).msixEn = s.msixEn := rfl
@[simp] theorem memSet_msixOpen (a : Nat) (b : Byte) : (memSet s a b).msixOpen = s.msixOpen := rfl
@[simp] theorem memSet_msixPend (a : Nat) (b : Byte) : (memSet s a b).msixPend = s.msixPend := rfl
@[simp] theorem memSet_board (a : Nat) (b : Byte) : (memSet s a b).board = s.board := rfl
@[simp] theorem memSet_spdm (a : Nat) (b : Byte) : (memSet s a b).spdm = s.spdm := rfl
@[simp] theorem memSet_ssess (a : Nat) (b : Byte) : (memSet s a b).ssess = s.ssess := rfl
@[simp] theorem memSet_ide (a : Nat) (b : Byte) : (memSet s a b).ide = s.ide := rfl
@[simp] theorem memSet_bulk (a : Nat) (b : Byte) : (memSet s a b).bulk = s.bulk := rfl
@[simp] theorem memSet_mgr (a : Nat) (b : Byte) : (memSet s a b).mgr = s.mgr := rfl
@[simp] theorem memSet_mgmtTx (a : Nat) (b : Byte) : (memSet s a b).mgmtTx = s.mgmtTx := rfl
@[simp] theorem memSet_eth (a : Nat) (b : Byte) : (memSet s a b).eth = s.eth := rfl
@[simp] theorem memSet_now (a : Nat) (b : Byte) : (memSet s a b).now = s.now := rfl
@[simp] theorem memSet_free (a : Nat) (b : Byte) : (memSet s a b).free = s.free := rfl
@[simp] theorem memSet_outbox (a : Nat) (b : Byte) : (memSet s a b).outbox = s.outbox := rfl
@[simp] theorem memSet_pending (a : Nat) (b : Byte) : (memSet s a b).pending = s.pending := rfl

@[simp] theorem stamp_cells : (stamp s).cells = s.cells := rfl
@[simp] theorem stamp_dflags : (stamp s).dflags = s.dflags := rfl
@[simp] theorem stamp_mem : (stamp s).mem = s.mem := rfl
@[simp] theorem stamp_poison : (stamp s).poison = s.poison := rfl
@[simp] theorem stamp_pchk : (stamp s).pchk = s.pchk := rfl
@[simp] theorem stamp_wins : (stamp s).wins = s.wins := rfl
@[simp] theorem stamp_objs : (stamp s).objs = s.objs := rfl
@[simp] theorem stamp_evLog : (stamp s).evLog = s.evLog := rfl
@[simp] theorem stamp_eps : (stamp s).eps = s.eps := rfl
@[simp] theorem stamp_epoch : (stamp s).epoch = s.epoch := rfl
@[simp] theorem stamp_holding : (stamp s).holding = s.holding := rfl
@[simp] theorem stamp_past : (stamp s).past = s.past := rfl
@[simp] theorem stamp_steps : (stamp s).steps = s.steps := rfl
@[simp] theorem stamp_released : (stamp s).released = s.released := rfl
@[simp] theorem stamp_jr : (stamp s).jr = s.jr := rfl
@[simp] theorem stamp_lastPosted : (stamp s).lastPosted = s.lastPosted := rfl
@[simp] theorem stamp_ldg : (stamp s).ldg = s.ldg := rfl
@[simp] theorem stamp_roll : (stamp s).roll = s.roll := rfl
@[simp] theorem stamp_rcv : (stamp s).rcv = s.rcv := rfl
@[simp] theorem stamp_baro : (stamp s).baro = s.baro := rfl
@[simp] theorem stamp_lock : (stamp s).lock = s.lock := rfl
@[simp] theorem stamp_host : (stamp s).host = s.host := rfl
@[simp] theorem stamp_up : (stamp s).up = s.up := rfl
@[simp] theorem stamp_hbm : (stamp s).hbm = s.hbm := rfl
@[simp] theorem stamp_doms : (stamp s).doms = s.doms := rfl
@[simp] theorem stamp_hasJournal : (stamp s).hasJournal = s.hasJournal := rfl
@[simp] theorem stamp_plan : (stamp s).plan = s.plan := rfl
@[simp] theorem stamp_inPlan : (stamp s).inPlan = s.inPlan := rfl
@[simp] theorem stamp_found : (stamp s).found = s.found := rfl
@[simp] theorem stamp_pendW : (stamp s).pendW = s.pendW := rfl
@[simp] theorem stamp_notSafe0 : (stamp s).notSafe0 = s.notSafe0 := rfl
@[simp] theorem stamp_ranks : (stamp s).ranks = s.ranks := rfl
@[simp] theorem stamp_ports : (stamp s).ports = s.ports := rfl
@[simp] theorem stamp_trk : (stamp s).trk = s.trk := rfl
@[simp] theorem stamp_trkGen : (stamp s).trkGen = s.trkGen := rfl
@[simp] theorem stamp_trkHwm : (stamp s).trkHwm = s.trkHwm := rfl
@[simp] theorem stamp_sess : (stamp s).sess = s.sess := rfl
@[simp] theorem stamp_mill : (stamp s).mill = s.mill := rfl
@[simp] theorem stamp_mseq0 : (stamp s).mseq0 = s.mseq0 := rfl
@[simp] theorem stamp_later : (stamp s).later = s.later := rfl
@[simp] theorem stamp_scratch : (stamp s).scratch = s.scratch := rfl
@[simp] theorem stamp_msadd : (stamp s).msadd = s.msadd := rfl
@[simp] theorem stamp_cellMap : (stamp s).cellMap = s.cellMap := rfl
@[simp] theorem stamp_alm : (stamp s).alm = s.alm := rfl
@[simp] theorem stamp_txq : (stamp s).txq = s.txq := rfl
@[simp] theorem stamp_rxq : (stamp s).rxq = s.rxq := rfl
@[simp] theorem stamp_heldSig : (stamp s).heldSig = s.heldSig := rfl
@[simp] theorem stamp_wtq : (stamp s).wtq = s.wtq := rfl
@[simp] theorem stamp_fronts : (stamp s).fronts = s.fronts := rfl
@[simp] theorem stamp_xferFrom : (stamp s).xferFrom = s.xferFrom := rfl
@[simp] theorem stamp_tee : (stamp s).tee = s.tee := rfl
@[simp] theorem stamp_cowQ : (stamp s).cowQ = s.cowQ := rfl
@[simp] theorem stamp_scrQ : (stamp s).scrQ = s.scrQ := rfl
@[simp] theorem stamp_lateOps : (stamp s).lateOps = s.lateOps := rfl
@[simp] theorem stamp_selfUp : (stamp s).selfUp = s.selfUp := rfl
@[simp] theorem stamp_selfDown : (stamp s).selfDown = s.selfDown := rfl
@[simp] theorem stamp_once : (stamp s).once = s.once := rfl
@[simp] theorem stamp_msixEn : (stamp s).msixEn = s.msixEn := rfl
@[simp] theorem stamp_msixOpen : (stamp s).msixOpen = s.msixOpen := rfl
@[simp] theorem stamp_msixPend : (stamp s).msixPend = s.msixPend := rfl
@[simp] theorem stamp_board : (stamp s).board = s.board := rfl
@[simp] theorem stamp_spdm : (stamp s).spdm = s.spdm := rfl
@[simp] theorem stamp_ssess : (stamp s).ssess = s.ssess := rfl
@[simp] theorem stamp_ide : (stamp s).ide = s.ide := rfl
@[simp] theorem stamp_bulk : (stamp s).bulk = s.bulk := rfl
@[simp] theorem stamp_mgr : (stamp s).mgr = s.mgr := rfl
@[simp] theorem stamp_mgmtTx : (stamp s).mgmtTx = s.mgmtTx := rfl
@[simp] theorem stamp_eth : (stamp s).eth = s.eth := rfl
@[simp] theorem stamp_outbox : (stamp s).outbox = s.outbox := rfl
@[simp] theorem stamp_pending : (stamp s).pending = s.pending := rfl

@[simp] theorem getCell_setCell (c : Nat) (x : Cell) : getCell (setCell s c x) c = x := by simp [getCell, setCell]

theorem getCell_setCell_ne {c d : Nat} (x : Cell) (h : c ≠ d) : getCell (setCell s c x) d = getCell s d := by
  simp [getCell, setCell, tget_tset_ne _ _ _ _ _ h]

@[simp] theorem getCell_modCell (c : Nat) (f : Cell → Cell) : getCell (modCell s c f) c = f (getCell s c) := by simp [modCell]

theorem getCell_modCell_ne {c d : Nat} (f : Cell → Cell) (h : c ≠ d) : getCell (modCell s c f) d = getCell s d :=
  getCell_setCell_ne s _ h

@[simp] theorem getStrm_setStrm (c k : Nat) (x : Stream) : getStrm (setStrm s c k x) c k = x := by simp [getStrm, setStrm]

theorem getStrm_setStrm_ne {c d k j : Nat} (x : Stream) (h : c ≠ d ∨ k ≠ j) : getStrm (setStrm s c k x) d j = getStrm s d j := by
  by_cases hc : c = d
  · subst hc
    have hk : k ≠ j := by simpa using h
    simp [getStrm, setStrm, tget_tset_ne _ _ _ _ _ hk]
  · simp [getStrm, setStrm, getCell_modCell_ne s _ hc]

@[simp] theorem getStrm_modStrm (c k : Nat) (f : Stream → Stream) : getStrm (modStrm s c k f) c k = f (getStrm s c k) := by
  simp [modStrm]

theorem getStrm_modStrm_ne {c d k j : Nat} (f : Stream → Stream) (h : c ≠ d ∨ k ≠ j) :
    getStrm (modStrm s c k f) d j = getStrm s d j := getStrm_setStrm_ne s _ h

@[simp] theorem getHop_setHop (c h : Nat) (x : Hopper) : getHop (setHop s c h x) c h = x := by simp [getHop, setHop]

@[simp] theorem getLoom_setLoom (c l : Nat) (x : LoomSt) : getLoom (setLoom s c l x) c l = x := by simp [getLoom, setLoom]

@[simp] theorem getVt_setVt (c e : Nat) (x : VtEntry) : getVt (setVt s c e x) c e = x := by simp [getVt, setVt]

@[simp] theorem getEp_setEp (e : Nat) (x : Endpoint) : getEp (setEp s e x) e = x := by simp [getEp, setEp]

theorem getEp_setEp_ne {e d : Nat} (x : Endpoint) (h : e ≠ d) : getEp (setEp s e x) d = getEp s d := by
  simp [getEp, setEp, tget_tset_ne _ _ _ _ _ h]

theorem okey_inj {i j a b : Nat} (ha : a < 256) (hb : b < 256) : okey i a = okey j b ↔ i = j ∧ a = b := by
  unfold okey; omega

@[simp] theorem oget_oset (idx sub v : Nat) : oget (oset s idx sub v) idx sub = v := by simp [oget, oset]

theorem oget_oset_ne {idx sub i j : Nat} (v : Nat) (h : okey idx sub ≠ okey i j) : oget (oset s idx sub v) i j = oget s i j := by
  simp [oget, oset, tget_tset_ne _ _ _ _ _ h]

end Sys2Proof.Machine
end

