-- ==== Sys2Proof/Laws/Gates.lean ====
section
/-! SUPPORT. What the gates let through, and what a report (an event, a tally) can change. -/
namespace Sys2Proof.Machine

theorem ifReady_of {s : State} (f : State → State) (h : isReady s = true) : ifReady s f = f s := by simp [ifReady, h]

theorem ifReady_not {s : State} (f : State → State) (h : isReady s = false) : ifReady s f = s := by simp [ifReady, h]

theorem ifServing_of {s : State} (f : State → State) (h : serving s = true) : ifServing s f = f s := by simp [ifServing, h]

theorem ifServing_not {s : State} (f : State → State) (h : serving s = false) : ifServing s f = s := by simp [ifServing, h]

/-- A request of the host that arrives well goes on. -/
theorem barGate_host {s : State} {sec read ready : Bool} {f : State → State} (h : HostOk s sec)
    (hr : ready = true → isReady s = true) : barGate s (.host sec .good) read ready f = f s := by
  obtain ⟨hu, hd, hi⟩ := h
  unfold barGate
  simp only [hu, hd]
  have h1 : (oget s 0x2041 1 == 1 && !inSecure s sec) = false := by
    by_cases e : oget s 0x2041 1 = 1
    · simp [hi e]
    · simp [e]
  have h2 : (!ready || isReady s) = true := by
    cases ready
    · rfl
    · simp [hr rfl]
  simp [h1, h2]

/-- A request that reaches a register of a READY device goes on. -/
theorem barGate_reaches {s : State} {src : Src} {read ready : Bool} {f : State → State} (h : Reaches s src) :
    barGate s src read ready f = f s := by
  obtain ⟨hr, hs⟩ := h
  cases src with
  | carter => simp [barGate, hr]
  | host sec tlp =>
    obtain ⟨rfl, ho⟩ := hs
    exact barGate_host ho (fun _ => hr)

theorem oneReg_reaches {s : State} {src : Src} {ready : Bool} {f : State → RegW → State} {v : Nat} (h : Reaches s src) :
    oneReg s src ready f v = f s { val := v % 2 ^ 64, host := fromHost src } := barGate_reaches h

/-- What an event or a saturating tally may change: the event log and what goes with it. -/
def SameButReports (s t : State) : Prop :=
  t = { s with evLog := t.evLog, eps := t.eps, objs := t.objs, now := t.now, free := t.free, outbox := t.outbox, mgmtTx := t.mgmtTx,
               msixPend := t.msixPend, once := t.once }

theorem SameButReports.refl (s : State) : SameButReports s s := rfl

theorem SameButReports.trans {s t u : State} (h : SameButReports s t) (k : SameButReports t u) : SameButReports s u := by
  unfold SameButReports at *
  rw [k, h]

theorem same_oset (s : State) (i j v : Nat) : SameButReports s (oset s i j v) := rfl

theorem same_setEp (s : State) (e : Nat) (x : Endpoint) : SameButReports s (setEp s e x) := rfl

theorem same_emit (s : State) (o : Out) : SameButReports s (emit s o) := rfl

theorem same_stamp (s : State) : SameButReports s (stamp s) := rfl

theorem same_evLog (s : State) (l : List EvRec) : SameButReports s { s with evLog := l } := rfl

theorem same_once (s : State) (l : List (Nat × Nat)) : SameButReports s { s with once := l } := rfl

theorem same_emitDict (s : State) (e : Nat) (b : List Byte) : SameButReports s (emitDict s e b) := by
  unfold emitDict
  split
  · rfl
  · exact same_emit _ _

theorem same_signalVec (s : State) (v : Nat) : SameButReports s (signalVec s v) := by
  unfold signalVec
  split
  · exact same_emit _ _
  · rfl

theorem same_pushNotify (s : State) (e : Nat) (rs : List EvRec) : SameButReports s (pushNotify s e rs) := by
  induction rs generalizing s with
  | nil => rfl
  | cons r rs ih =>
    unfold pushNotify
    dsimp only
    split
    · rfl
    · exact ((same_emitDict _ _ _).trans (same_setEp _ _ _)).trans (ih _)

theorem same_notifyEp (s : State) (e : Nat) (h : Bool) : SameButReports s (notifyEp s e h) := by
  unfold notifyEp
  dsimp only
  split
  · rfl
  · split
    · exact same_pushNotify _ _ _
    · split
      · rfl
      · split
        · exact same_signalVec _ _
        · split
          · exact same_emit _ _
          · rfl

theorem same_logEvent (s : State) (code : Nat) (p : List Nat) : SameButReports s (logEvent s code p) := by
  unfold logEvent
  dsimp only
  exact (same_stamp s).trans (SameButReports.trans (same_evLog _ _) (same_oset _ _ _ _))

theorem same_loseRec (s : State) (e : Nat) : SameButReports s (loseRec s e).1 := by
  unfold loseRec
  exact (same_oset _ _ _ _).trans (same_setEp _ _ _)

theorem same_foldl {α : Type} (f : State → α → State) (h : ∀ s a, SameButReports s (f s a)) (l : List α) (s : State) :
    SameButReports s (l.foldl f s) := by
  induction l generalizing s with
  | nil => rfl
  | cons a l ih => exact (h s a).trans (ih _)

theorem same_dropHead (s : State) (r : EvRec) : SameButReports s (dropHead s r).1 := by
  unfold dropHead
  have h : ∀ (l : List Nat) (q : State × List (Nat × List Nat)), SameButReports s q.1 → SameButReports s (l.foldl (fun q e =>
      if (getEp q.1 e).ptr ≤ r.seq && dueTo (getEp q.1 e) r then ((loseRec q.1 e).1, q.2 ++ (loseRec q.1 e).2) else q) q).1 := by
    intro l
    induction l with
    | nil => exact fun q h => h
    | cons e l ih =>
      intro q h
      refine ih _ ?_
      dsimp only
      split
      · exact h.trans (same_loseRec _ _)
      · exact h
  exact h _ _ (same_evLog _ _)

theorem same_makeRoom (n : Nat) (s : State) : SameButReports s (makeRoom n s) := by
  induction n generalizing s with
  | zero => rfl
  | succ n ih =>
    unfold makeRoom
    dsimp only
    split
    · rfl
    · split
      · exact same_dropHead _ _
      · exact ((same_dropHead _ _).trans (same_foldl _ (fun v q => (ih v).trans (same_logEvent _ _ _)) _ _)).trans (ih _)

/-- An event changes nothing but the log and what goes with it. -/
theorem same_raise (s : State) (code : Nat) (p : List Nat) : SameButReports s (raise s code p) := by
  unfold raise
  dsimp only
  refine SameButReports.trans ?_ (same_notifyEp _ _ _)
  refine SameButReports.trans ?_ (same_notifyEp _ _ _)
  refine SameButReports.trans ?_ (same_notifyEp _ _ _)
  refine SameButReports.trans ?_ (same_notifyEp _ _ _)
  exact (same_makeRoom _ _).trans (same_logEvent _ _ _)

theorem same_raiseOnce (s : State) (code k : Nat) (p : List Nat) : SameButReports s (raiseOnce s code k p) := by
  unfold raiseOnce
  split
  · rfl
  · exact (same_once _ _).trans (same_raise _ _ _)

theorem same_bumpPerf (s : State) (i j n : Nat) : SameButReports s (bumpPerf s i j n) := by
  unfold bumpPerf
  split
  · rfl
  · exact same_oset _ _ _ _

theorem same_bumpErr (s : State) (i j n ev : Nat) : SameButReports s (bumpErr s i j n ev) := by
  unfold bumpErr
  split
  · rfl
  · dsimp only
    split
    · exact (same_oset _ _ _ _).trans (same_raise _ _ _)
    · exact same_oset _ _ _ _

/-- What reports, and the two fields of SVC_SAFE and the LED, with the values they have in t. -/
def watched (s t : State) : State :=
  { s with evLog := t.evLog, eps := t.eps, objs := t.objs, now := t.now, free := t.free, outbox := t.outbox, mgmtTx := t.mgmtTx,
           msixPend := t.msixPend, once := t.once, board := { s.board with safe := t.board.safe, led := t.board.led } }

theorem raiseSafe_watched (s : State) : raiseSafe s = watched s (raiseSafe s) := by
  unfold raiseSafe
  by_cases h : (isSafe s == s.board.safe) = true
  · simp only [h, if_true]
    rfl
  · simp only [h, Bool.false_eq_true, if_false]
    by_cases k : isSafe s = true
    · simp only [k, if_true]
      have e := same_raise { s with board := { s.board with safe := true } } 0x1115 []
      unfold SameButReports at e
      generalize raise { s with board := { s.board with safe := true } } 0x1115 [] = r at *
      rw [e]
      rfl
    · simp only [k, Bool.false_eq_true, if_false]
      rfl

/-- The watch of SVC_SAFE and of the LED changes nothing else of the device (R537, R539). -/
theorem watchSafe_watched (s : State) : watchSafe s = watched s (watchSafe s) := by
  have e := raiseSafe_watched s
  unfold watchSafe
  dsimp only
  generalize raiseSafe s = r at *
  by_cases h : (ledNext (ledRow r) (ledPort r) r.now r.board.led == r.board.led) = true
  · simp only [h, if_true]
    exact e
  · simp only [h, Bool.false_eq_true, if_false]
    rw [e]
    rfl

/-- A 64-bit write outside what the host alone reaches is the write of its register (R494, R496). -/
theorem registerWrite_reaches {s : State} {src : Src} {off v : Nat} (h : Reaches s src) (hm : bar0Mapped off 8 = true)
    (ho : hostOnly off = false) : registerWrite s src off 8 v = regWrite s off { val := v % 2 ^ 64, host := fromHost src } := by
  have h8 : off % 8 = 0 := by
    simp only [bar0Mapped, Bool.and_eq_true] at hm
    simpa using hm.1.2
  have h1 : (off == 0x1000) = false := by
    by_cases e : off = 0x1000
    · subst e
      exact absurd ho (by decide)
    · simpa using e
  unfold registerWrite
  rw [barGate_reaches h]
  simp [hm, ho, h1, h8, halfOf]

end Sys2Proof.Machine
end

