-- ==== Sys2Proof/Laws/Memory.lean ====
section
/-! SUPPORT. Memory: every operation keeps the canonical form; a read after a write gives what was written, and a write leaves every
other byte alone. -/
namespace Sys2Proof.Machine

/-- Every listed address is above a bound. -/
def above (a : Nat) (m : List Host.Cell) : Prop := ∀ c ∈ m, a < c.1

theorem cellsWf_cons {k : Nat} {v : Byte} {t : List Host.Cell} :
    cellsWf ((k, v) :: t) = true ↔ v ≠ 0#8 ∧ above k t ∧ cellsWf t = true := by
  induction t generalizing k v with
  | nil => simp [cellsWf, above]
  | cons p r ih =>
    obtain ⟨k', v'⟩ := p
    simp only [cellsWf, Bool.and_eq_true, bne_iff_ne, decide_eq_true_eq, above, List.mem_cons, forall_eq_or_imp]
    constructor
    · rintro ⟨⟨hv, hk⟩, hw⟩
      exact ⟨hv, ⟨hk, fun c hc => Nat.lt_trans hk ((ih.mp hw).2.1 c hc)⟩, hw⟩
    · rintro ⟨hv, ⟨hk, _⟩, hw⟩
      exact ⟨⟨hv, hk⟩, hw⟩

theorem above_cellsSet {a b : Nat} {v : Byte} {m : List Host.Cell} (hb : b < a) (hm : above b m) :
    above b (cellsSet m a v) := by
  induction m with
  | nil =>
    by_cases h : v = 0#8 <;> simp [cellsSet, above, h, hb]
  | cons p t ih =>
    obtain ⟨k, w⟩ := p
    have hk : b < k := hm (k, w) (by simp)
    have ht : above b t := fun c hc => hm c (by simp [hc])
    have hih := ih ht
    unfold cellsSet
    split
    · intro c hc
      rcases List.mem_cons.mp hc with rfl | hc
      · exact hk
      · exact hih c hc
    · split
      · split
        · exact ht
        · intro c hc
          rcases List.mem_cons.mp hc with rfl | hc
          · exact hb
          · exact ht c hc
      · split
        · exact hm
        · intro c hc
          rcases List.mem_cons.mp hc with rfl | hc
          · exact hb
          · exact hm c hc

theorem above_trans {a b : Nat} {m : List Host.Cell} (h : a < b) (hm : above b m) : above a m :=
  fun c hc => Nat.lt_trans h (hm c hc)

/-- Writing a byte keeps the canonical form. -/
theorem cellsSet_wf {m : List Host.Cell} (a : Nat) (v : Byte) (hm : cellsWf m = true) : cellsWf (cellsSet m a v) = true := by
  induction m with
  | nil => by_cases h : v = 0#8 <;> simp [cellsSet, cellsWf, h]
  | cons p t ih =>
    obtain ⟨k, w⟩ := p
    obtain ⟨hw, ht, hwf⟩ := cellsWf_cons.mp hm
    unfold cellsSet
    split
    · next h => exact cellsWf_cons.mpr ⟨hw, above_cellsSet h ht, ih hwf⟩
    · split
      · next h =>
        split
        · exact hwf
        · next hv => subst h; exact cellsWf_cons.mpr ⟨hv, ht, hwf⟩
      · next h1 h2 =>
        split
        · exact hm
        · next hv =>
          refine cellsWf_cons.mpr ⟨hv, ?_, hm⟩
          have hlt : a < k := by omega
          intro c hc
          rcases List.mem_cons.mp hc with rfl | hc
          · exact hlt
          · exact Nat.lt_trans hlt (ht c hc)

theorem cellsGet_above {m : List Host.Cell} {a : Nat} (h : above a m) : cellsGet m a = 0#8 := by
  cases m with
  | nil => rfl
  | cons p t =>
    obtain ⟨k, w⟩ := p
    have hk : a < k := h (k, w) (by simp)
    have : k ≠ a := by omega
    simp [cellsGet, this, hk]

/-- The byte written is read. -/
theorem cellsGet_set_same {m : List Host.Cell} (a : Nat) (v : Byte) (hm : cellsWf m = true) : cellsGet (cellsSet m a v) a = v := by
  induction m with
  | nil => by_cases h : v = 0#8 <;> simp [cellsSet, cellsGet, h]
  | cons p t ih =>
    obtain ⟨k, w⟩ := p
    obtain ⟨_, ht, hwf⟩ := cellsWf_cons.mp hm
    unfold cellsSet
    split
    · next h =>
      have h1 : k ≠ a := by omega
      have h2 : ¬ a < k := by omega
      simp [cellsGet, h1, h2, ih hwf]
    · split
      · next h =>
        subst h
        split
        · next hv => rw [hv]; exact cellsGet_above ht
        · simp [cellsGet]
      · next h1 h2 =>
        split
        · next hv =>
          have h3 : a < k := by omega
          simp [cellsGet, h2, h3, hv]
        · simp [cellsGet]

/-- Every other byte reads as before. -/
theorem cellsGet_set_ne {m : List Host.Cell} {a b : Nat} (v : Byte) (hm : cellsWf m = true) (h : a ≠ b) :
    cellsGet (cellsSet m a v) b = cellsGet m b := by
  induction m with
  | nil =>
    by_cases hv : v = 0#8
    · simp [cellsSet, cellsGet, hv]
    · simp [cellsSet, cellsGet, hv, h]
  | cons p t ih =>
    obtain ⟨k, w⟩ := p
    obtain ⟨_, ht, hwf⟩ := cellsWf_cons.mp hm
    unfold cellsSet
    split
    · by_cases hk : k = b
      · simp [cellsGet, hk]
      · simp [cellsGet, hk, ih hwf]
    · split
      · next h2 =>
        subst h2
        have hz : b < k → cellsGet t b = 0#8 := fun hb => cellsGet_above (above_trans hb ht)
        split
        · by_cases hb : b < k
          · simp [cellsGet, h, hb, hz hb]
          · simp [cellsGet, h, hb]
        · simp [cellsGet, h]
      · next h1 h2 =>
        split
        · rfl
        · have ha : a < k := by omega
          by_cases hb : b < a
          · have hbk : b < k := by omega
            have hne : k ≠ b := by omega
            simp [cellsGet, h, hb, hbk, hne]
          · simp [cellsGet, h, hb]

@[simp] theorem memSet_wf {s : State} (a : Nat) (b : Byte) (h : Memory.wf s.mem = true) : Memory.wf (memSet s a b).mem = true :=
  cellsSet_wf a b h

theorem memWriteRaw_wf {s : State} (a : Nat) (bs : List Byte) (h : Memory.wf s.mem = true) :
    Memory.wf (memWriteRaw s a bs).mem = true := by
  induction bs generalizing s a with
  | nil => exact h
  | cons b t ih => exact ih (a + 1) (memSet_wf a b h)

@[simp] theorem setPoison_mem (s : State) (a : Nat) (p : Bool) : (setPoison s a p).mem = s.mem := by
  unfold setPoison; split <;> rfl

theorem memWrite_wf {s : State} (a : Nat) (bs : List Byte) (h : Memory.wf s.mem = true) : Memory.wf (memWrite s a bs).mem = true :=
  memWriteRaw_wf a bs h

theorem memWriteWord_wf {s : State} (a : Nat) (w : DWord) (h : Memory.wf s.mem = true) :
    Memory.wf (memWriteWord s a w).mem = true := by
  unfold memWriteWord; dsimp only; split <;> simpa using memWriteRaw_wf a _ h

/-- A byte outside a write reads as before. -/
theorem memGet_memWriteRaw_out {s : State} {a x : Nat} (bs : List Byte) (h : Memory.wf s.mem = true)
    (hx : x < a ∨ a + bs.length ≤ x) : memGet (memWriteRaw s a bs) x = memGet s x := by
  induction bs generalizing s a with
  | nil => rfl
  | cons b t ih =>
    simp only [List.length_cons] at hx
    rw [memWriteRaw, ih (memSet_wf a b h) (by omega)]
    exact cellsGet_set_ne b h (by omega)

/-- A byte inside a write reads as written. -/
theorem memGet_memWriteRaw_in {s : State} {a : Nat} (bs : List Byte) (i : Nat) (h : Memory.wf s.mem = true) (hi : i < bs.length) :
    memGet (memWriteRaw s a bs) (a + i) = bs.getD i 0#8 := by
  induction bs generalizing s a i with
  | nil => simp at hi
  | cons b t ih =>
    cases i with
    | zero =>
      rw [memWriteRaw, memGet_memWriteRaw_out t (memSet_wf a b h) (by omega)]
      exact cellsGet_set_same a b h
    | succ j =>
      have hj : j < t.length := by simpa using hi
      have := ih (s := memSet s a b) (a := a + 1) j (memSet_wf a b h) hj
      rw [memWriteRaw, show a + (j + 1) = a + 1 + j by omega, this]
      simp

theorem memGet_memWrite_out {s : State} {a x : Nat} (bs : List Byte) (h : Memory.wf s.mem = true)
    (hx : x < a ∨ a + bs.length ≤ x) : memGet (memWrite s a bs) x = memGet s x := memGet_memWriteRaw_out bs h hx

theorem memGet_memWrite_in {s : State} {a : Nat} (bs : List Byte) (i : Nat) (h : Memory.wf s.mem = true) (hi : i < bs.length) :
    memGet (memWrite s a bs) (a + i) = bs.getD i 0#8 := memGet_memWriteRaw_in bs i h hi

@[simp] theorem memRead_length (s : State) (a n : Nat) : (memRead s a n).length = n := by
  induction n generalizing a with
  | zero => rfl
  | succ n ih => simp [memRead, ih]

theorem memRead_getD (s : State) (a n i : Nat) (h : i < n) : (memRead s a n).getD i 0#8 = memGet s (a + i) := by
  induction n generalizing a i with
  | zero => omega
  | succ n ih =>
    cases i with
    | zero => rfl
    | succ j =>
      have := ih (a + 1) j (by omega)
      rw [memRead, List.getD_cons_succ, this, show a + 1 + j = a + (j + 1) by omega]

end Sys2Proof.Machine
end

