-- ==== Sys2Proof/Tests/Slice0.lean ====
section
/-! SUPPORT. Tests: ill-formed terms that are refused, words of stream commands written out from the spec's tables, and for each
statement with hypotheses a concrete state and operands that meet them, clause by clause. -/
namespace Sys2Proof.Tests

set_option Elab.async false

open Sys2Proof.Machine

/-! Ill-formed terms, one for each check of WellFormed. -/

/-- A message whose header's type byte is t, with data words of n bytes. -/
def rawMsg (t : Nat) (n words : Nat := 0) : MsgIn :=
  { hdr := BitVec.ofNat 8 t :: List.replicate 31 0#8, data := List.replicate words (List.replicate n 0#8, false) }

/-- Every row that is a message, on link k with message m. -/
def msgRows (k : Nat) (m : MsgIn) : List Instr :=
  [.sweulWrite k m, .sweulRead k m, .sweulAtomic k m, .signal k m, .ack k m, .readData k m, .refuse k m, .retry k m, .drvCount k m,
   .millPart k m, .millRes k m, .millVote k m, .millVerdict k m, .millSealUp k m, .millSealDown k m, .millNak k m, .ledgerFold k m,
   .rcvReady k m, .rcvResume k m, .rcvRestoreUp k m, .rcvRestoreDown k m, .shadowRsp k m, .shadowFold k m, .mirrorState k m, .xferDone k m]

theorem test_wf_message_type : (msgRows 0 (rawMsg 0xEE)).all (fun i => !i.wf) = true := by decide +kernel

theorem test_wf_message_header : (Instr.sweulWrite 0 { hdr := [1#8], data := [] }).wf = false := by decide +kernel

theorem test_wf_message_words :
    (Instr.sweulWrite 0 (rawMsg 1 32 17)).wf = false ∧ (Instr.sweulWrite 0 (rawMsg 1 31 1)).wf = false ∧
    (Instr.sweulWrite 0 (rawMsg 1 32 16)).wf = true := by decide +kernel

theorem test_wf_message_link : (msgRows 32 (rawMsg 1)).all (fun i => !i.wf) = true ∧
    (Instr.sweulWrite (0x30000) (rawMsg 1)).wf = false ∧ (Instr.millSealUp 0xFFFF (rawMsg 0x34)).wf = true ∧
    (Instr.millVote 0xFFFF (rawMsg 0x32)).wf = false := by decide +kernel

def reqRows (d : DReq) : List Instr :=
  [.read 0 d, .write 0 d true, .describe 0 d, .next 0 d, .xwStart 0 d, .xwSeg 0 d, .xrStart 0 d, .xrSeg 0 d, .xabort 0 d,
   .subscribe 0 d, .evread 0 d, .evack 0 d]

theorem test_wf_request :
    (reqRows ⟨256, 0, 0, 0, 0, 0, []⟩).all (fun i => !i.wf) = true ∧ (reqRows ⟨0, 65536, 0, 0, 0, 0, []⟩).all (fun i => !i.wf) = true ∧
    (reqRows ⟨0, 0, 256, 0, 0, 0, []⟩).all (fun i => !i.wf) = true ∧ (reqRows ⟨0, 0, 0, 0, 0, 1, []⟩).all (fun i => !i.wf) = true ∧
    (reqRows ⟨0, 0, 0, 256, 0, 0, []⟩).all (fun i => !i.wf) = true ∧
    (reqRows ⟨0, 0, 0, 0, 2 ^ 32, 0, []⟩).all (fun i => !i.wf) = true ∧ (reqRows ⟨0, 0, 0, 0, 0, 0, []⟩).all Instr.wf = true := by
  decide +kernel

theorem test_wf_orders :
    [Instr.orderResume 0 0#8 [], .orderTakeover 0 0#8 [], .orderDonor 0 0#8 [], .orderPattern 0 0#8 [], .orderShadow 0 0#8 [],
     .orderCheckpoint 0 0#8 [], .orderRestore 0 0#8 []].all (fun i => !i.wf) = true := by decide +kernel

theorem test_wf_accesses :
    [Instr.registerWrite .carter 0 3 0#64, .registerWrite .carter 4 8 0#64, .unmappedAccess .carter 1 0 8 true,
     .unmappedAccess .carter 0 0 0 true, .bar2Read .carter 0 0, .bar2Write .carter 0 [], .scrub 31 .clean, .windowTimeout 65536 0,
     .frameRx 0 [], .hello 0 []].all (fun i => !i.wf) = true := by decide +kernel

theorem test_wf_job_start :
    (Instr.jobStartWrite 0 0#8 0x5400#16 1#8 []).wf = false ∧ (Instr.jobStartWrite 0 0#8 0x5401#16 0#8 []).wf = false ∧
    (Instr.jobStartWrite 0 0#8 0x5401#16 5#8 []).wf = false ∧ (Instr.jobStartWrite 0 0#8 0x5401#16 4#8 []).wf = true := by decide +kernel

/-- The Almanac's readings with the numbers of cells, junctions, I/O dies and stacks given, all at 50 C. -/
def almIn (c j i h : Nat) : AlmIn :=
  { cells := List.replicate c 1000, uncore := 100000, junc := List.replicate j 500, io := List.replicate i 500, hbms := List.replicate h 500,
    pu := 1000, l16 := 1000 }

theorem test_wf_readings :
    (Instr.almanacUpdate (almIn 65 66 4 12)).wf = false ∧ (Instr.almanacUpdate (almIn 66 65 4 12)).wf = false ∧
    (Instr.almanacUpdate (almIn 66 66 3 12)).wf = false ∧ (Instr.almanacUpdate (almIn 66 66 4 11)).wf = false ∧
    (Instr.almanacUpdate (almIn 66 66 4 12)).wf = true := by decide +kernel

theorem test_wf_stages :
    (Instr.bootStageEnd 0 {}).wf = false ∧ (Instr.bootStageEnd 7 {}).wf = false ∧ (Instr.bootStageEnd 4 { cells := [66] }).wf = false ∧
    (Instr.bootStageEnd 5 { lanes := [(384, 1)] }).wf = false ∧ (Instr.bootStageEnd 6 {}).wf = true := by decide +kernel
/-! Words of stream commands, written out from Tables 7-1, 7-5, 7-6 and 10-4 field by field. -/

theorem test_word_loop :
    decodeCmd (0x2 + 2 * 2 ^ 8 + 6 * 2 ^ 11 + 1 * 2 ^ 17 + 7 * 2 ^ 20 + 94 * 2 ^ 24 + 2503055454 * 2 ^ 32) =
      (⟨2#2, 0#1, 6#3⟩, some (.loop ⟨0#1, 1#3, 7#3, 0#1, 94#8, 2503055454#32⟩)) := by
  decide +kernel

theorem test_word_cnt :
    decodeCmd (0x3 + 1 * 2 ^ 16 + 4 * 2 ^ 19 + 4 * 2 ^ 22 + 300026768 * 2 ^ 32 + 25530319247141 * 2 ^ 64) =
      (⟨0#2, 0#1, 0#3⟩, some (.cnt ⟨1#3, 4#3, 4#3, 300026768#32, 25530319247141#48⟩)) := by
  decide +kernel

theorem test_word_cmp :
    decodeCmd (0x4 + 3 * 2 ^ 8 + 7 * 2 ^ 11 + 1 * 2 ^ 16 + 6 * 2 ^ 19 + 3 * 2 ^ 22 + 5 * 2 ^ 25 + 1 * 2 ^ 28 +
      212984477 * 2 ^ 32 + 250 * 2 ^ 64) =
      (⟨3#2, 0#1, 7#3⟩, some (.cmp ⟨1#2, 0#1, 6#3, 3#2, 0#1, 5#3, 1#1, 212984477#32, 250#8⟩)) := by
  decide +kernel

theorem test_word_hpush :
    decodeCmd (0x5 + 1 * 2 ^ 8 + 7 * 2 ^ 11 + 880 * 2 ^ 16 + 5 * 2 ^ 26 + 3 * 2 ^ 31 + 1 * 2 ^ 34 + 5 * 2 ^ 35 +
      35435 * 2 ^ 40) =
      (⟨1#2, 0#1, 7#3⟩, some (.hpush ⟨880#10, 5#5, 3#3, 1#1, 5#5, 35435#16⟩)) := by
  decide +kernel

theorem test_word_wait :
    decodeCmd (0x11 + 1 * 2 ^ 10 + 7 * 2 ^ 11 + 149 * 2 ^ 18 + 5 * 2 ^ 26 + 1599435268 * 2 ^ 32) =
      (⟨0#2, 1#1, 7#3⟩, some (.wait ⟨0#1, 0#1, 149#8, 5#3, 0#1, 1599435268#32⟩)) := by
  decide +kernel

theorem test_word_mma :
    decodeCmd (0x20 + 7 * 2 ^ 11 + 1 * 2 ^ 14 + 3 * 2 ^ 16 + 2 * 2 ^ 19 + 1 * 2 ^ 21 + 2 * 2 ^ 22 + 1 * 2 ^ 24 + 1 * 2 ^ 25 +
      3 * 2 ^ 26 + 2 * 2 ^ 29 + 26 * 2 ^ 32 + 23 * 2 ^ 38 + 3 * 2 ^ 44 + 19 * 2 ^ 49 + 10 * 2 ^ 54 + 17 * 2 ^ 59 +
      127 * 2 ^ 64 + 225 * 2 ^ 72 + 22511 * 2 ^ 80 + 3132943649 * 2 ^ 96) =
      (⟨0#2, 0#1, 7#3⟩, some (.mma ⟨1#2, 3#2, 0#1, 2#2, 1#1, 2#2, 1#1, 1#1, 3#3, 2#2, 0#1, 26#5, 0#1, 23#5, 0#1, 3#5, 19#5, 10#5,
        17#5, 127#8, 225#8, 22511#16, 3132943649#32⟩)) := by
  decide +kernel

theorem test_word_ucommit :
    decodeCmd (0x30 + 3 * 2 ^ 8 + 1 * 2 ^ 10 + 7 * 2 ^ 11 + 3 * 2 ^ 18 + 1 * 2 ^ 20 + 11 * 2 ^ 21 + 25 * 2 ^ 32 + 11 * 2 ^ 37 +
      5 * 2 ^ 42 + 30 * 2 ^ 47 + 32045 * 2 ^ 64 + 1811180650 * 2 ^ 96) =
      (⟨3#2, 1#1, 7#3⟩, some (.ucommit ⟨0#1, 0#1, 3#2, 1#1, 11#6, 25#5, 11#5, 5#5, 30#5, 32045#16, 1811180650#32⟩)) := by
  decide +kernel

theorem test_word_vrel :
    decodeCmd (0x34 + 7 * 2 ^ 11 + 1 * 2 ^ 17 + 22 * 2 ^ 21) =
      (⟨0#2, 0#1, 7#3⟩, some (.vrel ⟨1#1, 22#6⟩)) := by
  decide +kernel

theorem test_word_udone :
    decodeCmd (0x32 + 2 * 2 ^ 8 + 1 * 2 ^ 10 + 7 * 2 ^ 11 + 1 * 2 ^ 17) =
      (⟨2#2, 1#1, 7#3⟩, some (.udone 1#1)) := by
  decide +kernel

theorem test_word_setlen :
    decodeCmd (0x40 + 5 * 2 ^ 11 + 122 * 2 ^ 16 + 45 * 2 ^ 24) =
      (⟨0#2, 0#1, 5#3⟩, some (.setlen 122#8 45#6)) := by
  decide +kernel

theorem test_word_stt :
    decodeCmd (0x42 + 5 * 2 ^ 11 + 11 * 2 ^ 16 + 148 * 2 ^ 20 + 3 * 2 ^ 28 + 1 * 2 ^ 30 + 1 * 2 ^ 31 + 23 * 2 ^ 32 +
      13 * 2 ^ 37 + 3 * 2 ^ 42 + 2 * 2 ^ 44 + 1 * 2 ^ 47 + 12 * 2 ^ 48 + 2623879481 * 2 ^ 96) =
      (⟨0#2, 0#1, 5#3⟩, some (.stt ⟨11#4, 148#8, 3#2, 1#1, 1#1, 23#5, 13#5, 3#2, 2#2, 0#1, 1#1, 12#5, 0#1, 2623879481#32⟩)) := by
  decide +kernel

theorem test_word_card :
    decodeCmd (0x43 + 1 * 2 ^ 10 + 4 * 2 ^ 16 + 1 * 2 ^ 20 + 34 * 2 ^ 21 + 3025 * 2 ^ 29 + 1015 * 2 ^ 41 + 1630 * 2 ^ 53 +
      1602 * 2 ^ 65 + 30 * 2 ^ 77 + 28 * 2 ^ 82 + 2132480061 * 2 ^ 96) =
      (⟨0#2, 1#1, 0#3⟩, some (.card ⟨4#4, 1#1, 34#8, ⟨1#2, 4#4, 47#6⟩, ⟨3#2, 13#4, 15#6⟩, ⟨2#2, 7#4, 25#6⟩, ⟨2#2, 0#4, 25#6⟩,
        ⟨0#1, 15#4⟩, ⟨0#1, 14#4⟩, 2132480061#32⟩)) := by
  decide +kernel

theorem test_word_red :
    decodeCmd (0x44 + 6 * 2 ^ 11 + 7 * 2 ^ 16 + 9 * 2 ^ 20 + 3 * 2 ^ 24 + 1 * 2 ^ 28 + 1 * 2 ^ 29 + 12 * 2 ^ 32 + 27 * 2 ^ 36 +
      253 * 2 ^ 42 + 92 * 2 ^ 50 + 11454193 * 2 ^ 58 + 3797579270 * 2 ^ 96) =
      (⟨0#2, 0#1, 6#3⟩, some (.red ⟨7#4, 9#4, 3#3, 0#1, 1#1, 1#1, 12#4, 27#6, 253#8, 92#8, 11454193#24, 3797579270#32⟩)) := by
  decide +kernel

theorem test_word_zmap :
    decodeCmd (0x45 + 3 * 2 ^ 8 + 4 * 2 ^ 11 + 2 * 2 ^ 16 + 60 * 2 ^ 22 + 169 * 2 ^ 30) =
      (⟨3#2, 0#1, 4#3⟩, some (.zmap ⟨2#4, 0#1, 0#1, 60#8, 169#8⟩)) := by
  decide +kernel

theorem test_word_tbl :
    decodeCmd (0x46 + 1 * 2 ^ 8 + 6 * 2 ^ 11 + 3 * 2 ^ 16 + 5 * 2 ^ 19 + 10 * 2 ^ 23 + 1 * 2 ^ 28 + 5 * 2 ^ 33 + 1 * 2 ^ 38) =
      (⟨1#2, 0#1, 6#3⟩, some (.tbl ⟨3#2, 0#1, 5#4, 10#5, 1#5, 5#5, 1#1⟩)) := by
  decide +kernel

theorem test_word_rsig :
    decodeCmd (0x51 + 2 * 2 ^ 8 + 1 * 2 ^ 10 + 4 * 2 ^ 11 + 1 * 2 ^ 17 + 231 * 2 ^ 18 + 56 * 2 ^ 26 + 51117 * 2 ^ 32 +
      4088320183 * 2 ^ 64) =
      (⟨2#2, 1#1, 4#3⟩, some (.rsig ⟨0#1, 1#1, 231#8, 56#6, 51117#16, 4088320183#32⟩)) := by
  decide +kernel

theorem test_word_ratom :
    decodeCmd (0x52 + 3 * 2 ^ 8 + 1 * 2 ^ 10 + 6 * 2 ^ 11 + 7 * 2 ^ 16 + 4 * 2 ^ 20 + 16 * 2 ^ 25 + 1 * 2 ^ 30 +
      3516125473068251433 * 2 ^ 64) =
      (⟨3#2, 1#1, 6#3⟩, some (.ratom ⟨7#4, 4#5, 16#5, 1#1, 3516125473068251433#64⟩)) := by
  decide +kernel

theorem test_word_drvSubmit :
    decodeCmd (0x60 + 6 * 2 ^ 11 + 11 * 2 ^ 16 + 8 * 2 ^ 22 + 11 * 2 ^ 28 + 439717025 * 2 ^ 34 + 1329579211543 * 2 ^ 77) =
      (⟨0#2, 0#1, 6#3⟩, some (.drvSubmit ⟨11#6, 8#6, 11#5, 0#1, 439717025#43, 1329579211543#43⟩)) := by
  decide +kernel

theorem test_word_drvSend :
    decodeCmd (0x61 + 1 * 2 ^ 10 + 7 * 2 ^ 11 + 2 * 2 ^ 16 + 28 * 2 ^ 23 + 7 * 2 ^ 28 + 5031 * 2 ^ 33 +
      1307285950795 * 2 ^ 46) =
      (⟨0#2, 1#1, 7#3⟩, some (.drvSend ⟨2#6, 0#1, 28#5, 7#5, 5031#13, 1307285950795#43⟩)) := by
  decide +kernel

theorem test_word_drvClose :
    decodeCmd (0x62 + 2 * 2 ^ 8 + 1 * 2 ^ 10 + 7 * 2 ^ 11 + 24 * 2 ^ 16 + 1080073256339 * 2 ^ 22) =
      (⟨2#2, 1#1, 7#3⟩, some (.drvClose ⟨24#6, 1080073256339#43⟩)) := by
  decide +kernel

theorem test_word_millRs :
    decodeCmd (0x70 + 1 * 2 ^ 10 + 6 * 2 ^ 11 + 2 * 2 ^ 14 + 31 * 2 ^ 16 + 10 * 2 ^ 22 + 3 * 2 ^ 27 + 5 * 2 ^ 32 + 4 * 2 ^ 37 +
      24 * 2 ^ 42 + 1 * 2 ^ 47 + 3 * 2 ^ 48 + 1085 * 2 ^ 52 + 32119775 * 2 ^ 64 + 54320 * 2 ^ 96 + 45355 * 2 ^ 112) =
      (⟨0#2, 1#1, 6#3⟩, some (.millRs ⟨2#2, 31#6, 10#5, 3#5, 5#5, 4#5, 24#5, 1#1, 3#2, 1085#12, 32119775#26, 54320#16,
        45355#16⟩)) := by
  decide +kernel

theorem test_word_millAg :
    decodeCmd (0x71 + 1 * 2 ^ 8 + 4 * 2 ^ 11 + 3 * 2 ^ 14 + 24 * 2 ^ 16 + 5 * 2 ^ 22 + 23 * 2 ^ 27 + 18 * 2 ^ 32 +
      30 * 2 ^ 37 + 1 * 2 ^ 42 + 1 * 2 ^ 47 + 3 * 2 ^ 48 + 3537 * 2 ^ 52 + 6107615 * 2 ^ 64 + 45626 * 2 ^ 96 +
      55408 * 2 ^ 112) =
      (⟨1#2, 0#1, 4#3⟩, some (.millAg ⟨3#2, 24#6, 5#5, 23#5, 18#5, 30#5, 1#5, 1#1, 3#2, 3537#12, 6107615#26, 45626#16,
        55408#16⟩)) := by
  decide +kernel

theorem test_word_millAr :
    decodeCmd (0x72 + 2 * 2 ^ 8 + 1 * 2 ^ 10 + 4 * 2 ^ 11 + 2 * 2 ^ 14 + 50 * 2 ^ 16 + 8 * 2 ^ 22 + 18 * 2 ^ 27 + 18 * 2 ^ 32 +
      25 * 2 ^ 37 + 17 * 2 ^ 42 + 1 * 2 ^ 47 + 3 * 2 ^ 48 + 914 * 2 ^ 52 + 41153050 * 2 ^ 64 + 53184 * 2 ^ 96 +
      51669 * 2 ^ 112) =
      (⟨2#2, 1#1, 4#3⟩, some (.millAr ⟨2#2, 50#6, 8#5, 18#5, 18#5, 25#5, 17#5, 1#1, 3#2, 914#12, 41153050#26, 53184#16,
        51669#16⟩)) := by
  decide +kernel

theorem test_word_millBc :
    decodeCmd (0x73 + 1 * 2 ^ 8 + 6 * 2 ^ 11 + 3 * 2 ^ 14 + 52 * 2 ^ 16 + 8 * 2 ^ 22 + 7 * 2 ^ 27 + 17 * 2 ^ 32 + 16 * 2 ^ 37 +
      12 * 2 ^ 42 + 1 * 2 ^ 48 + 3237 * 2 ^ 52 + 18751461 * 2 ^ 64 + 30949 * 2 ^ 96 + 16986 * 2 ^ 112) =
      (⟨1#2, 0#1, 6#3⟩, some (.millBc ⟨3#2, 52#6, 8#5, 7#5, 17#5, 16#5, 12#5, 0#1, 1#2, 3237#12, 18751461#26, 30949#16,
        16986#16⟩)) := by
  decide +kernel

theorem test_word_vote :
    decodeCmd (0x33 + 1 * 2 ^ 8 + 1 * 2 ^ 10 + 6 * 2 ^ 11) =
      (⟨1#2, 1#1, 6#3⟩, some (.vote)) := by
  decide +kernel

/-! Concrete states. Each theorem below shows that the hypotheses of one part of a statement hold together somewhere. -/

/-- READY, booted, the PCIe link up, with other objects set besides. -/
def rdyWith (objs : List (Nat × Nat)) : State :=
  { objs := [(okey 0x2060 1, 7), (okey 0x2060 2, 1)] ++ objs, up := true, board := { pcieUp := true, rstLow := false } }

def rdy : State := rdyWith []

/-- A stream k of cell 5 in a ready device. -/
def withStrm (k : Nat) (y : Stream) : State := { rdy with cells := [(5, { streams := [(k, y)] })] }

theorem test_hyp_Reaches :
    Reaches rdy .carter ∧ Reaches rdy (.host false .good) ∧
    Reaches { rdyWith [(okey 0x2041 1, 1)] with ide := [(0, { secure := true })] } (.host true .good) := by
  refine ⟨⟨by decide +kernel, trivial⟩, ⟨by decide +kernel, rfl, ?_⟩, ⟨by decide +kernel, rfl, ?_⟩⟩ <;>
    exact ⟨by decide +kernel, by decide +kernel, by decide +kernel⟩

theorem test_hyp_HostOk : HostOk rdy false ∧ HostOk rdy true :=
  ⟨⟨by decide +kernel, by decide +kernel, by decide +kernel⟩, ⟨by decide +kernel, by decide +kernel, by decide +kernel⟩⟩

/-- A stream stopped by a fault. -/
def haltedStrm : Stream := { mode := .halted, cause := 1 }

theorem test_hyp_RingAndLogRegisters :
    let x : Stream := { tail := 3 }
    ringFree rdy 5 2 = true ∧ (strmState rdy 5 2 = 0 ∧ (getStrm rdy 5 2).head = (getStrm rdy 5 2).tail ∧
      (getStrm rdy 5 2).head = retainOf rdy (getStrm rdy 5 2)) ∧ ringFree (withStrm 2 haltedStrm) 5 2 = true ∧
    haltedStrm.fly = [] ∧ ringFree (withStrm 2 x) 5 2 = false ∧ x.head ≠ x.tail ∧
    (8 ≤ (8#64).toNat % 32 ∧ (20#64).toNat % 32 ≤ 20) ∧ ¬ (8 ≤ (7#64).toNat % 32 ∧ (7#64).toNat % 32 ≤ 20) ∧
    ¬ (8 ≤ (21#64).toNat % 32 ∧ (21#64).toNat % 32 ≤ 20) ∧
    strmState (withStrm 2 haltedStrm) 5 2 = 4 ∧ strmState (withStrm 2 { mode := .aborted }) 5 2 = 5 ∧
    ¬ (strmState rdy 5 2 = 4 ∨ strmState rdy 5 2 = 5) ∧ ¬ (strmState (withStrm 2 x) 5 2 = 4 ∨ strmState (withStrm 2 x) 5 2 = 5) := by
  decide +kernel

/-- TAIL 3 of a ring of 256: 3 may stay, 5 moves it, 2 does not. -/
theorem test_hyp_DoorbellMovesTail :
    let x : Stream := { tail := 3, head := 3, queue := [{ pos := 0, hdr := ⟨0#2, 0#1, 0#3⟩, op := some .nop }] }
    let s := withStrm 1 x
    let r := retainOf s x % 256
    isReady s = true ∧ (x.tail + 256 - r) % 256 ≤ (3 + 256 - r) % 256 ∧ (x.tail + 256 - r) % 256 ≤ (5 + 256 - r) % 256 ∧
    x.mode = .live ∧ x.head < 256 ∧ x.queue.length + x.win.length + (5 + 256 - 3) % 256 ≤ 512 ∧
    ¬ (x.tail + 256 - r) % 256 ≤ (2 + 256 - r) % 256 := by decide +kernel

theorem test_hyp_CellConfiguration :
    let s : State := { rdy with cells := [(5, { hoppers := [(4, { pushN := 1, places := [(0, .reserved)] })]
                                                vt := [(1, { en := true }), (2, { en := true, ref1 := 1 })] })] }
    hopIdle s 5 3 = true ∧ hopIdle s 5 4 = false ∧
    (BitVec.ofNat 64 (191 * 2 ^ 16)).toNat / 2 ^ 16 % 256 ≤ 191 ∧ 191 < (BitVec.ofNat 64 (192 * 2 ^ 16)).toNat / 2 ^ 16 % 256 ∧
    (getVt s 5 1).en = true ∧ (getVt s 5 1).ref0 = 0 ∧ (getVt s 5 1).ref1 = 0 ∧ (getVt s 5 1).held0 = [] ∧ (getVt s 5 1).held1 = [] ∧
    (getVt s 5 2).en = true ∧ (getVt s 5 2).ref1 ≠ 0 ∧ (getVt s 5 0).en = false := by decide +kernel

theorem test_hyp_WindowAndBar2_window :
    let top (b : Nat) : Nat := (BitVec.ofNat 64 b).toNat / 2 ^ 30 % 2 ^ 18 * 2 ^ 30
    let n := 2 ^ rdy.host.winLog
    (top 0 % n = 0 ∧ top 0 + n ≤ hbmEnd) ∧
    (top (1536 * 2 ^ 30) % n = 0 ∧ ¬ (top (1536 * 2 ^ 30) + n ≤ hbmEnd ∨
      (larderBase ≤ top (1536 * 2 ^ 30) ∧ top (1536 * 2 ^ 30) + n ≤ larderBase + 12 * 0x10000000))) ∧
    ¬ top (2 ^ 30) % n = 0 ∧
    (let m := 2 ^ 30
     larderBase % m = 0 ∧ larderBase ≤ top larderBase ∧ top larderBase + m ≤ larderBase + 12 * 0x10000000) := by decide +kernel

theorem test_hyp_WindowAndBar2_read :
    let s : State := { rdy with poison := [2] }
    isReady s = true ∧ s.pendW = [] ∧ 0x40 + 32 ≤ 2 ^ s.host.winLog ∧ 2 ^ s.host.winLog - 8 + 8 ≤ 2 ^ s.host.winLog ∧
    firstPoison s (s.host.winBase + (2 ^ s.host.winLog - 8)) 8 = none ∧ firstPoison s (s.host.winBase + 0x40) 32 = some 0x40 := by
  decide +kernel

/-- Memory takes a write of the window; a place with no memory, a place in the journal and a bank with a step unsealed do not. -/
theorem test_hyp_WindowAndBar2_write :
    let s : State := rdy
    let j : State := { rdyWith [(okey 0x5402 1, 0x100000), (okey 0x5402 2, 1)] with hasJournal := true }
    let b : State := { rdy with steps := [{ num := 1 }] }
    Memory.wf s.mem = true ∧ inputSpan s (s.host.winBase + 0x100) 4 = none ∧ mustPend s 0x100 4 = false ∧ memOk s 0x100 4 = true ∧ inJournal s 0x100 4 = false ∧
    inMirror s 0x100 4 = false ∧ inBank s 0x100 4 = false ∧ unsealed s = false ∧ memOk s (hbmEnd - 2) 4 = false ∧
    unsealed b = true ∧ isReady j = true := by decide +kernel

theorem test_hyp_UnmappedAndNotReady :
    barMapped rdy 0 0x10 8 = true ∧ barMapped rdy 0 0x14 4 = true ∧ barMapped rdy 0 0x1900000 8 = false ∧ barMapped rdy 2 (2 ^ 34 - 4) 8 = false ∧ barMapped rdy 4 0x1000 8 = false ∧
    isReady rdy = true ∧ (0x1800000 ≤ 0x1800000 ∧ 0x1800000 < 0x1820000 ∧ 0x1800000 % 8 = 0) ∧
    (0x181FFF8 < 0x1820000 ∧ 0x181FFF8 % 8 = 0) ∧ isReady State.reset = false ∧ rdy.board.pcieUp = true := by decide +kernel

theorem test_hyp_VectorsAndConfig :
    let s : State := { rdy with msixEn := true, msixPend := [2047] }
    msixHold s = false ∧ s.msixPend = [2047] ∧ 30 ≤ 30 ∧ 30 ≤ 36 ∧ 36 ≤ 36 := by decide +kernel

/-- A job starts at step 1 and keeps a journal of two entries. -/
def jobObjs : List (Nat × Nat) := [(okey 0x5401 1, 1), (okey 0x5401 2, 77), (okey 0x5402 1, 0x40000000), (okey 0x5402 2, 2)]

def jobWith (objs : List (Nat × Nat)) : State := { rdyWith (jobObjs ++ objs) with hasJournal := true, ldg := { postStep := 1 } }

theorem test_hyp_PostAcceptedOrRefused :
    (BitVec.ofNat 64 (2 ^ 63 + 0x200000)).toNat / 2 ^ 63 = 1 ∧ postCheck (jobWith []) 1 0x200000 = 0 ∧
    postCheck (jobWith []) 1 0x200001 = 3 ∧ postCheck (jobWith []) 2 0 = 1 ∧ postCheck rdy 0 0 = 6 ∧
    isReady (jobWith []) = true := by decide +kernel

/-- A register write reaches a stream whose ring may be set, with the three actions of STRM_CTL clear. -/
theorem test_hyp_RegisterWrites :
    Reaches (withStrm 2 haltedStrm) .carter ∧ Reaches (withStrm 2 haltedStrm) (.host false .good) ∧
      (BitVec.ofNat 64 0x12345601 : BitVec 64).toNat / 2 % 8 = 0 :=
  ⟨⟨by decide +kernel, trivial⟩, ⟨by decide +kernel, rfl, by decide +kernel, by decide +kernel, by decide +kernel⟩, by decide +kernel⟩

theorem test_hyp_StreamControl :
    (getStrm (withStrm 2 haltedStrm) 5 2).mode = .halted ∧ (getStrm (withStrm 2 { mode := .aborted }) 5 2).mode = .aborted ∧
    (getStrm rdy 5 2).mode = .live ∧ (getStrm rdy 5 2).fly = [] ∧ ∀ l, (getLoom rdy 5 l).run = none :=
  ⟨by decide +kernel, by decide +kernel, by decide +kernel, by decide +kernel, fun _ => rfl⟩
/-! The dictionary. -/

/-- A ready device whose dictionary endpoints are all up. -/
def epsUp : Tab Endpoint := [(0, { up := true }), (1, { up := true }), (2, { up := true }), (3, { up := true })]

def srv : State := { rdy with eps := epsUp }

def dreq (idx sub : Nat) (data : List Byte := []) (off : Nat := 0) : DReq :=
  { tag := 9, idx := idx, sub := sub, off := off, len := data.length, data := data }

theorem test_hyp_EpServes : (List.range 4).all (fun e => decide ((getEp srv e).up = true ∧ srv.lock.running = none)) = true := by
  decide +kernel

theorem test_hyp_DictionaryWindowAndRestart :
    (getEp srv 1).up = true ∧ srv.lock.running = none ∧ srv.lock.waits = [] ∧ serving srv = true := by decide +kernel

theorem test_hyp_DictionaryReads :
    reqBad 0x01 (dreq 0x2060 1) = false ∧
    (objDesc 0x2060 1).any (fun o => o.acc != .wo && !(o.acc == .g && o.ty == .dom) && o.ty != .dom && o.ty != .str) = true ∧
    (objDesc 0x2040 6).any (fun o => o.kind == 2 && o.ty != .dom) = true ∧
    objRead { srv with objs := tset srv.objs (okey 0x2040 6) 0xFFFFFFFF } 0x2040 6 = 0xFFFFFFFF ∧
    objDesc 0x7000 0 = none ∧ reqBad 0x01 (dreq 0x7000 0) = false ∧
    reqBad 0x03 (dreq 0x2060 1) = false ∧ (objDesc 0x2060 1).isSome = true ∧ reqBad 0x04 (dreq 0xFFFF 0xFF) = false := by decide +kernel

theorem test_hyp_DictionaryWrites :
    (let d := dreq 0x5000 4 [16#8]
     reqBad 0x02 d = false ∧ writeCheck srv d.idx d.sub d.data = 0 ∧ ownerCheck srv d.idx d.sub (leNat d.data) = 0 ∧
       isRwp d.idx d.sub = false ∧ d.idx ∉ [0x1011, 0x2062, 0x5800] ∧ ¬ (0x4800 ≤ d.idx ∧ d.idx < 0x4B00)) ∧
    (let d := dreq 0x5000 1 (natLe 900 2)
     reqBad 0x02 d = false ∧ writeCheck srv d.idx d.sub d.data = 0 ∧ ownerCheck srv d.idx d.sub (leNat d.data) = 0 ∧
       isRwp d.idx d.sub = true) ∧
    writeCheck srv 0x5000 4 [17#8] ≠ 0 := by decide +kernel

/-- A ready device with an open write and an open read transfer of endpoint 0. -/
def xfer : State :=
  { srv with eps := tset epsUp 0 { up := true, xw := some (okey 0x1F00 5, 200, [1#8, 2#8]), xr := some (okey 0x2041 0, [3#8, 4#8]) } }

theorem test_hyp_Transfers_start :
    (let d := dreq 0x1F00 5 (natLe 32 4)
     reqBad 0x10 d = false ∧ (objDesc d.idx d.sub).any (fun o => o.acc != .const && o.acc != .ro && (o.ty == .dom || o.acc == .g) &&
       decide (0 < leNat d.data ∧ leNat d.data ≤ xferMax d.idx d.sub o.acc)) = true ∧ okey d.idx d.sub ≠ okey 0x6030 1) ∧
    (let d := dreq 0x2031 1 (natLe (128 + 65536 + 64) 4)
     reqBad 0x10 d = false ∧ (objDesc d.idx d.sub).any (fun o => (o.ty == .dom || o.acc == .g) && decide (leNat d.data ≤ xferMax d.idx d.sub o.acc)) = true) ∧
    (List.range 4).all (fun e => (getEp srv e).xw.isNone) = true := by decide +kernel

theorem test_hyp_Transfers_segment :
    let d := dreq 0x1F00 5 [9#8, 9#8] 2
    reqBad 0x11 d = false ∧ (getEp xfer 0).xw = some (okey d.idx d.sub, 200, [1#8, 2#8]) ∧ d.off = 2 ∧ d.off + d.len < 200 ∧
    (getEp xfer 0).up = true ∧ xfer.lock.running = none := by decide +kernel

theorem test_hyp_Transfers_read :
    reqBad 0x13 (dreq 0x6000 1) = false ∧
    (objDesc 0x6000 1).any (fun o => o.ty == .dom && o.acc != .wo && o.acc != .g) = true ∧
    (let d := dreq 0x2041 0 (natLe 2 4)
     reqBad 0x14 d = false ∧ (getEp xfer 0).xr = some (okey d.idx d.sub, [3#8, 4#8]) ∧ 0 < leNat d.data ∧ leNat d.data ≤ 1024 ∧
       d.off + leNat d.data ≤ 2) ∧
    reqBad 0x1F (dreq 0x1F00 5) = false := by decide +kernel

theorem test_hyp_EventReading :
    (let d := dreq 0 0 (natLe 0x7FF 2 ++ natLe 0x0A22 2)
     reqBad 0x20 d = false ∧ leNat (d.data.take 2) < 2 ^ 11) ∧
    reqBad 0x21 (dreq 0 0 [1#8]) = false ∧ 1 ≤ leNat [1#8] ∧ leNat [16#8] ≤ 16 ∧
    reqBad 0x22 (dreq 0 0 (natLe 5 8)) = false ∧
    (∀ r ∈ srv.evLog, r.seq ≤ newestSeq srv) ∧ newestSeq srv ≤ leNat (natLe 5 8) ∧
    isSafe { srv with board := { srv.board with safe := true } } = true := by decide +kernel

/-! Signed requests. The signatures were made with the key 7; that the model's ECDSA takes a signature of RFC 6979 is shown first. -/

set_option maxRecDepth 100000

/-- SHA-256 of "abc" (FIPS 180-4). -/
theorem test_sha256 :
    sha256 (ascii "abc") = natBe 0xba7816bf8f01cfea414140de5dae2223b00361a396177a9cb410ff61f20015ad 32 := by decide +kernel

/-- RFC 6979, A.2.5: P-256, SHA-256, message "sample". -/
theorem test_ecdsa :
    ecdsaOk (natBe 0x60FED4BA255A9D31C961EB74C6356D68C049B8923B61FA6CE669622E60F29FB6 32 ++
        natBe 0x7903FE1008B8BC99A41AE9E95628BC64F2F1B20C2D7E9F5177A3C294D4462299 32) (ascii "sample")
      (natBe 0xEFD48B2AACB6A8FD1140DD9CD45E81D69D2C877B56AAF991C34D0EA84EAF3716 32 ++
        natBe 0xF7CB1C942D657C41D436C7A1B6E29F65F3E900DBB9AFF4064DC4AB2F843ACDA8 32) = true := by decide +kernel

/-- The public key of the private key 7. -/
def key7 : List Byte :=
  natBe 64375483017717711348634889601793836329966447963510648681625681211348943876771 32 ++
    natBe 52431391916983504423217627849020916729601969409053901192561322805962577543348 32

/-- A signed request (Table 14-7) for every device, made with key 7; z is its signature's second half. -/
def signedReq (idx sub job seq : Nat) (payload : List Byte) (z : Nat) : List Byte :=
  natLe 0x51534C52 4 ++ natLe 1 2 ++ zeros 2 ++ natLe idx 2 ++ natLe sub 1 ++ zeros 1 ++ natLe payload.length 4 ++ natLe job 8 ++
    natLe seq 8 ++ zeros 32 ++ natBe 15479242834151348963638374498440435506062508823943564308770880819136539776144 32 ++ zeros 32 ++ payload ++
    natBe 93611846365601674425599200647886473617443872040541410036779615417472400060991 32 ++ natBe z 32

/-- A ready device of job 6, registered with that key; its role is given. -/
def owned (role : Nat) : State :=
  { rdyWith [(okey 0x5801 1, 6), (okey 0x5800 1, role)] with eps := epsUp, lock := { jok := some (key7) } }

/-- What a request without TARGET passes under the job key of key 7. -/
def reqGood (s : State) (idx sub : Nat) (b : List Byte) : Bool :=
  let len := fieldLe b 12 4
  let i := fieldLe b 8 2
  let j := fieldLe b 10 1
  !(b.length < 128 || fieldLe b 0 4 != 0x51534C52 || fieldLe b 4 2 != 1 || !zeroIn b 6 2 || !zeroIn b 11 1 || !zeroIn b 96 32 ||
    b.length != 192 + len || !reqLenOk i j len) && s.lock.jok == some (key7) && lslice b 64 32 == sha256 (key7) &&
  fieldLe b 16 8 == oget s 0x5801 1 && zeroIn b 32 32 && (guardedDesc i j).isSome && i == idx && j == sub &&
  ecdsaOk (key7) (b.take (128 + len)) (lslice b (128 + len) 64) && s.lock.lastReq == []

theorem reqCheck_of_good {s : State} {idx sub : Nat} {b : List Byte} (h : reqGood s idx sub b = true) : reqCheck s idx sub b = 0 := by
  simp only [reqGood, Bool.and_eq_true, Bool.not_eq_true', beq_iff_eq] at h
  obtain ⟨⟨⟨⟨⟨⟨⟨⟨⟨h1, h2⟩, h3⟩, h4⟩, h5⟩, h6⟩, h7⟩, h8⟩, h9⟩, h10⟩ := h
  subst h7 h8
  have h6' : (guardedDesc (fieldLe b 8 2) (fieldLe b 10 1)).isNone = false := by
    cases hg : guardedDesc (fieldLe b 8 2) (fieldLe b 10 1) <;> simp_all
  unfold reqCheck
  simp only [h1, h2, h3, h4, h5, h6', h9, h10]
  simp

theorem test_hyp_SignedRequestsRefused :
    reqCheck (owned 1) 0x2031 1 [] ≠ 0 ∧ reqCheck (owned 1) 0x5820 1 [] ≠ 0 ∧ isJobStart (0x5401#16).toNat (4#8).toNat = true ∧
    isJobStart (0x5401#16).toNat (1#8).toNat = true ∧ (List.range 8).all (fun k => orderKind (zeros 130 ++ [BitVec.ofNat 8 k]) == k) = true ∧
    (getEp (owned 1) 3).up = true ∧ (owned 1).lock.running = none := by decide +kernel

def startReq : List Byte := signedReq 0x5401 1 6 1 (natLe (2 ^ 64 - 2) 8)
      6504666708261985728342919940261384971787650627241589590183009905763827549395

theorem startReq_good : reqGood (owned 1) 0x5401 1 startReq = true := by decide +kernel

theorem test_hyp_SignedRequestsTaken_start :
    GoodRequest (owned 1) 0x5401 1 startReq ∧ (owned 1).steps = [] ∧ (getJr (owned 1) 0).estate = 0 ∧ (getJr (owned 1) 1).estate = 0 ∧
      leNat (signedPayload startReq) < 2 ^ 64 - 1 :=
  ⟨⟨reqCheck_of_good startReq_good, nofun⟩, rfl, rfl, rfl, by decide +kernel⟩

/-- The same request with a step unsealed. -/
theorem test_hyp_SignedRequestsTaken_busy :
    let s : State := { owned 1 with steps := [{ num := 1 }] }
    GoodRequest s 0x5401 1 startReq ∧ s.steps ≠ [] :=
  ⟨⟨reqCheck_of_good startReq_good, nofun⟩, nofun⟩

theorem test_hyp_SignedRequestsTaken_release : GoodRequest (owned 1) 0x6010 2 (signedReq 0x6010 2 6 1 []
      68641243922796986544004185825800192216506122720894275212706733262492440667915) :=
  ⟨reqCheck_of_good (by decide +kernel), by decide +kernel⟩

theorem test_hyp_SignedRequestsTaken_retire :
    let b := signedReq 0x2062 7 6 1 [1#8]
      35454649600688367857597129252115425309028218000335107937379270744325116261804
    GoodRequest (owned 2) 0x2062 7 b ∧ leNat (signedPayload b) = 1 ∧ 2 ≤ oget (owned 2) 0x5800 1 :=
  ⟨⟨reqCheck_of_good (by decide +kernel), by decide +kernel⟩, by decide +kernel⟩

theorem test_hyp_SignedRequestsTaken_plan :
    let b := signedReq 0x2031 1 6 1 (zeros 64)
      26684986777470291452064390451112863591730614421307537094248944295680511085425
    GoodRequest (owned 1) 0x2031 1 b ∧ planCheck (owned 1) (signedPayload b) ≠ 0 ∧ isReady (owned 1) = true :=
  ⟨⟨reqCheck_of_good (by decide +kernel), by decide +kernel⟩, by decide +kernel⟩

/-- What an order, a registration, a token or an image must pass rests on the device's own identity and fuses, constants without a
value; what can be shown is that a refused one is refused. -/
theorem test_hyp_KeysTokensAndImages :
    patchBusy srv = false ∧
    regCheck srv [] ≠ 0 ∧ isReady State.reset = false ∧ tokenCheck srv [] ≠ 0 ∧ imageCheck srv [] ≠ 0 ∧ srv.lock.jok = none ∧
    (0#8).toNat < 2 ∧ (1#8).toNat < 2 ∧ activeSlot srv ≠ 0 ∧ activeSlot srv ≠ 1 ∧ srv.steps = [] ∧
    ({ srv with steps := [{ num := 1 }] } : State).steps ≠ [] := by decide +kernel

/-- Slot B holds an image whose SVN is the floor's. -/
theorem test_hyp_KeysTokensAndImages_activate :
    let s : State := { srv with lock := { slots := [(1, { state := 2, svn := Config.fusedSvn.val })] } }
    mayActivate s (1#8).toNat = true := by
  simp [mayActivate, getSlot, tget, svnFloor]

/-- A bulk endpoint table without an entry. -/
theorem test_hyp_KeysTokensAndImages_table : (epTableWrite srv (zeros 4096)).2 = 0 := by
  have h : ∀ i ∈ List.range 64, lslice (zeros 4096) (64 * i) 64 = zeros 64 := by
    intro i hi
    have := List.mem_range.mp hi
    simp only [lslice, zeros, List.drop_replicate, List.take_replicate]
    congr 1
    omega
  have e : epEntries (zeros 4096) = List.replicate 64 (zeros 64) := by
    have : (zeros 4096).length / 64 = 64 := by simp [zeros]
    rw [epEntries, this, List.map_congr_left h]
    decide +kernel
  have l : ((zeros 4096).length != 4096) = false := by simp [zeros]
  have u : (List.range 64).any (fun i => epInUse srv i && epEntry srv i != lslice (zeros 4096) (64 * i) 64) = false := by
    simp [epInUse, srv, rdy, rdyWith]
  have q : (List.replicate 64 (zeros 64)).any (fun e => epEntryBad e false) = false ∧ epTwice (List.replicate 64 (zeros 64)) = false ∧
      unsealed srv = false := by decide +kernel
  unfold epTableWrite
  dsimp only
  rw [l, e, u, q.1, q.2.1, q.2.2]
  rfl
/-! Stream commands. `ok` says in one decidable proposition what `Issues` says. -/

abbrev Free (s : State) (c k : Nat) : Prop :=
  (getStrm s c k).broken = none ∧ (getStrm s c k).mode = .live ∧ (getStrm s c k).queue = [] ∧ (getStrm s c k).nxt = 0 ∧
    (getStrm s c k).loops = [] ∧ (getStrm s c k).skip = 0 ∧ (getStrm s c k).win = [] ∧ (getStrm s c k).fly = [] ∧
    (getStrm s c k).loads = [] ∧ (getCell s c).paused = false ∧ markOut s c k = false

theorem free_of {s : State} {c k : Nat} (h : Free s c k) : StreamFree s c k := by
  obtain ⟨h1, h2, h3, h4, h5, h6, h7, h8, h9, h10, h11⟩ := h
  exact ⟨h1, h2, h3, h4, h5, h6, h7, h8, h9, h10, h11⟩

abbrev Goes (s : State) (c k : Nat) (h : Hdr) : Prop :=
  gateBad h.gate = false ∧ gateDrops (getStrm s c k) h.gate = false ∧ (h.crit = 1#1 ∨ (s.alm.late = false ∧ cellWeather s c < 2))

abbrev Ok (s : State) (c k : Nat) (h : Hdr) (op : Op) : Prop :=
  isReady s = true ∧ Free s c k ∧ Goes s c k h ∧ issueBad s k (getStrm s c k) (headCmd s c k h op) op = false ∧
    (opAcc s op).any (fun a => !accOwned s c k a) = false ∧ s.wtq = [] ∧ rivals regRead s c k = []

theorem issues_of {s : State} {c k : Nat} {h : Hdr} {op : Op} (x : Ok s c k h op) : Issues s c k h op :=
  ⟨x.1, free_of x.2.1, ⟨x.2.2.1.1, x.2.2.1.2.1, x.2.2.1.2.2⟩, x.2.2.2.1, x.2.2.2.2.1, x.2.2.2.2.2.1, x.2.2.2.2.2.2⟩

/-- The command is launched and what it enters the pipeline with satisfies p. -/
theorem launched_of {s : State} {c k : Nat} {h : Hdr} {op : Op} {p : State → Fly → Bool}
    (x : (launched s c k h op).any (fun q => p q.1 q.2) = true) : ∃ u f, launched s c k h op = some (u, f) ∧ p u f = true := by
  cases e : launched s c k h op with
  | none => rw [e] at x; cases x
  | some q => rw [e] at x; exact ⟨q.1, q.2, rfl, x⟩

/-- A header without a gate. -/
def hd : Hdr := ⟨0#2, 0#1, 0#3⟩

theorem test_hyp_ImmediateCommands :
    Issues rdy 5 2 hd .nop ∧ Issues rdy 63 3 hd (.setlen 255#8 63#6) ∧ Issues rdy 0 0 hd (.setlen 0#8 0#6) ∧
    Issues rdy 5 1 hd (.cmp ⟨3#2, 1#1, 7#3, 3#2, 1#1, 7#3, 0#1, 0#32, 0#8⟩) ∧
    Issues rdy 5 1 hd (.cmp ⟨0#2, 0#1, 0#3, 0#2, 0#1, 0#3, 0#1, 0#32, 0#8⟩) ∧
    Issues rdy 5 1 hd (.loop ⟨0#1, 0#3, 0#3, 0#1, 254#8, 0#32⟩) ∧ Issues rdy 5 1 hd (.loop ⟨0#1, 0#3, 7#3, 1#1, 0#8, 3#32⟩) := by
  refine ⟨?_, ?_, ?_, ?_, ?_, ?_, ?_⟩ <;> exact issues_of (by decide +kernel)

/-- A gate whose comparator does not hold lets a command go, in Gale too when it is critical. -/
theorem test_hyp_HeaderGoes_critical : HeaderGoes { rdy with alm := { late := true } } 5 2 ⟨0#2, 1#1, 4#3⟩ :=
  ⟨by decide +kernel, by decide +kernel, by decide +kernel⟩

theorem test_hyp_Counters :
    Issues rdy 5 1 hd (.cnt ⟨7#3, 0#3, 0#3, 5#32, 0#48⟩) ∧ Issues rdy 5 1 hd (.cnt ⟨7#3, 1#3, 0#3, 5#32, 0#48⟩) ∧
    Issues rdy 5 1 hd (.cnt ⟨7#3, 2#3, 6#3, 0#32, 0#48⟩) ∧ Issues rdy 5 1 hd (.cnt ⟨7#3, 3#3, 0#3, 0#32, 0x1000#48⟩) ∧
    Issues rdy 5 1 hd (.cnt ⟨7#3, 4#3, 0#3, 0#32, 0x1004#48⟩) := by
  refine ⟨?_, ?_, ?_, ?_, ?_⟩ <;> exact issues_of (by decide +kernel)

theorem test_hyp_Counters_load :
    inRegs 0x1000 = false ∧ memOk rdy 0x1000 4 = true ∧ fenceOf rdy 0 [(0x1000, 4)] [] = .ok ∧ firstPoison rdy 0x1000 4 = none ∧
    inRegs 0x1004 = false ∧ memOk rdy 0x1004 2 = true ∧ fenceOf rdy 0 [(0x1004, 2)] [] = .ok ∧ firstPoison rdy 0x1004 2 = none ∧
    (let y : Stream := { loads := [(7, 9#32)], fly := [{ id := 0, pos := 0, hdr := hd, op := .cnt ⟨7#3, 3#3, 0#3, 0#32, 0x1000#48⟩ }] }
     isReady (withStrm 1 y) = true ∧ (getStrm (withStrm 1 y) 5 1).mode = .live ∧ (getStrm (withStrm 1 y) 5 1).loads = [(7, 9#32)]) := by
  decide +kernel

def wait5 : FlagOp := ⟨0#1, 0#1, 5#8, 0#3, 0#1, 3#32⟩

/-- The cell's flag 5 has the value v. -/
def flag5 (v : Word) : State := setFlag rdy 5 false 5 0 v

theorem test_hyp_FlagsAndWaits :
    Issues rdy 5 1 hd (.flag ⟨0#1, 1#1, 255#8, 0#3, 0#1, 1#32⟩) ∧ Issues rdy 5 1 hd (.flag ⟨1#1, 0#1, 63#8, 7#3, 1#1, 0#32⟩) ∧
    Issues (flag5 3#32) 5 1 hd (.wait wait5) ∧ Issues (flag5 2#32) 5 1 hd (.wait wait5) ∧
    (flagValue (getStrm (flag5 3#32) 5 1) wait5).toNat ≤ (getFlag (flag5 3#32) 5 false 5 0).toNat ∧
    (getFlag (flag5 2#32) 5 false 5 0).toNat < (flagValue (getStrm (flag5 2#32) 5 1) wait5).toNat := by
  refine ⟨?_, ?_, ?_, ?_, ?_⟩
  iterate 4 exact issues_of (by decide +kernel)
  decide +kernel

/-- A WAIT for flag 5 at the front of its stream's queue, and behind it a FLAG that would set it. -/
def waiting : State :=
  withStrm 1 { queue := [{ pos := 2, hdr := hd, op := some (.wait wait5) },
                         { pos := 3, hdr := hd, op := some (.flag ⟨0#1, 0#1, 5#8, 0#3, 0#1, 3#32⟩) }], head := 4, tail := 4 }

theorem test_hyp_FlagsAndWaits_timeout :
    let y := getStrm waiting 5 1
    isReady waiting = true ∧ (getCell waiting 5).paused = false ∧ y.mode = .live ∧ y.nxt = 0 ∧ y.loops = [] ∧ y.skip = 0 ∧ y.win = [] ∧
      y.fly = [] ∧ y.loads = [] ∧ y.queue.length = 2 ∧ gateDrops y hd.gate = false ∧
      issueBad waiting 1 y { pos := 2, hdr := hd, op := some (.wait wait5) } (.wait wait5) = false ∧
      (getFlag waiting 5 false 5 0).toNat < (flagValue y wait5).toNat ∧ isOne wait5.scope = false ∧ wait5.flag.toNat < 224 := by
  decide +kernel

/-- The same with every other stream of the device stopped. -/
def alone : State :=
  { waiting with cells := (List.range 64).map (fun d => (d, ({ streams := (List.range 4).map (fun j =>
      (j, if d = 5 ∧ j = 1 then getStrm waiting 5 1 else haltedStrm)) } : Cell))) }

theorem test_hyp_FlagsAndWaits_deadlock :
    (∀ d < 64, ∀ j < 4, (d, j) ≠ (5, 1) → (getStrm alone d j).mode ≠ .live ∧ (getStrm alone d j).queue = []) ∧
    getStrm alone 5 1 = getStrm waiting 5 1 := by decide +kernel
/-! Commands of the pipeline. -/

/-- A descriptor: ADDR, PITCH, FMT, LAY. -/
def mkD (addr pitch fmt : Nat) (lay : Nat := 0) : Desc := BitVec.ofNat 512 (addr + pitch * 2 ^ 64 + fmt * 2 ^ 84 + lay * 2 ^ 89)

/-- A hopper of stream k that holds one ready descriptor. -/
def hop1 (k : Nat) (d : Desc) : Hopper := { prod := k, cons := k, en := true, pushN := 1, places := [(0, .ready d)] }

/-- Cell 5 of a ready device: stream k as y, hoppers with one descriptor each, and what else the cell holds. -/
def cellWith (k : Nat) (y : Stream) (ds : List (Nat × Desc)) (x : Cell := {}) : State :=
  { rdy with cells := [(5, { x with streams := [(k, y)], hoppers := ds.map (fun p => (p.1, hop1 k p.2)) })] }

/-- Streams with nothing in flight hold no lathe command. -/
theorem latheFree_of {s : State} {c k : Nat} (h : ∀ q < 4, (getStrm s c q).fly = []) : LatheFree s c k := by
  intro q hq _ g hg
  rw [h q hq] at hg
  cases hg

/-- A small rectangle: two rows of 32. -/
def small : Stream := { vl := 32, rl := 2 }

def benchD (off pitch fmt : Nat) (lay : Nat := 0) : Desc := mkD (benchAddr 5 off) pitch fmt lay

theorem test_hyp_DescriptorPush :
    let s : State := { cellWith 1 {} [] with cells := [(5, { hoppers := [(3, { prod := 1, en := true })], dtab := 191 })] }
    let f : HpushOp := ⟨1023#10, 3#5, 0#3, 0#1, 0#5, 0#16⟩
    Issues s 5 1 hd (.hpush f) ∧ (getHop s 5 3).pushN < 8 ∧ (getHop s 5 3).discard = [] ∧
      firstPoison s (benchAddr 5 (0x10000 * 191 + 64 * 1023)) 64 = none ∧
      descBad (BitVec.ofNat 512 (memLe s (benchAddr 5 (0x10000 * 191 + 64 * 1023)) 64)) = false ∧ descBad (mkD 0 0 31) = true := by
  refine ⟨issues_of ?_, ?_⟩ <;> decide +kernel

/-- With all eight places in use, the one whose place is taken has been popped. -/
theorem test_hyp_DescriptorPush_full : popped { pushN := 8, popN := 1, low := 1 } (8 - 8) = true := by decide +kernel

/-- Step 1 is open, and step 2 has not opened. -/
def open1 : StepSt := { num := 1 }

theorem test_hyp_StepMarksAndVotes_mark :
    let s : State := { rdy with steps := [open1] }
    let y : Stream := { step := 2, entered := true }
    Issues s 5 2 hd (.stepmark 1#32) ∧ markCheck s (getStrm s 5 2) 1 = .pass open1.num ∧ Issues s 5 2 hd (.stepmark 2#32) ∧
      markCheck s (getStrm s 5 2) 2 = .wait ∧ Issues (withStrm 2 y) 5 2 hd (.stepmark 1#32) ∧ markCheck (withStrm 2 y) y 1 = .stale := by
  refine ⟨issues_of ?_, ?_, issues_of ?_, ?_, issues_of ?_, ?_⟩ <;> decide +kernel

/-- A U stream in step 2, whose verdict is given. -/
def uStep (v : Option Bool) : State :=
  { cellWith 2 { step := 2, entered := true } [(1, mkD 0x100000 1 0), (2, mkD 0x200000 1 0)]
      { vt := [(4, { en := true, claimed := true })] } with steps := [{ num := 2, verdict := v }] }

theorem test_hyp_StepMarksAndVotes_rest :
    Issues rdy 5 1 hd (.vrel ⟨1#1, 63#6⟩) ∧ Issues rdy 5 2 hd (.udone 1#1) ∧ stepOfPar rdy 1 = none ∧
      Issues (uStep none) 5 2 hd (.udone 0#1) ∧ (stepOfPar (uStep none) 0).isSome = true ∧ Issues rdy 5 1 hd .vote ∧
      ∀ q < 4, ∀ g ∈ (getStrm rdy 5 q).fly, g.step = 0 → gradWaits rdy 5 g = false := by
  refine ⟨issues_of ?_, issues_of ?_, ?_, issues_of ?_, ?_, issues_of ?_, ?_⟩
  iterate 6 decide +kernel
  intro q _ g h
  cases h

theorem test_hyp_FaultsAtIssue :
    (∀ st : Strm, StreamFree rdy 5 (ixOf st)) ∧ HeaderGoes rdy 5 1 hd ∧ gateDrops (getStrm rdy 5 1) 4#3 = false ∧
    issueBad rdy 1 (getStrm rdy 5 1) (headCmd rdy 5 1 hd (.cnt ⟨0#3, 7#3, 0#3, 0#32, 0#48⟩)) (.cnt ⟨0#3, 7#3, 0#3, 0#32, 0#48⟩) = true ∧
    issueBad rdy 1 (getStrm rdy 5 1) (headCmd rdy 5 1 ⟨0#2, 0#1, 1#3⟩ .nop) .nop = true ∧
    (let op : Op := .ldt ⟨0#4, 0#8, 0#1, 0#2, 1#1, 3#5⟩
     issueBad rdy 1 (getStrm rdy 5 1) (headCmd rdy 5 1 hd op) op = false ∧ (opAcc rdy op).any (fun a => !accOwned rdy 5 1 a) = true) := by
  refine ⟨fun st => free_of (by cases st <;> decide +kernel), ⟨?_, ?_, ?_⟩, ?_⟩ <;> decide +kernel

/-- A gated command and a lathe command of two streams enter the pipeline. -/
theorem test_hyp_PipelineIssue :
    (Issues (uStep none) 5 2 hd (.vpub ⟨0#1, 4#6⟩) ∧ ∃ u x, launched (uStep none) 5 2 hd (.vpub ⟨0#1, 4#6⟩) = some (u, x) ∧ true = true) ∧
      (Issues rdy 5 1 hd (.zmap ⟨15#4, 0#1, 0#1, 0#8, 192#8⟩) ∧
        ∃ u x, launched rdy 5 1 hd (.zmap ⟨15#4, 0#1, 0#1, 0#8, 192#8⟩) = some (u, x) ∧ true = true) :=
  ⟨⟨issues_of (by decide +kernel), launched_of (p := fun _ _ => true) (by decide +kernel)⟩, issues_of (by decide +kernel),
    launched_of (p := fun _ _ => true) (by decide +kernel)⟩

theorem test_hyp_LatheLoads_ldt :
    let s := cellWith 1 small [(3, benchD 0xBFFF00 32 0)]
    let f : LdtOp := ⟨15#4, 0#8, 0#1, 0#2, 1#1, 3#5⟩
    LatheFree s 5 1 ∧ Issues s 5 1 hd (.ldt f) ∧ ∃ u x, launched s 5 1 hd (.ldt f) = some (u, x) ∧
      (roleDesc u 5 x .hin 0).any (fun d => !latheDescBad d 32 0 false && panelIn s 5 d (fmtBits (dFmt d)) 0 2 32 &&
        (rowsPoison s 5 d (fmtBits (dFmt d)) 0 2 32).isNone) = true :=
  ⟨latheFree_of (by decide +kernel), issues_of (by decide +kernel), launched_of (by decide +kernel)⟩

/-- TBL of the kind and index given, from hopper 3. -/
def tblOf (kind : Nat) (fmt : Nat) : TblOp := ⟨BitVec.ofNat 2 kind, if kind = 3 then 1#1 else 0#1, 0#4, 0#5, BitVec.ofNat 5 fmt, 3#5, 1#1⟩

theorem test_hyp_LatheLoads_tbl :
    let s := cellWith 1 small [(3, benchD 0x400 32 0)]
    LatheFree s 5 1 ∧ Memory.wf s.mem = true ∧ ∀ p ∈ [(0, 0), (1, 0), (1, 0x0D), (2, 0x0B), (3, 0)],
      Issues s 5 1 hd (.tbl (tblOf p.1 p.2)) ∧ ∃ u x, launched s 5 1 hd (.tbl (tblOf p.1 p.2)) = some (u, x) ∧
        (roleDesc u 5 x .hin 0).any (fun d => dLay d != 1 && isLocalAddr s (dAddr d) && inBench 5 (gLocal (dAddr d)) (tblBytes (tblOf p.1 p.2)) &&
          (firstPoison s (gLocal (dAddr d)) (tblBytes (tblOf p.1 p.2))).isNone) = true := by
  refine ⟨latheFree_of (by decide +kernel), by decide +kernel, fun p hp => ?_⟩
  simp only [List.mem_cons, List.not_mem_nil, or_false] at hp
  rcases hp with rfl | rfl | rfl | rfl | rfl <;> exact ⟨issues_of (by decide +kernel), launched_of (by decide +kernel)⟩

/-- MOV from source 0 to destination 0 (Table 6-3). -/
def movS0 : Word := BitVec.ofNat 32 (0x01 * 2 ^ 26 + 0x0C * 2 ^ 21 + 8 * 2 ^ 15)

/-- A card of one such instruction in the bench; and a codebook of 16 rising entries. -/
theorem test_hyp_LatheLoads_contents :
    let s := memWriteRaw (cellWith 1 small [(3, benchD 0x400 32 0)]) (benchAddr 5 0x400) (natLe movS0.toNat 4)
    let u := memWriteRaw (cellWith 1 small [(3, benchD 0x400 32 0)]) (benchAddr 5 0x400)
      ((List.range 16).flatMap (fun i => natLe (0x3F80 + 16 * i) 2))
    ((List.range ((0#5).toNat + 1)).map (fun j => BitVec.ofNat 32 (memLe s (benchAddr 5 0x400 + 4 * j) 4))).all ciOk = true ∧
      cbBadAt 0 ((List.range (cbLen (0x0B#5).toNat)).map (fun j => decFlt bf16 (memLe u (benchAddr 5 0x400 + 2 * j) 2))) = none := by
  decide +kernel

theorem test_hyp_LatheLoads_zmap :
    LatheFree (cellWith 1 { vl := 32, rl := 32 } []) 5 1 ∧
      Issues (cellWith 1 { vl := 32, rl := 32 } []) 5 1 hd (.zmap ⟨1#4, 1#1, 1#1, 255#8, 224#8⟩) ∧
      Issues rdy 5 1 hd (.zmap ⟨15#4, 0#1, 0#1, 0#8, 192#8⟩) :=
  ⟨latheFree_of (by decide +kernel), issues_of (by decide +kernel), issues_of (by decide +kernel)⟩

/-- A card of that instruction. -/
def cardS : State := cellWith 1 { small with step := 0 } [] { cards := [(2, { step := 0, instrs := [movS0], consts := [] })] }

def cardF : CardOp :=
  ⟨2#4, 0#1, 0#8, ⟨1#2, 3#4, 0#6⟩, ⟨0#2, 0#4, 0#6⟩, ⟨0#2, 0#4, 0#6⟩, ⟨0#2, 0#4, 0#6⟩, ⟨1#1, 4#4⟩, ⟨1#1, 5#4⟩, 0#32⟩

theorem test_hyp_LatheComputes :
    LatheFree cardS 5 1 ∧ Issues cardS 5 1 hd (.card cardF) ∧ ((cardRead cardS 5 0 2).any (fun q => q.instrs.all (fun w => !bindBad cardF w) && !cardGrad q &&
      (cardEmptyTab q (cbtRead cardS 5 0 0) (cbtRead cardS 5 0 1)).isNone)) = true ∧
    isOne cardF.d1.bound = true ∧ isOne cardF.d0.bound = true ∧ cardF.d1.reg ≠ cardF.d0.reg ∧
    Issues cardS 5 1 hd (.red ⟨0#4, 0#4, 0#3, 0#1, 0#1, 0#1, 1#4, 0#6, 0#8, 0#8, 0#24, 0#32⟩) ∧
    Issues cardS 5 1 hd (.red ⟨0#4, 0#4, 5#3, 1#1, 0#1, 0#1, 1#4, 62#6, 0#8, 254#8, 0#24, 0#32⟩) := by
  refine ⟨latheFree_of ?_, issues_of ?_, ?_, ?_, ?_, ?_, issues_of ?_, issues_of ?_⟩ <;> decide +kernel

theorem test_hyp_LatheStores :
    let s := cellWith 1 small [(3, benchD 0x400 32 0)]
    let f : SttOp := ⟨1#4, 254#8, 0#2, 0#1, 1#1, 3#5, 0#5, 0#2, 0#2, 0#1, 0#1, 0#5, 0#1, 0#32⟩
    Memory.wf s.mem = true ∧ LatheFree s 5 1 ∧ Issues s 5 1 hd (.stt f) ∧ ∃ u x, launched s 5 1 hd (.stt f) = some (u, x) ∧
      (roleDesc u 5 x .hin 0).any (fun d => dFmt d == 0 && 32 ≤ dPitch d && !sttDescBad f d 32 && panelIn s 5 d 32 254 2 32 &&
        (sttPoison s 5 d none f.mx 32 254 2 32).isNone) = true :=
  ⟨by decide +kernel, latheFree_of (by decide +kernel), issues_of (by decide +kernel), launched_of (by decide +kernel)⟩

theorem test_hyp_CarterMoves :
    let s := cellWith 1 {} [(3, mkD 0x1000 8 0), (4, mkD 0x5000 16 0)]
    let f : MoveOp := ⟨3#5, 4#5, 0#5, 0#1, 0#2, 2#20, 0#18⟩
    Memory.wf s.mem = true ∧ s.poison = [] ∧ Issues s 5 1 hd (.move f) ∧ ∃ u x, launched s 5 1 hd (.move f) = some (u, x) ∧
      (match roleDesc u 5 x .hs 0, roleDesc u 5 x .hd 0 with
       | some a, some b =>
         let rows := moveRows f a b
         let rb := moveRb f
         rows.length == 3 && rows.all (fun r => isLocalAddr s r.src && isLocalAddr s r.dst && !inRegs (gLocal r.src) && !inRegs (gLocal r.dst) &&
           memOk s (gLocal r.src) rb && memOk s (gLocal r.dst) rb) &&
         decide (fenceOf s 0 (rows.map (fun r => (gLocal r.src, rb))) (rows.map (fun r => (gLocal r.dst, rb))) = .ok) &&
         decide (rows.Pairwise (fun p q => overlaps (gLocal p.dst) rb (gLocal q.dst) rb = false)) &&
         rows.all (fun p => rows.all (fun q => !overlaps (gLocal p.dst) rb (gLocal q.src) rb))
       | _, _ => false) = true :=
  ⟨by decide +kernel, by decide +kernel, issues_of (by decide +kernel), launched_of (by decide +kernel)⟩

theorem test_hyp_SignalsAndAtomics :
    (let f : RsigOp := ⟨1#1, 1#1, 63#8, 0#6, 0#16, 5#32⟩
     Issues rdy 5 1 hd (.rsig f) ∧ f.device.toNat = ownId rdy ∧ sigCheck rdy true 63 0 0 = .apply 0) ∧
    (let f : RsigOp := ⟨0#1, 0#1, 255#8, 63#6, 0#16, 5#32⟩
     let s : State := { withStrm 1 { step := 1, entered := true } with steps := [open1] }
     Issues s 5 1 hd (.rsig f) ∧ f.device.toNat = ownId s ∧ sigCheck s false 255 63 ((getStrm s 5 1).step % 2 ^ 32) = .apply 1) ∧
    (let f : RatomOp := ⟨0xA#4, 0#5, 0#5, 0#1, BitVec.ofNat 64 (15 + 4095 * 16 + 63 * 2 ^ 17)⟩
     Issues rdy 5 1 hd (.ratom f) ∧ tfind rdy.wins (raW f.opnds.toNat) = none) := by
  refine ⟨⟨issues_of ?_, ?_⟩, ⟨issues_of ?_, ?_⟩, issues_of ?_, ?_⟩ <;> decide +kernel

/-- An unordered addition of one word to a larder word, and an ordered one at the rank of its window. -/
theorem test_hyp_SignalsAndAtomics_atomic :
    let s : State := { cellWith 1 {} [(3, mkD larderBase 1 0)] with scratch := [(0, 1)], wins := [(2, { n := 4, rank := 1, flag := 0, step := 0 })] }
    ∀ f ∈ [(⟨2#4, 3#5, 0#5, 0#1, 0#64⟩ : RatomOp), ⟨0#4, 3#5, 0#5, 0#1, BitVec.ofNat 64 (2 + 16)⟩],
      Issues s 5 1 hd (.ratom f) ∧ aopCas f.aop.toNat = false ∧ inBench 5 (ratomSpan 5 f).1 (ratomSpan 5 f).2 = true ∧
      ∃ u x, launched s 5 1 hd (.ratom f) = some (u, x) ∧ (roleDesc u 5 x .ht 0).any (fun d => isLocalAddr s (dAddr d) &&
        decide (atomCheck s (ratomReq s 5 1 f (gLocal (dAddr d))) = .go) &&
        decide (fenceOf s 0 [] [((ratomReq s 5 1 f (gLocal (dAddr d))).addr, atomLen (ratomReq s 5 1 f (gLocal (dAddr d))))] = .ok)) = true := by
  intro s f hf
  simp only [List.mem_cons, List.not_mem_nil, or_false] at hf
  rcases hf with rfl | rfl <;> exact ⟨issues_of (by decide +kernel), by decide +kernel, by decide +kernel, launched_of (by decide +kernel)⟩

theorem test_hyp_GatedCommands :
    let f : UcommitOp := ⟨1#1, 0#1, 0#2, 0#1, 0#6, 1#5, 2#5, 0#5, 0#5, 0#16, 0#32⟩
    ∀ v ∈ [some true, some false, none], Memory.wf (uStep v).mem = true ∧ (uStep v).poison = [] ∧
      Issues (uStep v) 5 2 hd (.ucommit f) ∧ (∃ u x, launched (uStep v) 5 2 hd (.ucommit f) = some (u, x) ∧
        (match roleDesc u 5 x .hba 0, roleDesc u 5 x .hbb 0 with
         | some a, some b =>
           verdictOf (uStep v) x.gstep == v && !afterUdone (uStep v) 5 2 x && isLocalAddr (uStep v) (dAddr a) && isLocalAddr (uStep v) (dAddr b) &&
             memOk (uStep v) (gLocal (dAddr a)) (ucSize f) && memOk (uStep v) (gLocal (dAddr b)) (ucSize f) &&
             decide (fenceOf (uStep v) 2 [(gLocal (dAddr a), ucSize f)] [(gLocal (dAddr b), ucSize f)] = .ok)
         | _, _ => false) = true) ∧
      Issues (uStep v) 5 2 hd (.vpub ⟨0#1, 4#6⟩) ∧ (getVt (uStep v) 5 4).claimed = true ∧
      ∃ u x, launched (uStep v) 5 2 hd (.vpub ⟨0#1, 4#6⟩) = some (u, x) ∧ (verdictOf (uStep v) x.gstep == v) = true := by
  intro f v hv
  simp only [List.mem_cons, List.not_mem_nil, or_false] at hv
  rcases hv with rfl | rfl | rfl <;> exact ⟨by decide +kernel, by decide +kernel, issues_of (by decide +kernel), launched_of (by decide +kernel),
    issues_of (by decide +kernel), by decide +kernel, launched_of (by decide +kernel)⟩

/-- A MASTER UCOMMIT of an 8 by 8 tile in either form, its copies by descriptor or in the other slot of entry 4. -/
def mastD (a t : Nat) : Desc := mkD a 8 12 ||| BitVec.ofNat 512 (t * 2 ^ 384)

def mastF (een : BitVec 1) : UcommitOp :=
  ⟨0#1, 0#1, 0#2, een, if een = 1#1 then 4#6 else 0#6, 1#5, 2#5, 3#5, 4#5, BitVec.ofNat 16 (7 + 256 * 7), 0#32⟩

def mastS (v : Option Bool) : State :=
  { cellWith 2 { step := 2, entered := true }
      [(1, mastD 0x1000 0x2000), (2, mastD 0x3000 0x4000), (3, mkD 0x5000 8 0), (4, mkD 0x6000 8 1)]
      { vt := [(4, { en := true })] } with steps := [{ num := 2, verdict := v }] }

theorem test_hyp_GatedCommands_master :
    ∀ p ∈ [(true, 0#1), (true, 1#1), (false, 0#1), (false, 1#1)],
      let s := mastS (some p.1)
      let f := mastF p.2
      Issues s 5 2 hd (.ucommit f) ∧ f.kind = 0#1 ∧ s.poison = [] ∧
      (∃ u x, launched s 5 2 hd (.ucommit f) = some (u, x) ∧
        (match roleDesc u 5 x .hba 0, roleDesc u 5 x .hbb 0, roleDesc u 5 x .hw 0, roleDesc u 5 x .hwt 0 with
         | some a, some b, some w, some wt =>
           let sp := masterSpans s 5 f p.1 a b w wt
           verdictOf s x.gstep == some p.1 && !afterUdone s 5 2 x && !masterDescBad a && !masterDescBad b && !copyDescBad w && !copyDescBad wt &&
             [a, b].all (fun d => isLocalAddr s (dAddr d) && isLocalAddr s (dTaddr d)) && isLocalAddr s (dAddr w) && isLocalAddr s (dAddr wt) &&
             spMode b == 0 && spansOk s sp.1 && spansOk s sp.2.1 && decide (fenceOf s 2 sp.1 sp.2.1 = .ok) &&
             (maskFails s b (ucRows f) (ucCols f) ((ucPlans s 5 f b w wt).2.pat != 0)).isNone && !copyTableBad s 5 w && !copyTableBad s 5 wt &&
             decide (claimOf s 5 f x.gstep false = .ok)
         | _, _, _, _ => false) = true) ∧ ∀ q < 64, (getCell s q).commits = [] := by
  intro p h
  simp only [List.mem_cons, List.not_mem_nil, or_false] at h
  rcases h with rfl | rfl | rfl | rfl <;>
    exact ⟨issues_of (by decide +kernel), by decide +kernel, by decide +kernel, launched_of (by decide +kernel), by decide +kernel⟩

theorem test_hyp_MatrixBegins :
    let s := cellWith 0 {} [(1, benchD 0x1000 16 1 0), (2, benchD 0x2000 8 1 0)]
    let f : MmaOp := ⟨0#2, 0#2, 1#1, 0#2, 0#1, 1#2, 0#1, 0#1, 0#3, 0#2, 0#1, 1#5, 1#1, 2#5, 1#1, 0#5, 0#5, 0#5, 0#5, 3#8, 7#8, 15#16, 0#32⟩
    Issues s 5 0 hd (.mma f) ∧ mmaUsesHo f = false ∧ (getCell s 5).bwd.loan = false ∧ loomFree s 5 0 1 f none = true ∧ meterOk s 5 0 = true ∧
    ∃ u x, launched s 5 0 hd (.mma f) = some (u, x) ∧
      (match roleDesc u 5 x .ha 0, roleDesc u 5 x .hb 0 with
       | some a, some b =>
         let r : MmaRun := { loom := 0, bank := 1, da := a, db := b, ho := none, baseA := gLocal (dAddr a), baseB := gLocal (dAddr b) }
         !mmaDescBad 0 f a b && !dStaged a && !dStaged b && isLocalAddr s (dAddr a) && isLocalAddr s (dAddr b) &&
           panelOk 5 (sideA f r) 4 16 && panelOk 5 (sideB f r) 8 16 && sideOk f (sideA f r) 4 && sideOk f (sideB f r) 8 &&
           !cbRefused s 5 a 0 && !cbRefused s 5 b 0
       | _, _ => false) = true :=
  ⟨issues_of (by decide +kernel), by decide +kernel, by decide +kernel, by decide +kernel, by decide +kernel, launched_of (by decide +kernel)⟩
/-! The Drover and the Mill as they begin. -/

/-- A plan: this device is 0, device 1 is reached by port 3; a ring and a tree of the two, with group IDs 7 and 8; the job tree is the
latter. -/
def ringG : MGroup :=
  { ring := true, rails := 1, fore := false, gid := 7, size := 2, rank := 0, links := [(⟨3, 1⟩, ⟨3, 1⟩)] }

/-- The tree with this device as its root, and as the child of device 1. -/
def treeG : MGroup := { ring := false, rails := 1, fore := false, gid := 8, size := 2, rank := 0, kids := [⟨3, 1⟩] }

def leafG : MGroup := { ring := false, rails := 1, fore := false, gid := 8, size := 2, rank := 1, parent := ⟨3, 1⟩ }

def thePlan (t : MGroup) : Plan :=
  { part := 5, ports := (List.range 32).map (fun p => ({ used := p == 3, gen := 6, nport := 2, nid := 1 } : PlanPort)),
    routes := [⟨1, 1, 3, false⟩], groups := [ringG, t], jobTree := 1 }

def planned (t : MGroup) (s : State) : State := { s with plan := some (thePlan t), inPlan := true }

/-- A layer descriptor at 0x100: two experts on this device, one token; the scores lie in the bench. -/
def drvMem (s : State) : State :=
  memWriteRaw (memWriteRaw (memWriteRaw s 0x100 ([1#8, 1#8, 0#8, 0#8] ++ natLe 1 2 ++ natLe 1 2 ++ zeros 8 ++ natLe 0x200 8 ++ natLe 0x220 8))
    0x200 (natLe 0 2 ++ natLe 0x100 2)) 0x220 (natLe 0 2)

def drvD : DDesc := { e := 2, k := 1, spill := false, depth := 0, g := 1, cap := 1, t := 1, flag := 0, experts := [(0, 0), (0, 1)], group := [0], crc := 9 }

def subF : DrvSubmitOp := ⟨3#6, 0#6, 4#5, 1#1, 8#43, 0x100#43⟩

theorem test_hyp_DroverSessions_open :
    let s := drvMem (cellWith 3 {} [(4, benchD 0x400 2 0)])
    Issues s 5 3 hd (.drvSubmit subF) ∧ s.poison = [] ∧ sessIx s 256 3 0 = none ∧ s.sess.length < 8 ∧ memOk s 256 32 = true ∧
    (readDDesc s 256).any (fun d => decide (256 * 0 < d.t) && memOk s 0x2000 (regionLen d) && decide (fenceOf s 0 [(256, 32)] [] = .ok) &&
      decide (fenceOf s 0 [(leAt (memRead s 256 32) 16 8, 2 * d.e), (leAt (memRead s 256 32) 24 8, 2 * d.g)] [] = .ok) &&
      decide (fenceOf s 0 (scoreSpans (benchD 0x400 2 0) (subTokens d 0) d.e) [(0x2000, regionLen d)] = .ok) &&
      spansOk s (scoreSpans (benchD 0x400 2 0) (subTokens d 0) d.e)) = true ∧
    ∃ u x, launched s 5 3 hd (.drvSubmit subF) = some (u, x) ∧
      (roleDesc u 5 x .hin 0).any (fun d => d == benchD 0x400 2 0 && dFmt d == 0 && dLay d == 0 && isLocalAddr s (dAddr d)) = true :=
  ⟨issues_of (by decide +kernel), by decide +kernel, by decide +kernel, by decide +kernel, by decide +kernel, by decide +kernel,
    launched_of (by decide +kernel)⟩

/-- A session of 300 tokens takes its second submission. -/
def sess300 : Sess := { desc := 256, mb := 3, step := 0, region := 0x2000, d := { drvD with t := 300 }, subs := [⟨1, 5, 0, []⟩] }

theorem test_hyp_DroverSessions_join :
    let s : State := { cellWith 3 {} [(4, benchD 0x400 2 0)] with sess := [sess300] }
    Issues s 5 3 hd (.drvSubmit subF) ∧ sessIx s 256 3 0 = some 0 ∧ s.sess[0]? = some sess300 ∧ sess300.region = 0x2000 ∧
      (∀ w ∈ sess300.subs, w.idx ≠ 0) ∧ 256 * 0 < sess300.d.t ∧ 256 * 1 < sess300.d.t ∧
      spansOk s (scoreSpans (benchD 0x400 2 0) (subTokens sess300.d 0) sess300.d.e) = true ∧
      fenceOf s 0 (scoreSpans (benchD 0x400 2 0) (subTokens sess300.d 0) sess300.d.e) [] = .ok :=
  ⟨issues_of (by decide +kernel), by decide +kernel⟩

theorem test_hyp_DroverSessions_close :
    let s : State := { cellWith 3 {} [] with sess := [sess300] }
    Issues s 5 3 hd (.drvClose ⟨3#6, 8#43⟩) ∧ sessIx s 256 3 0 = some 0 ∧ s.sess[0]? = some sess300 ∧ sess300.send = none ∧
      Issues rdy 5 3 hd (.drvClose ⟨3#6, 8#43⟩) ∧ sessIx rdy 256 3 0 = none :=
  ⟨issues_of (by decide +kernel), by decide +kernel, by decide +kernel, by decide +kernel, issues_of (by decide +kernel), by decide +kernel⟩

/-- A selected session of two devices: expert 0 is this device's and its slot is kept. -/
def sessSel : Sess :=
  { desc := 256, mb := 3, step := 0, region := 0x2000, d := { drvD with g := 2, experts := [(0, 0), (1, 0)], group := [0, 1] },
    subs := [⟨0, 5, 0, []⟩], selected := true, list := [{ expert := 0, kept := true }] }

def sendF (dir : BitVec 1) : DrvSendOp := ⟨3#6, dir, 4#5, 6#5, 0#13, 8#43⟩

theorem test_hyp_DroverSessions_send :
    ∀ dir ∈ [0#1, 1#1],
      let q : Sess := { sessSel with fwdDone := isOne dir }
      let s : State := planned treeG { cellWith 3 {} [(4, mkD 0x4000 1 0), (6, mkD 0x8000 1 0)] with sess := [q] }
      Issues s 5 3 hd (.drvSend (sendF dir)) ∧ (isOne dir = true → q.fwdDone = true) ∧ s.sess[0]? = some q ∧ q.faulted = false ∧ q.selected = true ∧
      q.send = none ∧ 2 ≤ q.d.g ∧ (∀ r ∈ otherRanks s q.d, routeOf s (q.d.group.getD r 0) ≠ none) ∧ otherRanks s q.d ≠ [] ∧
      ∃ u x, launched s 5 3 hd (.drvSend (sendF dir)) = some (u, x) ∧
        (match roleDesc u 5 x .hs 0, roleDesc u 5 x .hd 0 with
         | some a, some b =>
           let z : DSend := { cell := 5, fly := 0, back := isOne dir, src := gLocal (dAddr a), dst := gLocal (dAddr b), rb := 32, unsent := otherRanks s q.d }
           sendIx s 5 x 256 3 == some 0 && isLocalAddr s (dAddr a) && isLocalAddr s (dAddr b) && spansOk s (sendSpans s q z).1 && spansOk s (sendSpans s q z).2 &&
             decide (fenceOf s 0 (sendSpans s q z).1 (sendSpans s q z).2 = .ok)
         | _, _ => false) = true := by
  intro dir h
  simp only [List.mem_cons, List.not_mem_nil, or_false] at h
  rcases h with rfl | rfl <;> exact ⟨issues_of (by decide +kernel), by decide +kernel, by decide +kernel, by decide +kernel, by decide +kernel,
    by decide +kernel, by decide +kernel, by decide +kernel, by decide +kernel, launched_of (by decide +kernel)⟩

def sess1 : Sess := { sess300 with d := drvD, subs := [⟨0, 5, 0, [0x3F800000#32, 0#32]⟩] }

theorem test_hyp_DroverSessions_selection :
    let s : State := { rdy with sess := [sess1, sess300, { sess1 with selected := true }] }
    isReady s = true ∧ s.sess[0]? = some sess1 ∧ sess1.selected = false ∧ submitted sess1 = true ∧ Memory.wf s.mem = true ∧ s.wtq = [] ∧
      submitted sess300 = false ∧ (s.sess[2]?).any (fun x => x.selected) = true := by decide +kernel

/-- A send whose rows have all come, with its command in flight. -/
def sent : DSend := { cell := 5, fly := 0, back := false, src := 0x4000, dst := 0x8000, rb := 32, unsent := [], payload := true, got := [] }

theorem test_hyp_DroverSessions_done :
    let x : Sess := { sessSel with send := some sent, counts := [(0, [0])] }
    let f : Fly := { id := 0, pos := 0, hdr := hd, op := .drvSend (sendF 0#1), committed := true }
    let s : State := planned treeG { withStrm 3 { fly := [f] } with sess := [x] }
    isReady s = true ∧ s.sess[0]? = some x ∧ x.send = some sent ∧ findFly (getStrm s 5 3) 0 = some f ∧ sent.payload = true ∧ f.remote = 0 ∧
      (∀ w ∈ owedWords s x sent, w ∈ sent.got) := by decide +kernel

/-- A Mill command of group entry g, format FP32, with CSEQ q. -/
def millF (g q : Nat) : MillOp := ⟨0#2, BitVec.ofNat 6 g, 0#5, 0#5, 4#5, 6#5, 0#5, 0#1, 0#2, 0#12, 0#26, BitVec.ofNat 16 q, 0#16⟩

def millS0 : State := planned treeG (cellWith 3 {} [(4, mkD 0x4000 1 0), (6, mkD 0x8000 1 0)])

/-- Each of the four commands on the ring, and the last two on the tree. -/
theorem test_hyp_MillBegins :
    ∀ p ∈ [(Op.millRs (millF 0 0), 0x70, ringG), (.millAg (millF 0 0), 0x71, ringG), (.millAr (millF 0 0), 0x72, ringG),
           (.millBc (millF 0 0), 0x73, ringG), (.millAr (millF 1 0), 0x72, treeG), (.millBc (millF 1 0), 0x73, treeG)],
      Issues millS0 5 3 hd p.1 ∧ millS0.mill = [] ∧ getStep millS0 0 = none ∧ millS0.poison = [] ∧
      ∃ u x, launched millS0 5 3 hd p.1 = some (u, x) ∧
        (let f := (millFields p.1).getD (millF 0 0)
         millGroup millS0 f.group.toNat == some p.2.2 && !groupBad p.2.2 p.2.1 f && f.cseq.toNat == nextSeq millS0 0 p.2.2.gid &&
           (match roleDesc u 5 x .hs 0, roleDesc u 5 x .hd 0 with
            | some a, some b =>
              let rd := [(gLocal (dAddr a), millBytes f.ifmt.toNat (srcLen p.2.2 p.2.1 f))]
              let wr := [(gLocal (dAddr b), millBytes f.ofmt.toNat (dstLen p.2.2 p.2.1 f))]
              isLocalAddr millS0 (dAddr a) && isLocalAddr millS0 (dAddr b) && spansOk millS0 (rd ++ wr) &&
                decide (fenceOf millS0 0 rd wr = .ok)
            | _, _ => false)) = true := by
  intro p h
  simp only [List.mem_cons, List.not_mem_nil, or_false] at h
  rcases h with rfl | rfl | rfl | rfl | rfl | rfl <;>
    exact ⟨issues_of (by decide +kernel), by decide +kernel, by decide +kernel, by decide +kernel, launched_of (by decide +kernel)⟩

/-- A group that does not fit, and a CSEQ out of its turn. -/
theorem test_hyp_MillBegins_faults :
    Issues millS0 5 3 hd (.millRs (millF 1 0)) ∧ groupBad treeG 0x70 (millF 1 0) = true ∧ Issues millS0 5 3 hd (.millBc (millF 0 9)) ∧
      groupBad ringG 0x73 (millF 0 9) = false ∧ (millF 0 9).cseq.toNat ≠ nextSeq millS0 0 7 ∧
      (∃ u x, launched millS0 5 3 hd (.millRs (millF 1 0)) = some (u, x) ∧ true = true) ∧
      ∃ u x, launched millS0 5 3 hd (.millBc (millF 0 9)) = some (u, x) ∧ true = true :=
  ⟨issues_of (by decide +kernel), by decide +kernel, issues_of (by decide +kernel), by decide +kernel, by decide +kernel,
    launched_of (p := fun _ _ => true) (by decide +kernel), launched_of (p := fun _ _ => true) (by decide +kernel)⟩

/-- A MILL_BC that is not its source's reads nothing. -/
theorem test_hyp_MillBegins_receiver :
    let s : State := { millS0 with plan := some { thePlan treeG with groups := [{ ringG with rank := 1 }, treeG] } }
    Issues s 5 3 hd (.millBc (millF 0 0)) ∧ ((1 : Nat) == (millF 0 0).root.toNat) = false ∧
      ∃ u x, launched s 5 3 hd (.millBc (millF 0 0)) = some (u, x) ∧ (roleDesc u 5 x .hd 0).isSome = true :=
  ⟨issues_of (by decide +kernel), by decide +kernel, launched_of (by decide +kernel)⟩
/-! What happens in time; steps. -/

theorem test_hyp_StreamsInTime_fetch :
    let y : Stream := { log2 := 8, head := 250, tail := 6, queue := [{ pos := 249, hdr := hd, op := some .nop }] }
    let z : Stream := { log2 := 9, head := 0, tail := 511 }
    isReady (withStrm 1 y) = true ∧ y.mode = .live ∧ y.head < 2 ^ y.log2 ∧ y.tail < 2 ^ y.log2 ∧ y.queue.length + y.win.length + 12 ≤ 512 ∧
      (y.tail + 2 ^ y.log2 - y.head) % 2 ^ y.log2 = 12 ∧ (z.tail + 2 ^ z.log2 - z.head) % 2 ^ z.log2 = 511 ∧
      haltedStrm.mode ≠ .live ∧ serving rdy = true := by decide +kernel

theorem test_hyp_StreamsInTime_pause :
    let s : State := { rdy with cells := [(5, { paused := true })] }
    isReady s = true ∧ (getCell s 5).paused = true ∧ (getStrm s 5 1).mode = .live ∧ (getStrm s 5 1).queue = [] ∧
      (getStrm s 5 1).nxt = 0 ∧ (getStrm s 5 1).win = [] := by decide +kernel

theorem test_hyp_StreamsInTime_publish :
    let f : Fly := { id := 0, pos := 0, hdr := hd, op := .vpub ⟨0#1, 4#6⟩, gstep := 2 }
    let s : State := { uStep (some true) with cells := [(5, { streams := [(2, { step := 2, fly := [f] })], vt := [(4, { en := true, claimed := true })] })] }
    isReady s = true ∧ (getStrm s 5 2).mode = .live ∧ (getStrm s 5 2).fly = [f] ∧ f.committed = false ∧ s.wtq = [] ∧
      verdictOf s f.gstep = some true ∧ (getVt s 5 4).claimed = true := by decide +kernel

theorem test_hyp_StreamsInTime_complete :
    let f : Fly := { id := 0, pos := 0, hdr := hd, op := .move ⟨3#5, 4#5, 6#5, 1#1, 0#2, 0#20, 0#18⟩, committed := true, done := true,
                     outs := [(6, 0, mkD 0 1 0)] }
    let s : State := { rdy with cells := [(5, { streams := [(1, { fly := [f, { f with id := 1, done := false }] }), (2, { fly := [f] })],
                                                hoppers := [(6, { prod := 2, cons := 1, en := true, pushN := 1, places := [(0, .reserved)] })] })] }
    isReady s = true ∧ (getStrm s 5 2).fly = [f] ∧ f.done = true ∧ f.remote = 0 ∧ f.stalled = [] ∧ isMill f.op = false ∧ f.recs = [] ∧
      f.rels = [] ∧ f.outs = [(6, 0, mkD 0 1 0)] ∧ (getHop s 5 6).discard = [] := by decide +kernel

def mmaF (drain : BitVec 1) : MmaOp :=
  ⟨0#2, 0#2, 1#1, 0#2, drain, 1#2, 0#1, 0#1, 0#3, 0#2, 0#1, 1#5, 1#1, 2#5, 1#1, 0#5, 0#5, 0#5, 0#5, 1#8, 1#8, 15#16, 0#32⟩

/-- A command whose one chunk of 16 is charged and runs on loom F of cell 5; with a drain it has its output tile. -/
def chunkS (drain : BitVec 1) : State :=
  let r : MmaRun := { loom := 0, bank := 1, da := benchD 0x1000 16 1, db := benchD 0x2000 2 1, baseA := benchAddr 5 0x1000,
                      baseB := benchAddr 5 0x2000, charged := true, ho := if isOne drain then some (benchD 0x4000 2 0) else none }
  let f : Fly := { id := 0, pos := 0, hdr := hd, op := .mma (mmaF drain), committed := true, mma := some r }
  { rdy with cells := [(5, { streams := [(0, { fly := [f] })], looms := [(0, { run := some (0, 0) })] })] }

theorem test_hyp_LoomWork_chunk :
    ∀ drain ∈ [0#1, 1#1], isReady (chunkS drain) = true ∧ (loomRun (chunkS drain) 5 0).any (fun q =>
      q.2.2.2.charged && q.2.2.2.chunk == 0 && q.2.2.2.loom == 0 && q.2.2.1.dwmask == 0#2 && q.2.2.1.emit == 0#1 &&
        decide (q.2.2.1.klen.toNat + 1 ≤ chunkStep q.2.2.1) && chunkSkip (chunkS drain) 5 q.2.2.1 q.2.2.2 0 == 0 && q.2.2.1.drain == drain) = true := by
  decide +kernel

/-- The drain of a two by two tile. -/
theorem test_hyp_LoomWork_drain :
    let s : State := { chunkS 1#1 with cells := [(5, { getCell (chunkS 1#1) 5 with looms := [(0, { drains := [(0, 0, 1)] })] })] }
    isReady s = true ∧ (getLoom s 5 0).drains = [(0, 0, 1)] ∧ Memory.wf s.mem = true ∧ (findFly (getStrm s 5 0) 0).any (fun f =>
      f.op == .mma (mmaF 1#1) && f.mma.any (fun r => r.ho.any (fun d => decide ((mmaF 1#1).nlen.toNat + 1 ≤ dPitch d) &&
        (edgesPoison s (tileSpans d ((mmaF 1#1).mlen.toNat + 1) ((mmaF 1#1).nlen.toNat + 1))).isNone))) = true ∧
      (getLoom rdy 5 0).drains = [] := by decide +kernel

theorem test_hyp_TimedCellEvents :
    let s : State := { rdy with cells := [(5, { looms := [(0, { meter := -16 }), (1, { canTime := canaryEvery }), (2, { canary := some (3, 9) })]
                                                streams := [(1, { held := true })] })]
                                alm := { pstate := 3 } }
    isReady s = true ∧ (getLoom s 5 0).meter < 0 ∧ 0 < cellDuty s 5 ∧ (getLoom s 5 0).run = none ∧ (getStrm s 5 0).fly = [] ∧
      (getStrm s 5 1).fly = [] ∧ canaryEvery ≤ (getLoom s 5 1).canTime ∧ (getLoom s 5 1).run = none ∧ (getLoom s 5 1).canary = none ∧
      meterOk s 5 1 = true ∧ (getLoom s 5 2).canary = some (3, 9) ∧ (getStrm s 5 1).held = true ∧ s.alm.late = false ∧
      oget s 0x5000 5 ≠ 0 ∧ cellWeather s 5 = 3 ∧ isMem s 0 = true ∧ isMem s (hbmEnd - 32) = true ∧ isMem s (benchAddr 63 0) = true ∧
      s.up = true := by decide +kernel

/-- A journal whose entry 1 holds step 1 in state e. -/
def jrS (e : Nat) : State := { jobWith [] with lock := { (jobWith []).lock with jok := some [] }, jr := [(1, { estate := e, step := 1, len := 8 })] }

abbrev Quiet (s : State) : Prop :=
  (s.fronts = [] ∧ s.pendW = []) ∧ mirrorOn s = false ∧ s.tee = none ∧ s.wtq = [] ∧ ldgOut s = false ∧ ledgerSettle s = s

theorem quiet_of {s : State} (h : Quiet s) : LedgerQuiet s := ⟨h.1, h.2.1, h.2.2.1, h.2.2.2.1, h.2.2.2.2.1, h.2.2.2.2.2⟩

theorem test_hyp_StepsOpen :
    LedgerQuiet (jrS 1) ∧ isReady (jrS 1) = true ∧ (getJr (jrS 1) 1).estate = 1 ∧ (getJr (jrS 1) 1).posting = false ∧
      wtOut (jrS 1) = false ∧ Memory.wf (jrS 1).mem = true ∧
      (getJr (jrS 1) 0).estate ≠ 1 ∧ isShadow (jrS 1) = false ∧ nextOpen (jrS 1) = none :=
  ⟨quiet_of (by decide +kernel), by decide +kernel⟩

/-- Step 1 is the job's first step and asks for nothing else; step 2, the one after it, opens too once every stream has passed step 1. -/
def jr2 : State :=
  { jobWith [] with
    lock := { (jobWith []).lock with jok := some [] }
    jr := [(1, { estate := 3, step := 1, opened := true }), (0, { estate := 2, step := 2 })], steps := [open1]
    cells := (List.range 64).map (fun c => (c, ({ streams := (List.range 4).map (fun k => (k, { step := 1, entered := true })) } : Cell))) }

theorem test_hyp_StepsOpen_open :
    LedgerQuiet jr2 ∧ nextOpen (jrS 2) = some 1 ∧ 1 = oget (jrS 2) 0x5401 1 ∧ isReady jr2 = true ∧ isShadow jr2 = false ∧ nextOpen jr2 = some 2 ∧
      2 ≠ oget jr2 0x5401 1 ∧ jr2.epoch < 0xFFFFFFFF ∧ foldGroup jr2 ≠ .bad ∧ quietWaits jr2 = false ∧ (getJr jr2 (2 % 2)).opened = false ∧
      jr2.heldSig = [] := ⟨quiet_of (by decide +kernel), by decide +kernel⟩

/-- Step 1 with every stream in it, every UDONE in and its verdict given. -/
def doneS : State :=
  let x : StepSt := { num := 1, udones := List.range 64, verdict := some true, rxNeed := some [] }
  { jobWith [] with
    steps := [x], jr := [(1, { estate := 3, step := 1, opened := true })]
    cells := (List.range 64).map (fun c => (c, ({ streams := (List.range 4).map (fun k => (k, { step := 2, entered := true })) } : Cell))) }

theorem test_hyp_StepsEnd_computed :
    isReady doneS = true ∧ isShadow doneS = false ∧ (doneS.steps.find? (computedReady doneS)).any (fun x =>
      getStep doneS x.num == some x && x.rxNeed == some []) = true := by decide +kernel

theorem test_hyp_StepsEnd_timeouts :
    ([{ num := 1, gatedW := true }] : List StepSt).find? (fun y => y.gatedW && y.verdict.isNone) = some { num := 1, gatedW := true } ∧
      ([open1, { num := 2, computed := true }] : List StepSt).find? (fun y => y.computed) = some { num := 2, computed := true } := by
  decide +kernel

/-- A rollback whose streams have all stopped: to hold, and to replay. -/
theorem test_hyp_StepsEnd_rollback :
    ∀ h ∈ [true, false],
      let r : Roll := { m := 1, hold := h, steps := [] }
      let s : State := { alone with cells := (List.range 64).map (fun d => (d, ({ streams := (List.range 4).map (fun j => (j, haltedStrm)) } : Cell)))
                                    roll := some r }
      LedgerQuiet s ∧ isReady s = true ∧ s.roll = some r ∧ allStopped s = true ∧ s.ldg.relWait = [] ∧ r.asked = none ∧ r.units = [] ∧ s.poison = [] ∧
        s.rcv.orderDue = false := by
  intro h hh
  simp only [List.mem_cons, List.not_mem_nil, or_false] at hh
  rcases hh with rfl | rfl <;> exact ⟨quiet_of (by decide +kernel), by decide +kernel⟩
/-! Messages. -/

/-- A message as it comes. -/
def mIn (m : Msg) : MsgIn := { hdr := hdrWord m, data := m.data.map (fun w => (w.bytes, w.poison)) }

abbrev Heard (s : State) (key mtype : Nat) (x : MsgIn) : Prop :=
  (rowMsg x).mtype = mtype ∧ hears s key (rowMsg x) = true ∧ (rowMsg x).part = ownPart (takeRx s key (rowMsg x)) ∧
    (rowMsg x).bad = false ∧ (rowMsg x).dst = ownId (takeRx s key (rowMsg x)) ∧ buffered s key (rowMsg x) = rowMsg x ∧
    readMsg (rowMsg x) = rowMsg x ∧ meshFails (takeRx s key (rowMsg x)) (rowMsg x) = 0 ∧
    xferCarries (takeRx s key (rowMsg x)) key (rowMsg x) = true

theorem gate_take {s : State} {key mtype : Nat} {x : MsgIn} {keep : Bool} (h : Heard s key mtype x) :
    gate s key mtype x keep = .take (if keep then s else takeRx s key (rowMsg x)) (rowMsg x) := by
  obtain ⟨h1, h2, h3, h4, h5, h6, h7, h8, h9⟩ := h
  unfold gate
  cases keep <;> simp [h1, h2, h3.symm, h4, h5.symm, h6, h7, h8, h9, bumpErr, rereadRx]

abbrev Good (s : State) (key mtype : Nat) (x : MsgIn) : Prop := Heard s key mtype x ∧ serving s = true

theorem arrives_of {s : State} {key mtype : Nat} {x : MsgIn} (h : Good s key mtype x ∧ isShadow s = false) :
    Arrives s key mtype x (takeRx s key (rowMsg x)) (rowMsg x) :=
  ⟨h.1.2, gate_take h.1.1, h.2⟩

theorem comes_of {s : State} {key mtype : Nat} {x : MsgIn}
    (h : Good s key mtype x ∧ key ≠ selfKey ∧ s.rcv.restore = none ∧ s.tee = none ∧ isShadow s = false) :
    Comes s key mtype x (rowMsg x) :=
  ⟨h.1.2, h.2.1, gate_take h.1.1, h.2.2.1, h.2.2.2.1, h.2.2.2.2⟩

theorem comesNow_of {s : State} {key mtype : Nat} {x : MsgIn}
    (h : Good s key mtype x ∧ key ≠ selfKey ∧ restoreDrops s (rowMsg x) = false ∧ s.tee = none ∧ isShadow s = false ∧
      mEpoch (rowMsg x) = s.epoch) : ComesNow s key mtype x (rowMsg x) :=
  ⟨h.1.2, h.2.1, gate_take h.1.1, h.2.2.1, h.2.2.2.1, h.2.2.2.2.1, h.2.2.2.2.2⟩

theorem teeComes_of {s : State} {key mtype : Nat} {x : MsgIn}
    (h : Good s key mtype x ∧ key ≠ selfKey ∧ restoreDrops s (rowMsg x) = false ∧ s.tee = none ∧ isShadow s = true ∧
      mEpoch (rowMsg x) = s.epoch) :
    TeeComes s key mtype (effKey s key (rowMsg x)) x (rowMsg x) :=
  ⟨h.1.2, h.2.1, gate_take h.1.1, h.2.2.1, h.2.2.2.1, h.2.2.2.2.1, rfl, h.2.2.2.2.2⟩

theorem forGroup_of {s : State} {key : Nat} {m : Msg} {g : MGroup}
    (h : mEpoch m = (takeRx s key m).epoch ∧ stepGone (takeRx s key m) (mStep m) = false ∧ (takeRx s key m).holding = false ∧
      findGid (takeRx s key m) (mGid m) = some g) : ForGroup s key m g := by
  obtain ⟨h1, h2, h3, h4⟩ := h
  unfold ForGroup millChecks
  simp [h1, h2, h3, h4]

/-- A ready device of the plan, port 3 ACTIVE. -/
def net (t : MGroup) (s : State := rdy) : State := planned t { s with objs := s.objs ++ [(okey (portIdx 3) 2, 3)] }

/-- A message of device 1 for this device. -/
def frm1 (mtype vc : Nat) (data : List DWord := []) (addr spec trk tgen : Nat := 0) : MsgIn :=
  mIn { mtype := mtype, vc := vc, part := 5, src := 1, dst := 0, addr := addr, spec := spec, trk := trk, tgen := tgen, data := data }

def word (b : Byte) (p : Bool := false) : DWord := { bytes := List.replicate 32 b, poison := p }

theorem test_hyp_RequestsAtTheirTarget_write :
    (let x := frm1 1 0 (List.replicate 16 (word 7#8) |>.set 3 (word 9#8 true)) 0x1000
     Arrives (net treeG) 3 1 x (takeRx (net treeG) 3 (rowMsg x)) (rowMsg x) ∧ ((∀ w ∈ (rowMsg x).data, w.bytes.length = 32) ∧
       (rowMsg x).addr % 32 = 0 ∧ (rowMsg x).data.length = 16 ∧ Memory.wf (net treeG).mem = true ∧
       mustPend (takeRx (net treeG) 3 (rowMsg x)) (rowMsg x).addr 512 = false ∧ reqAddrOk (takeRx (net treeG) 3 (rowMsg x)) 3 (rowMsg x) 512 true = true)) ∧
    (let x := frm1 1 0 [word 7#8] hbmEnd
     Arrives (net treeG) 3 1 x (takeRx (net treeG) 3 (rowMsg x)) (rowMsg x) ∧
       reqAddrOk (takeRx (net treeG) 3 (rowMsg x)) 3 (rowMsg x) 32 true = false) :=
  ⟨⟨arrives_of (by decide +kernel), by decide +kernel⟩, arrives_of (by decide +kernel), by decide +kernel⟩

theorem test_hyp_RequestsAtTheirTarget_read :
    (let x := frm1 2 0 [] 0x1000 15
     Arrives (net treeG) 3 2 x (takeRx (net treeG) 3 (rowMsg x)) (rowMsg x) ∧ ((rowMsg x).spec % 32 < 16 ∧
       reqAddrOk (takeRx (net treeG) 3 (rowMsg x)) 3 (rowMsg x) 512 false = true)) ∧
    (let x := frm1 2 0 [] hbmEnd 0
     Arrives (net treeG) 3 2 x (takeRx (net treeG) 3 (rowMsg x)) (rowMsg x) ∧
       reqAddrOk (takeRx (net treeG) 3 (rowMsg x)) 3 (rowMsg x) 32 false = false) :=
  ⟨⟨arrives_of (by decide +kernel), by decide +kernel⟩, arrives_of (by decide +kernel), by decide +kernel⟩

/-- A window of rank 0: an ordered addition of rank 0 goes, one of rank 1 has to come again. -/
def winS : State := { net treeG with scratch := [(0, 1)], wins := [(2, { n := 2, flag := 0, step := 0 })] }

theorem test_hyp_RequestsAtTheirTarget_atomic :
    ∀ late ∈ [[], [(1, 0)]], ∀ p ∈ [(0, [word 0#8], 0), (1, [word 0#8], 0), (0, [], 2 ^ 21), (1, [], 2 ^ 21)],
      let s : State := { winS with lateOps := late }
      let x := frm1 3 0 p.2.1 larderBase (2 * 16 + p.1 * 2 ^ 8 + p.2.2)
      let u := takeRx s 3 (rowMsg x)
      Arrives s 3 3 x u (rowMsg x) ∧ (aopOk (atomOf (rowMsg x)).aop = true ∧
        ((rowMsg x).data = [] → (atomOf (rowMsg x)).nodata = true ∧ aopOrdered (atomOf (rowMsg x)).aop = true) ∧
        aopCas (atomOf (rowMsg x)).aop = false ∧ reqAddrOk u 3 (rowMsg x) (atomSpan (atomOf (rowMsg x))) true = true ∧
        mustPend u (atomOf (rowMsg x)).addr (atomLen (atomOf (rowMsg x))) = false ∧
        firstPoison u (atomOf (rowMsg x)).addr (atomLen (atomOf (rowMsg x))) = none ∧
        atomStop u (atomOf (rowMsg x)) = none ∧
        (((rowMsg x).src, (rowMsg x).trk) ∈ u.lateOps ↔ late ≠ []) ∧
        atomTurn u (atomOf (rowMsg x)) (rowMsg x).trk = if p.1 = 0 then .go else .retry) := by
  intro late hl p h
  simp only [List.mem_cons, List.not_mem_nil, or_false] at hl h
  rcases hl with rfl | rfl <;> rcases h with rfl | rfl | rfl | rfl <;> exact ⟨arrives_of (by decide +kernel), by decide +kernel⟩

theorem test_hyp_RequestsAtTheirTarget_signal :
    let s : State := { net treeG with steps := [open1] }
    let x (step : Nat) : MsgIn := frm1 4 0 [] 0 (2 + 4 * 224 + 2 ^ 10 * 63 + 2 ^ 16 * 5 + 2 ^ 48 * step)
    (Arrives s 3 4 (x 1) (takeRx s 3 (rowMsg (x 1))) (rowMsg (x 1)) ∧
      sigCheck (takeRx s 3 (rowMsg (x 1))) (sgDev (rowMsg (x 1))) (sgFlag (rowMsg (x 1))) (sgCell (rowMsg (x 1))) (sgStep (rowMsg (x 1))) = .apply 1) ∧
    Arrives s 3 4 (x 2) (takeRx s 3 (rowMsg (x 2))) (rowMsg (x 2)) ∧
      sigCheck (takeRx s 3 (rowMsg (x 2))) (sgDev (rowMsg (x 2))) (sgFlag (rowMsg (x 2))) (sgCell (rowMsg (x 2))) (sgStep (rowMsg (x 2))) = .hold :=
  ⟨⟨arrives_of (by decide +kernel), by decide +kernel⟩, arrives_of (by decide +kernel), by decide +kernel⟩

/-- A MOVE of cell 5's B stream has one message out, in tracker entry 7. -/
def mv : Fly := { id := 4, pos := 2, hdr := hd, op := .move ⟨3#5, 4#5, 0#5, 0#1, 0#2, 0#20, 0#18⟩, committed := true, remote := 1 }

def trkW (mtype : Nat) (retry : Bool := false) (port : Nat := 3) : Trk :=
  { gen := 2, port := port, cell := 5, strm := 1, fly := 4, msg := { mtype := mtype }, retry := retry, dest := 0x1000 }

def asked (mtype : Nat) (retry : Bool := false) (port : Nat := 3) : State :=
  { net treeG (withStrm 1 { fly := [mv] }) with trk := [(7, trkW mtype retry port)] }

theorem answers_of {s : State} {x : MsgIn} {w : Trk} {f : Fly} {mtype : Nat}
    (h : Good s 3 mtype x ∧ isShadow s = false ∧ trkOf (takeRx s 3 (rowMsg x)) (rowMsg x) = some w ∧ w.kind = 0 ∧ w.cell < 64 ∧
      (getStrm (takeRx s 3 (rowMsg x)) w.cell w.strm).mode = .live ∧ (getStrm (takeRx s 3 (rowMsg x)) w.cell w.strm).fly = [f] ∧ f.id = w.fly ∧
      f.stalled = [] ∧ (takeRx s 3 (rowMsg x)).tee = none) :
    Arrives s 3 mtype x (takeRx s 3 (rowMsg x)) (rowMsg x) ∧ AnswersFly (takeRx s 3 (rowMsg x)) (rowMsg x) w f := by
  obtain ⟨h1, h2, h3, h4, h5, h6, h7, h8, h9, h10⟩ := h
  exact ⟨arrives_of ⟨h1, h2⟩, h3, h4, h5, h6, h7, h8, h9, h10⟩

/-- A message for entry 7, generation 2. -/
def ans (mtype : Nat) (data : List DWord := []) (spec : Nat := 0) : MsgIn := frm1 mtype 2 data 0 spec 7 2

/-- Nothing else of these states is in the way of an answer of a type. -/
abbrev Ans (mtype rtype : Nat) (data : List DWord := []) (spec : Nat := 0) : Prop :=
  Arrives (asked mtype) 3 rtype (ans rtype data spec) (takeRx (asked mtype) 3 (rowMsg (ans rtype data spec))) (rowMsg (ans rtype data spec)) ∧
    AnswersFly (takeRx (asked mtype) 3 (rowMsg (ans rtype data spec))) (rowMsg (ans rtype data spec)) (trkW mtype) mv

theorem test_hyp_ResponsesAndTimeouts_answers :
    Ans 1 8 ∧ Ans 2 9 [word 1#8] ∧ Ans 2 9 [word 1#8 true] ∧ Ans 1 10 [] 8 ∧ Ans 1 10 [] 1 ∧ Ans 3 11 := by
  refine ⟨?_, ?_, ?_, ?_, ?_, ?_⟩ <;> exact answers_of (by decide +kernel)

theorem test_hyp_ResponsesAndTimeouts_fields :
    (asked 1).scrQ = [] ∧ (rowMsg (ans 8)).spec % 256 = 0 ∧ isCasMsg (trkW 1).msg = false ∧ (trkW 1).msg.mtype ≠ 0x28 ∧
      (rowMsg (ans 9 [word 1#8])).spec % 256 = 0 ∧ (rowMsg (ans 9 [word 1#8])).data.any (fun d => d.poison) = false ∧
      (∀ d ∈ (rowMsg (ans 9 [word 1#8])).data, d.bytes.length = 32) ∧ (rowMsg (ans 9 [word 1#8 true])).data.any (fun d => d.poison) = true ∧
      isLocalAddr (takeRx (asked 2) 3 (rowMsg (ans 9 [word 1#8]))) (trkW 2).dest = true ∧ inRegs (gLocal (trkW 2).dest) = false ∧
      gLocal (trkW 2).dest % 32 = 0 ∧ Memory.wf (asked 2).mem = true ∧
      mustPend (takeRx (asked 2) 3 (rowMsg (ans 9 [word 1#8]))) (gLocal (trkW 2).dest) 32 = false ∧ mv.remote ≤ 1 ∧ isCarter mv.op = true := by decide +kernel

/-- An answer of another generation. -/
theorem test_hyp_ResponsesAndTimeouts_stale :
    let x := frm1 8 2 [] 0 0 7 3
    Arrives (asked 1) 3 8 x (takeRx (asked 1) 3 (rowMsg x)) (rowMsg x) ∧ trkOf (takeRx (asked 1) 3 (rowMsg x)) (rowMsg x) = none :=
  ⟨arrives_of (by decide +kernel), by decide +kernel⟩

theorem test_hyp_ResponsesAndTimeouts_timers :
    isReady (asked 1) = true ∧ tfind (asked 1).trk 7 = some (trkW 1) ∧ (trkW 1).port ≠ 0xFF ∧ isShadow (asked 1 true) = false ∧
      tfind (asked 1 true).trk 7 = some (trkW 1 true) ∧ (trkW 1).kind = 0 ∧ (getStrm (asked 1) 5 1).mode = .live ∧
      (getStrm (asked 1) 5 1).fly = [mv] ∧ mv.id = (trkW 1).fly ∧ tfind (asked 3 true 0xFF).trk 7 = some (trkW 3 true 0xFF) ∧
      (9 : Nat) ≠ ownId (asked 1) ∧ (9, 7) ∉ (asked 1).lateOps := by decide +kernel

/-- A count message of device 1 for micro-batch 3, with the CRC given. -/
def cntMsg (crc : Nat) : MsgIn := frm1 0x28 5 (List.replicate 4 (word 0#8)) 0 (3 + 2 ^ 6 * crc)

def cntS : State := { net treeG with sess := [{ sessSel with send := some { sent with payload := false, unsent := [1] } }] }

theorem test_hyp_ResponsesAndTimeouts_counts :
    (Arrives (net treeG) 3 0x28 (cntMsg 9) (takeRx (net treeG) 3 (rowMsg (cntMsg 9))) (rowMsg (cntMsg 9)) ∧
      countSess (takeRx (net treeG) 3 (rowMsg (cntMsg 9))) (cntMb (rowMsg (cntMsg 9))) (rowMsg (cntMsg 9)).src (cntCrc (rowMsg (cntMsg 9))) = none) ∧
    ∀ crc ∈ [9, 8],
      Arrives cntS 3 0x28 (cntMsg crc) (takeRx cntS 3 (rowMsg (cntMsg crc))) (rowMsg (cntMsg crc)) ∧
      countSess (takeRx cntS 3 (rowMsg (cntMsg crc))) (cntMb (rowMsg (cntMsg crc))) (rowMsg (cntMsg crc)).src (cntCrc (rowMsg (cntMsg crc))) = some 0 ∧
      (cntS.sess[0]?).any (fun q => (q.d.crc == cntCrc (rowMsg (cntMsg crc))) == (crc == 9) && q.send.any (fun z => z.unsent != [])) = true := by
  refine ⟨⟨arrives_of (by decide +kernel), by decide +kernel⟩, fun crc h => ?_⟩
  simp only [List.mem_cons, List.not_mem_nil, or_false] at h
  rcases h with rfl | rfl <;> exact ⟨arrives_of (by decide +kernel), by decide +kernel, by decide +kernel⟩
/-! The Ledger, the Mill and recovery. -/

/-- A message of the Mill's channel for step n, group gid, epoch e, with one data word. -/
def mill (mtype : Nat) (gid n : Nat) (data : List DWord) (srank : Nat := 1) (more addr : Nat := 0) (vc : Nat := 4) : MsgIn :=
  frm1 mtype vc data addr (gid + 2 ^ 16 * srank + more + 2 ^ 48 * n)

/-- Step 1 is open; this device has or is a child. -/
def tree1 (t : MGroup) (x : StepSt := open1) : State := { net t with steps := [x] }

/-- A SEAL report's word: WHAT in byte 0, flags in byte 1. -/
def repW (what flags : Nat) : DWord := { bytes := natLe (what + 256 * flags) 32 }

/-- A fold and its words. -/
def foldW : DWord := { bytes := natLe (3 + 2 ^ 64 * 5) 32 }

theorem test_hyp_TreeMessages_up :
    ∀ p ∈ [(0x32, [word 0#8], 0), (0x34, [repW 1 3], 0), (0x34, [repW 2 0], 1)],
      let x := mill p.1 8 1 p.2.1 (1 - p.2.2)
      let s := tree1 { treeG with rank := p.2.2 }
      Comes s 3 p.1 x (rowMsg x) ∧ ForGroup s 3 (rowMsg x) { treeG with rank := p.2.2 } ∧
      (getStep s 1 = some open1 ∧ kidIx s { treeG with rank := p.2.2 } 3 (rowMsg x) = some 0 ∧
        s.steps.find? (fun u => u.num % 2 ^ 32 == mStep (rowMsg x) && u.isOpen) = some open1 ∧ open1.kidVotes = [] ∧ open1.kidReps = [] ∧
        s.steps.find? (fun u => u.num % 2 ^ 32 == mStep (rowMsg x)) = some open1 ∧
        (p.2.1 = [repW 2 0] → isRank0 s = false)) := by
  intro p h
  simp only [List.mem_cons, List.not_mem_nil, or_false] at h
  rcases h with rfl | rfl | rfl <;> exact ⟨comes_of (by decide +kernel), forGroup_of (by decide +kernel), by decide +kernel⟩

theorem test_hyp_TreeMessages_down :
    ∀ p ∈ [(0x33, [word 0#8], open1), (0x35, [repW 1 0], { open1 with computed := true })],
      let x := mill p.1 8 1 p.2.1 0
      let s : State := { tree1 leafG p.2.2 with lock := { jok := some [] } }
      LedgerQuiet s ∧ Comes s 3 p.1 x (rowMsg x) ∧ ForGroup s 3 (rowMsg x) leafG ∧ (getStep s 1 = some p.2.2 ∧ fromUp s leafG 3 (rowMsg x) = true ∧
        mStep (rowMsg x) = 1 % 2 ^ 32 ∧ s.lock.jok ≠ none ∧ p.2.2.isOpen = true ∧ s.steps.find? (fun u => u.num % 2 ^ 32 == mStep (rowMsg x) && u.isOpen) = some p.2.2 ∧
        p.2.2.verdict = none ∧ fullStep s (mStep (rowMsg x)) = 1 ∧ (p.1 = 0x35 → p.2.2.computed = true ∧ mByte (rowMsg x) 0 = 1)) := by
  intro p h
  simp only [List.mem_cons, List.not_mem_nil, or_false] at h
  rcases h with rfl | rfl <;>
    exact ⟨quiet_of (by decide +kernel), comes_of (by decide +kernel), forGroup_of (by decide +kernel), by decide +kernel⟩

theorem test_hyp_TreeMessages_fold :
    let x := mill 0x50 7 1 [foldW] 1 0 0 5
    let s : State := { tree1 treeG with objs := (tree1 treeG).objs ++ [(okey 0x5401 4, 7)] }
    Comes s 3 0x50 x (rowMsg x) ∧ ForGroup s 3 (rowMsg x) ringG ∧ (foldGroup s = .ring ringG ∧
      partLane s ringG 3 { rowMsg x with spec := (rowMsg x).spec / 2 ^ 32 * 2 ^ 32 + (rowMsg x).spec % 2 ^ 30 } = some 0 ∧
      s.steps.find? (fun u => u.num % 2 ^ 32 == mStep (rowMsg x) && u.isOpen) = some open1) :=
  ⟨comes_of (by decide +kernel), forGroup_of (by decide +kernel), by decide +kernel⟩

/-- A MILL_RS on the ring and a MILL_AG after its own part, in cell 5: 64 elements a segment. -/
def runOf70 (code : Nat) : MillRun :=
  { cell := 5, fly := 2, op := { millF 0 0 with hs := 0#5 }, code := code, group := 0, step := 0, src := 0x4000, dst := 0x8000, hd := mkD 0x8000 1 0, todo := 64 }

def runS (code : Nat) : State :=
  let f : Fly := { id := 2, pos := 0, hdr := hd, op := if code = 0x70 then .millRs (millF 0 0) else .millAg (millF 0 0), committed := true }
  { net treeG (withStrm 3 { fly := [f] }) with mill := [runOf70 code] }

/-- A segment of 64 elements in eight words: the ring's first part for segment 0 (from rank 1), and its result. -/
theorem test_hyp_MillMessages_part :
    let x := mill 0x30 7 0 (List.replicate 8 (word 0#8)) 1 (2 ^ 29)
    let s := runS 0x70
    Comes s 3 0x30 x (rowMsg x) ∧ ForGroup s 3 (rowMsg x) ringG ∧ (matchRun (takeRx s 3 (rowMsg x)) ringG (rowMsg x) = some (runOf70 0x70) ∧
      partLane s ringG 3 (rowMsg x) = some 0 ∧ partFits ringG (runOf70 0x70) 0 (msgEls ringG (runOf70 0x70) (rowMsg x)).length (rowMsg x) = true ∧
      tget [] (runOf70 0x70).recv (64 * mSeg (rowMsg x) + 0) = [] ∧
      (msgEls ringG (runOf70 0x70) (rowMsg x)).length = min 256 (partLen ringG (runOf70 0x70).op - tget 0 (runOf70 0x70).prog (64 * mSeg (rowMsg x) + 0)) ∧
      (msgEls ringG (runOf70 0x70) (rowMsg x)).any elBad = false ∧ s.poison = []) :=
  ⟨comes_of (by decide +kernel), forGroup_of (by decide +kernel), by decide +kernel⟩

theorem test_hyp_MillMessages_res :
    let x := mill 0x31 7 0 (List.replicate 8 (word 0#8)) 1 (2 ^ 29) (2 ^ 36)
    let s := runS 0x71
    Comes s 3 0x31 x (rowMsg x) ∧ ForGroup s 3 (rowMsg x) ringG ∧ (matchRun (takeRx s 3 (rowMsg x)) ringG (rowMsg x) = some (runOf70 0x71) ∧
      resLane s ringG 3 (rowMsg x) = some 0 ∧ resFits ringG (runOf70 0x71) 0 (msgEls ringG (runOf70 0x71) (rowMsg x)).length (rowMsg x) = true) :=
  ⟨comes_of (by decide +kernel), forGroup_of (by decide +kernel), by decide +kernel⟩

theorem test_hyp_MillMessages_early :
    let x := mill 0x30 7 0 (List.replicate 8 (word 0#8)) 1 (2 ^ 29)
    let s := net treeG
    Comes s 3 0x30 x (rowMsg x) ∧ ForGroup s 3 (rowMsg x) ringG ∧ (matchRun (takeRx s 3 (rowMsg x)) ringG (rowMsg x) = none ∧
      partLane s ringG 3 (rowMsg x) ≠ none) :=
  ⟨comes_of (by decide +kernel), forGroup_of (by decide +kernel), by decide +kernel⟩

theorem test_hyp_MillMessages_end :
    let x := mill 0x36 7 0 [] 1
    let s := runS 0x70
    Comes s 3 0x36 x (rowMsg x) ∧ ForGroup s 3 (rowMsg x) ringG ∧ (nakFrom s ringG 3 (rowMsg x) = true ∧
      matchRun (takeRx s 3 (rowMsg x)) ringG (rowMsg x) = some (runOf70 0x70) ∧ (getStrm s 5 3).fly.length = 1 ∧ (getStrm s 5 3).mode = .live ∧
      (getStrm s 5 3).fly.all (fun f => f.id == 2) = true ∧ isReady s = true ∧
      s.mill.find? (fun z => z.group == 0 && liveRun s z) = some (runOf70 0x70)) :=
  ⟨comes_of (by decide +kernel), forGroup_of (by decide +kernel), by decide +kernel⟩
/-! Recovery, the shadow and the copy fronts. -/

/-- A ready device of the plan under an order, as root or as leaf of the job tree. -/
def rcvS (t : MGroup) (r : RcvSt) : State := { net t with holding := true, rcv := r }

theorem test_hyp_RecoveryAndFronts_ready :
    (let s := rcvS treeG { kind := 1, kidsReady := [0] }
     isReady s = true ∧ rcvIsReady s = true ∧ isRank0 s = true) ∧
    (let s := rcvS leafG { kind := 1 }
     isReady s = true ∧ rcvIsReady s = true ∧ isRank0 s = false) ∧
    (let x := mill 0x51 8 0 [] 1 0 0 5
     ComesNow (net treeG) 3 0x51 x (rowMsg x) ∧ (jobKidIx (net treeG) 3 (rowMsg x) = some 0 ∧ (net treeG).holding = false)) ∧
    (let x := mill 0x52 8 0 [] 0 0 0 5
     let s := rcvS leafG { kind := 1, readySent := true }
     ComesNow s 3 0x52 x (rowMsg x) ∧ fromParent s 3 (rowMsg x) = true ∧ s.rcv.xferPorts = []) :=
  ⟨by decide +kernel, by decide +kernel, ⟨comesNow_of (by decide +kernel), by decide +kernel⟩, comesNow_of (by decide +kernel),
    by decide +kernel⟩

theorem test_hyp_RecoveryAndFronts_restore :
    (let x := mill 0x53 8 0 [repW 1 0] 1 0 0 5
     let s := rcvS treeG { restore := some { epoch := 0, ep := 4, cands := [] } }
     ComesNow s 3 0x53 x (rowMsg x) ∧ jobKidIx s 3 (rowMsg x) = some 0) ∧
    ∀ b ∈ [1, 3],
      let x := mill 0x54 8 0 [repW b 0] 0 0 0 5
      let s := rcvS leafG { restore := some { epoch := 0, ep := 4, cands := [] } }
      ComesNow s 3 0x54 x (rowMsg x) ∧ (fromParent s 3 (rowMsg x) = true ∧ mByte (rowMsg x) 0 = b) := by
  refine ⟨⟨comesNow_of (by decide +kernel), by decide +kernel⟩, fun b h => ?_⟩
  simp only [List.mem_cons, List.not_mem_nil, or_false] at h
  rcases h with rfl | rfl <;> exact ⟨comesNow_of (by decide +kernel), by decide +kernel⟩

/-- The mirror's buddy is device 1; a spare waits for its XFER_DONE. -/
theorem test_hyp_RecoveryAndFronts_mirror :
    let s : State := { net treeG with plan := some { thePlan treeG with buddy := 1 }, rcv := { waitXfer := true }, xferFrom := some 1 }
    let x (t : Nat) : MsgIn := mill t 8 0 (if t = 0x58 then [word 0#8] else []) 1 0 0 5
    (ComesNow s 3 0x57 (x 0x57) (rowMsg (x 0x57)) ∧ buddyOf s = some (rowMsg (x 0x57)).src) ∧
      ComesNow s 3 0x58 (x 0x58) (rowMsg (x 0x58)) ∧ s.xferFrom = some (rowMsg (x 0x58)).src :=
  ⟨⟨comesNow_of (by decide +kernel), by decide +kernel⟩, comesNow_of (by decide +kernel), by decide +kernel⟩

/-- A shadow. -/
def shadow (s : State) : State := { s with objs := s.objs ++ [(okey 0x5800 1, 3)] }

/-- A SHADOW_RSP for the first read of stream 1 of cell 5, whose command stands at place 2. -/
def rspX : MsgIn := frm1 0x55 5 [word 1#8] 0 (5 + 2 ^ 6 * 1 + 2 ^ 8 * 2)

theorem test_hyp_RecoveryAndFronts_shadow :
    (let s := shadow (net treeG)
     let x := mill 0x56 8 1 [foldW] 1 0 0 5
     TeeComes s 3 0x56 (effKey s 3 (rowMsg x)) x (rowMsg x) ∧ s.steps = []) ∧
    (TeeComes (shadow (net treeG)) 3 0x55 (effKey (shadow (net treeG)) 3 (rowMsg rspX)) rspX (rowMsg rspX) ∧
      (shadow (net treeG)).trk.find? (rspHit (shadow (net treeG)) (rowMsg rspX)) = none) ∧
    TeeComes (shadow (asked 2)) 3 0x55 (effKey (shadow (asked 2)) 3 (rowMsg rspX)) rspX (rowMsg rspX) ∧
      ((shadow (asked 2)).trk.find? (rspHit (shadow (asked 2)) (rowMsg rspX)) = some (7, trkW 2) ∧ (trkW 2).msg.mtype = 2 ∧ (rowMsg rspX).spec / 2 ^ 44 % 16 = 0 ∧
        (rowMsg rspX).data.any (fun d => d.poison) = false ∧ (∀ d ∈ (rowMsg rspX).data, d.bytes.length = 32) ∧
        isLocalAddr (shadow (asked 2)) (trkW 2).dest = true ∧ inRegs (gLocal (trkW 2).dest) = false ∧ gLocal (trkW 2).dest % 32 = 0 ∧
        Memory.wf (shadow (asked 2)).mem = true) :=
  ⟨⟨teeComes_of (by decide +kernel), by decide +kernel⟩, ⟨teeComes_of (by decide +kernel), by decide +kernel⟩,
    teeComes_of (by decide +kernel), by decide +kernel⟩

theorem test_hyp_RecoveryAndFronts_fronts :
    (∀ kind : Fin 3,
      let f : Front := { kind := kind.val, units := [0x1000, 0x11000], dest := 1 }
      let s : State := { net treeG with fronts := [f], tee := some { dev := 1, digest := [], ports := [3] } }
      isReady s = true ∧ s.fronts.find? (fun g => g.kind == kind.val) = some f ∧ liveRoute s f.dest ≠ none ∧ teeReady s = true ∧
        isShadow s = false) ∧
    (let f : Front := { kind := 0, units := [0x1000], dest := 1 }
     let s : State := { net treeG with fronts := [f] }
     isReady s = true ∧ s.fronts.find? (fun g => g.kind == 0) = some f ∧ liveRoute s f.dest ≠ none) ∧
    (let s : State := { net treeG with cowQ := [0x11000], fronts := [{ kind := 0, units := [0x1000, 0x11000], dest := 1 }] }
     cowHeld s < 2 ∧ s.pendW = [] ∧ s.wtq = [] ∧ ledgerSettle s = s) := by
  decide +kernel
/-! Ports and frames. -/

/-- A ready device with port 3 in a state. -/
def portS (st : Nat) (x : Port) (objs : List (Nat × Nat) := []) : State :=
  { rdyWith ((okey (portIdx 3) 2, st) :: objs) with ports := [(3, x)] }

/-- A HELLO of device 513, port 2, under key 7, made for this test; z is its signature's second half. -/
def helloT (ver : Byte) (z : Nat) : List Byte :=
  [ver, 2#8, 3#8, 0#8] ++ natLe 513 2 ++ zeros 2 ++ natLe 77 8 ++ key7 ++ List.replicate 64 0#8 ++
    natBe 42877656971275811310262564894490210024759287182177196162425349131675946712428 32 ++ natBe z 32 ++ List.replicate 16 0#8

theorem test_hyp_PortsAndHellos_signal :
    (∀ st ∈ [0, 4], let s := portS st { pres := true }
      maySignal s 3 = true ∧ (getPort s 3).pres = true ∧ portState s 3 = st) ∧
    (let s := portS 0 { signal := true }
     maySignal s 3 = true ∧ (getPort s 3).signal = true ∧ portState s 3 = 0) ∧
    (let s := portS 1 { gens := 6 }
     serving s = true ∧ portState s 3 = 1 ∧ mayTrainAt s 3 2 = true ∧ mayTrainAt s 3 6 = false) ∧
    (let s := portS 3 { pres := true, signal := true, cred := [(0, 8)] } [(okey (portIdx 3) 5, 0xFF)]
     serving s = true ∧ portState s 3 ≠ 0 ∧ s.trk = [] ∧ s.mill = [] ∧ linked s 3 = true ∧ oget s (portIdx 3) 5 = 0xFF) ∧
    (let s := portS 3 { pres := true, signal := true, cred := [(0, 8)] } [(okey (portIdx 3) 5, 2)]
     serving s = true ∧ portState s 3 ≠ 0 ∧ s.trk = [] ∧ s.mill = [] ∧ linked s 3 = true ∧ oget s (portIdx 3) 5 ≠ 0xFF) ∧
    (let s := portS 4 { pres := true, signal := true }
     serving s = true ∧ portState s 3 ≠ 0 ∧ maySignal s 3 = true ∧ linked s 3 = false) := by decide +kernel

theorem test_hyp_PortsAndHellos_timers :
    (let s := portS 2 { helloOut := true }
     serving s = true ∧ (getPort s 3).helloOut = true ∧ (getPort s 3).helloIn = false ∧ (getPort s 3).helloEnd = false ∧ portState s 3 ≠ 0 ∧ portState s 3 ≠ 5 ∧
      (tget [] s.txq 3).any (fun m => m.mtype == 0x20) = false) ∧
    (let s := planned treeG (portS 2 { helloOut := true })
     serving s = true ∧ (getPort s 3).helloOut = true ∧ (getPort s 3).helloIn = false ∧ usedPort s 3 = true ∧ portState s 3 ≠ 0 ∧
      portState s 3 ≠ 4 ∧ portState s 3 ≠ 5) := by decide +kernel

theorem test_hyp_PortsAndHellos_hello :
    let s := portS 2 { helloOut := true }
    (serving s = true ∧ portState s 3 ≠ 0 ∧ portState s 3 ≠ 5 ∧ (getPort s 3).helloOut = true ∧ (getPort s 3).helloIn = false ∧
      teePort s 3 = false ∧ s.plan = none) ∧
    (let u := portS 3 { helloOut := true, helloIn := true }
     serving u = true ∧ portState u 3 ≠ 0 ∧ (getPort u 3).helloIn = true ∧ (getPort u 3).hello.far ≠ helloT 1#8 0 ∧ teePort u 3 = false) ∧
    helloBad (helloT 2#8 0) = true ∧
    (let bs := helloT 1#8 0
     helloBad bs = false ∧ ecdsaOk (lslice bs 16 64) (bs.take 144) (lslice bs 144 64) = false) ∧
    (let bs := helloT 1#8 66373285196120922689654768894043433619984665882218722623657266484408921746309
     helloBad bs = false ∧ ecdsaOk (lslice bs 16 64) (bs.take 144) (lslice bs 144 64) = true) := by decide +kernel

/-- An ACTIVE port with frames that the far end has not acknowledged. -/
def framesS (x : Port) : State := portS 3 x [(okey (portIdx 3) 3, 1)]

theorem test_hyp_Frames_send :
    let s := framesS {}
    let u := framesS { unack := [⟨0, []⟩, ⟨1, [5#8]⟩], replay := 1, resent := 15 }
    let v := framesS { unack := [⟨0, []⟩], resent := 16 }
    (serving s = true ∧ portLive s 3 = true ∧ (getPort s 3).replay = 0 ∧ (getPort s 3).unack.length < 1024) ∧
    (serving u = true ∧ portLive u 3 = true ∧ 0 < (getPort u 3).replay ∧
      (getPort u 3).unack[(getPort u 3).unack.length - (getPort u 3).replay]? = some ⟨1, [5#8]⟩ ∧ (getPort u 3).unack ≠ [] ∧
      (getPort u 3).resent < 16) ∧
    (serving v = true ∧ portLive v 3 = true ∧ (getPort v 3).unack ≠ [] ∧ 16 ≤ (getPort v 3).resent) ∧
    laneDecode (oget s (portIdx 3) 3) (([] : List (List Byte)).getD 0 []) = none ∧ fheadBad (2 ^ 94) = true ∧ fheadBad 0 = false := by
  decide +kernel

/-- A frame that carries nothing: 912 zero bytes and their CRC; a first lane's byte of the CRC and the check symbols of generation 1. -/
def idleTail : List (List Byte) :=
  [[0x74#8, 0x40#8, 0x3c#8, 0x5d#8, 0xbc#8, 0x85#8, 0xfd#8, 0x89#8, 0x0d#8, 0xb5#8, 0xa0#8],
   [0xf0#8, 0x0f#8, 0x9a#8, 0x33#8, 0x84#8, 0x8d#8, 0xa4#8, 0x54#8, 0xf6#8, 0xce#8, 0x97#8],
   [0x61#8, 0xde#8, 0x6d#8, 0x81#8, 0xcc#8, 0x95#8, 0x4f#8, 0x2e#8, 0xe6#8, 0x43#8, 0xce#8],
   [0x51#8, 0xdd#8, 0xb4#8, 0x8e#8, 0x13#8, 0xbc#8, 0xc9#8, 0x98#8, 0x23#8, 0x2c#8, 0x47#8]]

theorem gfMulAux_zero (n b : Nat) : gfMulAux n 0 b 0 = 0 := by
  induction n generalizing b with
  | zero => rfl
  | succ n ih => simp [gfMulAux, ih]

theorem gfEval_zeros (n : Nat) (cw : List Nat) (x : Nat) : gfEval (List.replicate n 0 ++ cw) x = gfEval cw x := by
  have h (n : Nat) : List.foldl (fun acc c => gfMul acc x ^^^ c) 0 (List.replicate n 0) = 0 := by
    induction n with
    | zero => rfl
    | succ n ih => simp [List.replicate_succ, gfMul, gfMulAux_zero] at *; exact ih
  simp [gfEval, List.foldl_append, h]

theorem laneDecode_zeros (n : Nat) (hn : n = 228) (t : List Byte) (hl : t.length = 11)
    (h : (rsSyndromes 10 (t.map BitVec.toNat)).all (fun x => x == 0) = true) :
    laneDecode 1 (List.replicate n 0#8 ++ t) = some (List.replicate n 0#8 ++ t.take 1, 0) := by
  have h2 : rsSyndromes 10 ((List.replicate n 0#8 ++ t).map BitVec.toNat) = rsSyndromes 10 (t.map BitVec.toNat) := by
    simp [rsSyndromes, gfEval_zeros]
  have h3 : rsDecode 10 ((List.replicate n 0#8 ++ t).map BitVec.toNat) = some ((List.replicate n 0#8 ++ t).map BitVec.toNat, 0) := by
    unfold rsDecode
    simp only [h2, h, if_true]
  have hm (l : List Byte) : List.map (fun x => BitVec.ofNat 8 x.toNat) l = l := by
    induction l with
    | nil => rfl
    | cons b l _ => simp
  have hk : (List.replicate n 0#8 ++ t).take 229 = List.replicate n 0#8 ++ t.take 1 := by
    rw [List.take_append, List.take_of_length_le (by rw [List.length_replicate]; omega), List.length_replicate, show 229 - n = 1 by omega]
  unfold laneDecode
  have hp : laneParity 1 = 10 := rfl
  have hb : ((List.replicate n 0#8 ++ t).length != 229 + 10) = false := by
    rw [List.length_append, List.length_replicate, hl, hn]; rfl
  simp only [hp, h3, hb, Option.map_some, ← List.map_take, hk, List.map_map, Function.comp_def, hm]
  simp

def idleLanes : List (List Byte) := idleTail.map (fun t => List.replicate 228 0#8 ++ t)

theorem idle_lane (l : Nat) (h : l < 4) :
    laneDecode 1 (idleLanes.getD l []) = some ((idleTail.map (fun t => List.replicate 228 0#8 ++ t.take 1)).getD l [], 0) := by
  have g (t : List Byte) (hl : t.length = 11) (hs : (rsSyndromes 10 (t.map BitVec.toNat)).all (fun x => x == 0) = true) :=
    laneDecode_zeros 228 rfl t hl hs
  have h4 : l = 0 ∨ l = 1 ∨ l = 2 ∨ l = 3 := by omega
  rcases h4 with rfl | rfl | rfl | rfl
  · exact g [0x74#8, 0x40#8, 0x3c#8, 0x5d#8, 0xbc#8, 0x85#8, 0xfd#8, 0x89#8, 0x0d#8, 0xb5#8, 0xa0#8] rfl (by decide +kernel)
  · exact g [0xf0#8, 0x0f#8, 0x9a#8, 0x33#8, 0x84#8, 0x8d#8, 0xa4#8, 0x54#8, 0xf6#8, 0xce#8, 0x97#8] rfl (by decide +kernel)
  · exact g [0x61#8, 0xde#8, 0x6d#8, 0x81#8, 0xcc#8, 0x95#8, 0x4f#8, 0x2e#8, 0xe6#8, 0x43#8, 0xce#8] rfl (by decide +kernel)
  · exact g [0x51#8, 0xdd#8, 0xb4#8, 0x8e#8, 0x13#8, 0xbc#8, 0xc9#8, 0x98#8, 0x23#8, 0x2c#8, 0x47#8] rfl (by decide +kernel)

/-- It comes in order (the port awaits SEQ 0), or again (SEQ 1 is awaited). -/
theorem test_hyp_Frames_receive :
    let ds := idleTail.map (fun t => List.replicate 228 0#8 ++ t.take 1)
    let body := (List.range 916).map (fun i => (ds.getD (i % 4) []).getD (i / 4) 0#8)
    ds.length = 4 ∧ (∀ l, l < 4 → laneDecode (oget (framesS {}) (portIdx 3) 3) (idleLanes.getD l []) = some (ds.getD l [], 0)) ∧
    (crc32 (body.take 912) = leNat (body.drop 912) ∧ (fheadOf (leNat (body.take 12))).seq = (getPort (framesS {}) 3).rxSeq ∧
      (fheadOf (leNat (body.take 12))).seq ≠ (getPort (framesS { rxSeq := 1 }) 3).rxSeq ∧
      oget (framesS { rxSeq := 1 }) (portIdx 3) 3 = oget (framesS {}) (portIdx 3) 3) := by
  have hg : oget (framesS {}) (portIdx 3) 3 = 1 := by decide +kernel
  refine ⟨by decide +kernel, fun l h => ?_, by decide +kernel⟩
  rw [hg]
  exact idle_lane l h

/-! SPDM. -/

/-- A ready device whose endpoint 0 has agreed on its algorithms. -/
def spdmS (xs : List SpdmSess) : State := { srv with spdm := [(0, { stage := 3 })], ssess := xs }

theorem test_hyp_SpdmRequests :
    (serving (spdmS []) = true ∧ spdmOn (spdmS []) 0 = true ∧ (getConn (spdmS []) 0).stage = 3 ∧ (spdmS []).ssess.length < 4) ∧
    (let xs : List SpdmSess := (List.range 4).map (fun i => { id := i, ep := 0 })
     spdmOn (spdmS xs) 0 = true ∧ 4 ≤ (spdmS xs).ssess.length ∧
      (spdmS xs).ssess.find? (fun y => y.id == 2 && y.ep == 0 && !y.up) = some { id := 2, ep := 0 }) ∧
    (let w : SpdmSess := { id := 2, ep := 0, up := true }
     let s := { spdmS [w] with ide := [(1, { keys := [(ideKey 0 1 2, List.replicate 40 7#8)] })] }
     spdmOn s 0 = true ∧ s.ssess.find? (fun y => y.id == 2 && y.ep == 0 && y.up) = some w ∧ ideOk 4 1 1 2 = true ∧ ideOk 1 0 1 2 = true ∧
      s.board.pcieUp = true ∧ (List.replicate 40 7#8 : List Byte).length = 40 ∧
      (tfind (tget {} s.ide 1).keys (ideKey 0 1 2)).isSome = true) := by decide +kernel

theorem test_hyp_SpdmRequests_finish :
    [0#8] ≠ finishMac { id := 2, ep := 0 } := by decide +kernel

/-! The bulk transport. -/

/-- Endpoint 0 of the tables: a DEVICE, without a digest. -/
def bulkS (x : BSess) (kind : Nat := 1) : State :=
  { srv with bulk := [(0, x)], doms := [(okey 0x2051 1, natLe (kind + 2 ^ 16 * 6) 64)] }

def sessB : BSess :=
  { phase := 2, mine := 5, far := 6, keyRx := List.replicate 32 1#8, saltRx := List.replicate 4 2#8 }

/-- A handshake packet of key 7; z is its signature's second half. -/
def handB (ty session z : Nat) : List Byte :=
  bheadBytes { ty := ty, session := session, ack := 2 ^ 48 - 1, len := 196 } ++ natLe 6 4 ++ key7 ++ key7 ++
    natBe 42877656971275811310262564894490210024759287182177196162425349131675946712428 32 ++ natBe z 32 ++ zeros 16

theorem test_hyp_BulkAndStorage_hands :
    (let s := bulkS {}
     serving s = true ∧ epKind s 0 ≠ 0 ∧ s.mgr ≠ some 0 ∧
      [82229220687022578844294617642009045537081953361069235911041808719446232383793, 1].all (fun z =>
        (bheadOf (handB 1 0 z)).any (fun h => h.ty == 1) && (handOk s 0 (handB 1 0 z) == (z != 1))) = true) ∧
    (let s := bulkS { phase := 1, mine := 5, eph := 7 }
     (getB s 0).phase = 1 ∧
      [20767236271207189582033964700249719069847164453525704485346862731609064308849, 1].all (fun z =>
        (bheadOf (handB 2 5 z)).any (fun h => h.ty == 2 && h.session == (getB s 0).mine) && (handOk s 0 (handB 2 5 z) == (z != 1))) = true ∧
      (ecdh (getB s 0).eph (lslice (lslice (handB 2 5 1) 32 196) 68 64)).isSome = true) := by decide +kernel

/-- A sealed packet without payload, with the tag given. -/
def sealedB (ty chan tag : Nat) : List Byte :=
  bheadBytes { ty := ty, chan := chan, session := 5, ack := 2 ^ 48 - 1 } ++ natBe tag 16

/-- The three packets in order: a DATA, an ACK and a CLOSE; and a DATA whose tag is wrong. -/
theorem test_hyp_BulkAndStorage_sealed :
    (getB (bulkS sessB) 0 = sessB ∧ epKind (bulkS sessB) 0 = 1) ∧
    [(3, 1, 0x3bf1e08db6ab91ca8b7e16e1e4166e5d), (4, 0, 0xabd825c759f3a5f9d3f9a5692f56b69c), (5, 0, 0x4261f2cb6176bdfe66b960055cf85dd2), (3, 1, 0)].all
      (fun p => match bheadOf (sealedB p.1 p.2.1 p.2.2) with
        | some h => h.ty == p.1 && h.chan == p.2.1 && h.session == 5 && h.psn == 0 && h.sack == 0 &&
          ((openPkt sessB h (if p.1 == 3 then 0 else 2 ^ 63) (sealedB p.1 p.2.1 p.2.2)).isSome == (p.2.2 != 0))
        | none => false) = true := by decide +kernel

theorem test_hyp_BulkAndStorage_timers :
    (getB (bulkS { sessB with got := 1 }) 0).got = 1 ∧
    (∀ n ∈ [63, 64], tfind (getB (bulkS { sessB with unack := [(9, [], n)] }) 0).unack 9 = some ([], n)) ∧
    (getB (bulkS { sessB with unack := [(9, [], 0)] }) 0).unack ≠ [] ∧ (getB (bulkS { phase := 1 }) 0).phase = 1 := by decide +kernel

/-- A message of STORAGE for step 2, with its length field and what follows. -/
def stoB (op off len : Nat) (bs : List Byte) : List Byte :=
  natLe op 8 ++ natLe 2 8 ++ zeros 4 ++ natLe off 8 ++ natLe len 4 ++ bs

theorem test_hyp_BulkAndStorage_storage :
    let s : State := { bulkS sessB 2 with rcv := { restore := some { epoch := 0, ep := 0, cands := [(2, [])] }, ckptSent := some (0, 2) } }
    let j : State := { bulkS sessB 2 with hasJournal := true, objs := srv.objs ++ [(okey 0x5401 1, 2), (okey 0x5402 2, 1)] }
    (isReady s = true ∧ (getB s 0).phase = 2 ∧ epKind s 0 = 2 ∧ opFormOk (stoB 3 0 0 []) = true ∧ fieldLe (stoB 3 0 0 []) 0 1 = 3 ∧
      fieldLe (stoB 3 0 0 []) 8 8 = 2 ∧ fieldLe (stoB 3 0 0 []) 16 4 = planShard s ∧
      (let b := natLe 3 8 ++ natLe 2 8 ++ natLe 1 4 ++ zeros 12
       opFormOk b = true ∧ fieldLe b 0 1 = 3 ∧ fieldLe b 16 4 ≠ planShard s) ∧
      opFormOk (stoB 5 7 1 [1#8]) = true ∧ (restoreFor s 0 (stoB 5 7 1 [1#8])).isSome = true ∧
      opFormOk (stoB 6 0 0 []) = true ∧ (restoreFor s 0 (stoB 6 0 0 [])).isSome = true ∧ fieldLe (stoB 6 0 0 []) 28 4 = 0 ∧
      0 < (jobKids (planned treeG s)).length ∧ (restoreFor (planned treeG s) 0 (stoB 6 0 0 [])).isSome = true ∧
      opFormOk (stoB 7 0 1 [1#8]) = true ∧ Memory.wf s.mem = true ∧ ¬ (s.hasJournal = true) ∧ opFormOk (stoB 8 0 9 []) = true ∧
      postCheck s 2 9 ≠ 0) ∧
    (j.hasJournal = true ∧ (getJr j 0).estate = 0 ∧ 0 + 1 ≤ oget j 0x5402 2 * 0x100000 ∧ postCheck j 2 9 = 0) := by decide +kernel

/-! Links, resets, boot, the Almanac and the person at the tray. -/

def ethX : State := { srv with objs := srv.objs ++ [(okey 0x2048 3, 1)], eth := [(0, { v4 := [10#8, 0#8, 0#8, 1#8] })] }

/-- An ARP request for 10.0.0.1, sent to every station. -/
def arpQ : List Byte :=
  List.replicate 6 0xFF#8 ++ List.replicate 6 2#8 ++ [8#8, 6#8] ++ [0#8, 1#8, 8#8, 0#8, 6#8, 4#8, 0#8, 1#8] ++ List.replicate 6 2#8 ++
    [10#8, 0#8, 0#8, 2#8] ++ zeros 6 ++ [10#8, 0#8, 0#8, 1#8] ++ zeros 18

theorem test_hyp_LinksUpAndDown :
    (serving ethX = true ∧ ethUp ethX 0 = true ∧
      (let e := ethOf arpQ
       let y := getEth ethX 0
       14 ≤ arpQ.length ∧ e.body.length ≤ max y.mtu 46 ∧ e.vlan = y.vlan ∧ (e.dst.getD 0 0#8).toNat % 2 = 1 ∧ e.ty = 0x0806 ∧
       lslice e.body 0 8 = [0#8, 1#8, 8#8, 0#8, 6#8, 4#8, 0#8, 1#8] ∧ lslice e.body 24 4 = y.v4 ∧ y.v4.all (fun b => b == 0#8) = false ∧
       { ethX with board := { ethX.board with safe := true } }.board.safe = isSafe { ethX with board := { ethX.board with safe := true } })) ∧
    (serving srv = true ∧ ethUp srv 0 = false ∧ srv.board.pllLost.contains (16 + 0) = false ∧ srv.board.pcieUp = true) ∧
    (let s : State := { srv with board := { rstLow := false } }
     s.board.pcieUp = false ∧ s.board.perst = false ∧ s.board.rstLow = false ∧ 2 ≤ oget s 0x2060 1 ∧ s.board.pllLost.contains 32 = false ∧
      serving s = true) := by decide +kernel

theorem test_hyp_ResetsAndClocks :
    (serving rdy = true ∧ isReady rdy = true ∧ inReset rdy = false ∧ rdy.board.boot = false) ∧
    (let s : State := State.reset
     s.board.boot = false ∧ s.board.rstLow = true ∧ s.board.supplies = allSupplies ∧ s.board.refOk = true) ∧
    (let s : State := { State.reset with board := { State.reset.board with rstLow := false, supplies := 0x3FE } }
     s.board.rstLow = false ∧ s.board.supplies ≠ allSupplies ∧ s.board.refOk = true) ∧
    (let s : State := { State.reset with board := { State.reset.board with rstLow := false, refOk := false } }
     s.board.rstLow = false ∧ s.board.supplies = allSupplies ∧ s.board.refOk = false) ∧
    (3 ∈ quadPorts (4 % 4) ∧ (getPort (portS 0 { signal := true, pres := true }) 3).signal = true ∧
      (getPort (portS 0 { signal := true, pres := true }) 3).pres = true ∧ portState (portS 0 { signal := true, pres := true }) 3 = 0) := by
  decide +kernel

/-- The boot at a stage. -/
def bootS (n : Nat) (d4 d5 : Bool := false) : State :=
  { objs := [(okey 0x2060 1, n)], board := { boot := true, done4 := d4, done5 := d5, rstLow := false } }

theorem test_hyp_BootStages :
    ([1, 2, 3, 4, 5, 6].all (fun n => stageRuns (bootS n) n) = true ∧ stageRuns (bootS 4) 5 = true ∧ stageRuns (bootS 5 true) 5 = true ∧
      stageRuns (bootS 4 false true) 4 = true ∧ (bootS 5 true).board.done4 = true) ∧
    ({ } : StageEnd).fail = none ∧ ({ } : StageEnd).cells = [] ∧ ({ } : StageEnd).lanes = [] ∧
    ([1, 2, 3, 4, 5, 6].all (fun n => (stageUnits n).any (fun _ => true)) = true) := by decide +kernel

/-- An RWP object that does not stand at its default. -/
theorem test_hyp_PersistentStoreUnreadable :
    let s : State := { bootS 3 with objs := (bootS 3).objs ++ [(okey 0x5000 2, 1000)] }
    stageRuns s 3 = true ∧ ({ store := false } : StageEnd).fail = none ∧ ({ store := false } : StageEnd).store = false ∧
    isRwp 0x5000 2 = true ∧ oget s 0x5000 2 ≠ objDefault 0x5000 2 := by decide +kernel

theorem test_hyp_AlmanacAndService :
    (serving rdy = true ∧ rdy.alm.capped = false ∧ rdy.board.btn = 0 ∧ drainable (rdyWith [(okey 0x5800 1, 2)]) = true ∧ oget rdy 0x2062 1 = 0 ∧
      (oget rdy 0x2062 5 == 1) ≠ true ∧ memOk rdy 0x1000 4 = true ∧ Memory.wf rdy.mem = true) ∧
    (let s : State := { rdy with alm := { rdy.alm with capped := true, powers := [3000000] }, board := { rdy.board with btn := 1 } }
     serving s = true ∧ s.alm.capped = true ∧ s.alm.late = false ∧ s.alm.fallback ≤ almP100 s ∧ 1 ≤ s.board.btn ∧ s.board.btn ≤ 3) ∧
    (let s : State := { rdyWith [(okey 0x2062 1, 1)] with board := { rdy.board with btn := 3 } }
     serving s = true ∧ drainable s = false ∧ oget s 0x2062 1 = 1) := by decide +kernel

/-! Orders. An order names the device by its identity, a constant without a value, so its signature has no number here: what is shown is
that an order which the job key has signed, whatever the signature is, passes every check. -/

theorem shaRound_length (v : List Word) (kw : Word × Word) (h : v.length = 8) : (shaRound v kw).length = 8 := by
  unfold shaRound
  split
  · rfl
  · exact h

theorem zipAdd_length (a b : List Word) (h : a.length = b.length) : (zipAdd a b).length = a.length := by
  induction a generalizing b with
  | nil => cases b <;> rfl
  | cons x a ih =>
    cases b with
    | nil => simp at h
    | cons y b => simp [zipAdd, ih b (by simpa using h)]

theorem shaBlock_length (v : List Word) (blk : List Byte) (h : v.length = 8) : (shaBlock v blk).length = 8 := by
  have r (ks : List (Word × Word)) (v : List Word) (h : v.length = 8) : (ks.foldl shaRound v).length = 8 := by
    induction ks generalizing v with
    | nil => exact h
    | cons k ks ih => exact ih _ (shaRound_length v k h)
  unfold shaBlock
  rw [zipAdd_length _ _ (by rw [h, r _ _ h]), h]

theorem natBe_length (v n : Nat) : (natBe v n).length = n := by
  induction n generalizing v with
  | zero => rfl
  | succ n ih =>
    have := ih (v / 256)
    simp only [natBe, List.length_reverse] at *
    simp [natLe, this]

theorem sha256_length (m : List Byte) : (sha256 m).length = 32 := by
  have r (bs : List (List Byte)) (v : List Word) (h : v.length = 8) : (bs.foldl shaBlock v).length = 8 := by
    induction bs generalizing v with
    | nil => exact h
    | cons b bs ih => exact ih _ (shaBlock_length v b h)
  have f (v : List Word) : (v.flatMap (fun w => natBe w.toNat 4)).length = 4 * v.length := by
    induction v with
    | nil => rfl
    | cons w v ih => simp only [List.flatMap_cons, List.length_append, natBe_length, List.length_cons, ih]; omega
  simp only [sha256, f, r _ shaInit rfl]

/-- The bytes before and after TARGET of an order for step 1 of job 6: no amendments; one candidate. -/
def orderPre (kind epoch : Nat) : List Byte := natLe 1 2 ++ natLe kind 1 ++ zeros 1 ++ natLe epoch 4 ++ natLe 1 8 ++ natLe 6 8

def orderPost (kind : Nat) : List Byte :=
  List.replicate 32 7#8 ++ zeros 4 ++ natLe (if kind = 7 then 1 else 0) 1 ++ zeros 1603

/-- The identity digest of a device whose identity key is 0, as in these states. -/
def idD : List Byte := sha256 (p256Pub 0)

theorem idDigest_zero (s : State) (h : s.lock.idk = 0) : idDigest s = idD := by rw [idDigest, idKey, h, idD]

def orderB (kind epoch : Nat) : List Byte := orderPre kind epoch ++ idD ++ orderPost kind

theorem idD_length : idD.length = 32 := sha256_length _

theorem orderB_low (k e i n : Nat) (h : i + n ≤ 24) : lslice (orderB k e) i n = lslice (orderPre k e) i n := by
  have hp : (orderPre k e).length = 24 := by simp [orderPre, natLe, zeros]
  simp only [lslice, orderB, List.append_assoc]
  rw [List.drop_append_of_le_length (by omega), List.take_append_of_le_length (by simp [hp]; omega)]

theorem orderB_target (k e : Nat) : lslice (orderB k e) 24 32 = idD := by
  have hp : (orderPre k e).length = 24 := by simp [orderPre, natLe, zeros]
  simp only [lslice, orderB, List.append_assoc]
  rw [List.drop_append, hp, List.drop_of_length_le (by omega), Nat.sub_self, List.nil_append, List.drop_zero,
    List.take_append_of_le_length (by simp [idD_length]), List.take_of_length_le (by simp [idD_length])]

theorem orderB_high (k e i n : Nat) (h : 56 ≤ i) : lslice (orderB k e) i n = lslice (orderPost k) (i - 56) n := by
  have hp : (orderPre k e ++ idD).length = 56 := by simp [orderPre, natLe, zeros, idD_length]
  simp only [lslice, orderB]
  rw [List.drop_append, hp, List.drop_of_length_le (by omega), List.nil_append]

/-- Kind and epoch of the orders shown. -/
def orderKinds : List (Nat × Nat) := [(1, 1), (3, 1), (4, 0), (6, 0), (7, 1)]

theorem orderB_length (k e : Nat) : (orderB k e).length = 1696 := by
  simp only [orderB, orderPre, orderPost, List.length_append, idD_length, natLe, zeros, List.length_replicate, List.length_cons, List.length_nil]

theorem orderB_check (p : Nat × Nat) (h : p ∈ orderKinds) : orderCheck (owned 2) (orderB p.1 p.2) = 0 := by
  have l2 (i n : Nat) (h : i + n ≤ 24) : fieldLe (orderB p.1 p.2) i n = fieldLe (orderPre p.1 p.2) i n := by
    rw [Sys2Proof.Machine.fieldLe, orderB_low _ _ _ _ h, Sys2Proof.Machine.fieldLe]
  have h2 (i n : Nat) (h : 56 ≤ i) : fieldLe (orderB p.1 p.2) i n = fieldLe (orderPost p.1) (i - 56) n := by
    rw [Sys2Proof.Machine.fieldLe, orderB_high _ _ _ _ h, Sys2Proof.Machine.fieldLe]
  have z2 (i n : Nat) (h : 56 ≤ i) : zeroIn (orderB p.1 p.2) i n = zeroIn (orderPost p.1) (i - 56) n := by
    rw [zeroIn, orderB_high _ _ _ _ h, zeroIn]
  have hc : fieldLe (orderPost p.1) (92 - 56) 1 = if p.1 = 7 then 1 else 0 := by
    simp only [orderKinds, List.mem_cons, List.not_mem_nil, or_false] at h
    rcases h with rfl | rfl | rfl | rfl | rfl <;> decide +kernel
  have ho : orderOf (orderB p.1 p.2) =
      ⟨p.1, p.2, 1, 6, idD, List.replicate 32 7#8, 0, 0, [], if p.1 = 7 then [(0, zeros 32)] else [], []⟩ := by
    simp only [Sys2Proof.Machine.orderOf, l2 2 1 (by omega), l2 4 4 (by omega), l2 8 8 (by omega), l2 16 8 (by omega), orderB_target, orderB_high _ _ 56 32 (by omega),
      h2 88 2 (by omega), h2 90 2 (by omega), l2 3 1 (by omega), h2 92 1 (by omega), hc, List.drop_of_length_le (Nat.le_of_eq (orderB_length _ _))]
    have hm : (List.range (if p.1 = 7 then 1 else 0)).map (fun i => (fieldLe (orderB p.1 p.2) (1536 + 40 * i) 8, lslice (orderB p.1 p.2) (1544 + 40 * i) 32)) =
        (List.range (if p.1 = 7 then 1 else 0)).map (fun i => (fieldLe (orderPost p.1) (1480 + 40 * i) 8, lslice (orderPost p.1) (1488 + 40 * i) 32)) := by
      congr 1
      funext i
      rw [h2 _ _ (by omega), orderB_high _ _ _ _ (by omega), show 1536 + 40 * i - 56 = 1480 + 40 * i by omega,
        show 1544 + 40 * i - 56 = 1488 + 40 * i by omega]
    rw [hm]
    clear hm hc z2 h2 l2
    simp only [orderKinds, List.mem_cons, List.not_mem_nil, or_false] at h
    congr 1 <;> rcases h with rfl | rfl | rfl | rfl | rfl <;> decide +kernel
  have hf : orderFormBad (orderB p.1 p.2) = false := by
    simp only [orderFormBad, ho, orderB_length, l2 0 2 (by omega), l2 3 1 (by omega), z2 93 35 (by omega)]
    clear hc z2 h2 l2 ho
    simp only [orderKinds, List.mem_cons, List.not_mem_nil, or_false] at h
    rcases h with rfl | rfl | rfl | rfl | rfl <;> decide +kernel
  have hpl : orderPlanOk (owned 2) (orderB p.1 p.2) = true := by
    have hn : p.1 ≠ 2 ∧ p.1 ≠ 5 := by
      simp only [orderKinds, List.mem_cons, List.not_mem_nil, or_false] at h
      rcases h with rfl | rfl | rfl | rfl | rfl <;> decide
    have hq : (owned 2).plan = none := rfl
    simp [orderPlanOk, ho, hn.1, hn.2, hq]
  have hs : isRank0 (owned 2) = true := by decide +kernel
  simp only [orderCheck, ho, hf, hpl, idDigest_zero (owned 2) rfl, bne_self_eq_false]
  simp only [orderKinds, List.mem_cons, List.not_mem_nil, or_false] at h
  rcases h with rfl | rfl | rfl | rfl | rfl <;> decide +kernel

/-- The signed request with an order. -/
def orderHead : List Byte :=
  natLe 0x51534C52 4 ++ natLe 1 2 ++ zeros 2 ++ natLe 0x5820 2 ++ natLe 1 1 ++ zeros 1 ++ natLe 1696 4 ++ natLe 6 8 ++ natLe 1 8 ++ zeros 32 ++
    natBe 15479242834151348963638374498440435506062508823943564308770880819136539776144 32 ++ zeros 32

theorem test_hyp_OrdersApplied (p : Nat × Nat) (h : p ∈ orderKinds) (sig : List Byte) (hl : sig.length = 64)
    (hs : ecdsaOk key7 (orderHead ++ orderB p.1 p.2) sig = true) :
    let b := orderHead ++ orderB p.1 p.2 ++ sig
    isReady (owned 2) = true ∧ (getEp (owned 2) 0).up = true ∧ (owned 2).lock.running = none ∧ GoodRequest (owned 2) 0x5820 1 b ∧
      (owned 2).rcv.last ≠ signedPayload b ∧ orderCheck (owned 2) (signedPayload b) = 0 ∧ orderKind b = p.1 := by
  have hh : orderHead.length = 128 := by decide +kernel
  have lo (i n : Nat) (hi : i + n ≤ 128) : lslice (orderHead ++ orderB p.1 p.2 ++ sig) i n = lslice orderHead i n := by
    simp only [lslice, List.append_assoc]
    rw [List.drop_append_of_le_length (by omega), List.take_append_of_le_length (by simp [hh]; omega)]
  have lf (i n : Nat) (hi : i + n ≤ 128) : fieldLe (orderHead ++ orderB p.1 p.2 ++ sig) i n = fieldLe orderHead i n := by
    rw [Sys2Proof.Machine.fieldLe, lo _ _ hi, Sys2Proof.Machine.fieldLe]
  have lz (i n : Nat) (hi : i + n ≤ 128) : zeroIn (orderHead ++ orderB p.1 p.2 ++ sig) i n = zeroIn orderHead i n := by
    rw [zeroIn, lo _ _ hi, zeroIn]
  have hlen : fieldLe (orderHead ++ orderB p.1 p.2 ++ sig) 12 4 = 1696 := by rw [lf _ _ (by omega)]; decide +kernel
  have hp : signedPayload (orderHead ++ orderB p.1 p.2 ++ sig) = orderB p.1 p.2 := by
    rw [signedPayload, hlen, lslice, List.append_assoc, List.drop_append, hh, List.drop_of_length_le (by omega)]
    simp only [List.nil_append, Nat.sub_self, List.drop_zero]
    rw [List.take_append_of_le_length (by simp [orderB_length]), List.take_of_length_le (by simp [orderB_length])]
  have hk : orderKind (orderHead ++ orderB p.1 p.2 ++ sig) = p.1 := by
    have : lslice (orderHead ++ orderB p.1 p.2 ++ sig) 130 1 = lslice (orderPre p.1 p.2) 2 1 := by
      rw [← orderB_low _ _ _ _ (by omega)]
      simp only [lslice, List.append_assoc]
      rw [List.drop_append, hh, List.drop_of_length_le (by omega), List.nil_append,
        List.drop_append_of_le_length (by simp [orderB_length]), List.take_append_of_le_length (by rw [List.length_drop, orderB_length]; omega)]
    rw [orderKind, Sys2Proof.Machine.fieldLe, this]
    simp only [orderKinds, List.mem_cons, List.not_mem_nil, or_false] at h
    rcases h with rfl | rfl | rfl | rfl | rfl <;> decide +kernel
  refine ⟨by decide +kernel, by decide +kernel, rfl, ⟨reqCheck_of_good ?_, ?_⟩, ?_, by rw [hp]; exact orderB_check p h, hk⟩
  · have hL : (orderHead ++ orderB p.1 p.2 ++ sig).length = 1888 := by simp [hh, orderB_length, hl]
    have ht : (orderHead ++ orderB p.1 p.2 ++ sig).take (128 + 1696) = orderHead ++ orderB p.1 p.2 :=
      List.take_left' (by simp [hh, orderB_length])
    have hd : lslice (orderHead ++ orderB p.1 p.2 ++ sig) (128 + 1696) 64 = sig := by
      rw [lslice, List.drop_left' (by simp [hh, orderB_length]), List.take_of_length_le (by omega)]
    simp only [reqGood, hlen, ht, hd, hs, hL, lf 0 4 (by omega), lf 4 2 (by omega), lf 8 2 (by omega), lf 10 1 (by omega), lf 16 8 (by omega),
      lz 6 2 (by omega), lz 11 1 (by omega), lz 96 32 (by omega), lz 32 32 (by omega), lo 64 32 (by omega)]
    decide +kernel
  · exact fun e => by
      have := congrArg List.length e
      simp [owned, rdyWith, hh, hl, orderB_length] at this
  · rw [hp]
    exact fun e => by
      have := congrArg List.length e
      simp [owned, rdyWith, orderB_length] at this

/-! A plan, a registration record, a token and an image that pass rest on the device's own constants in the same way. -/

theorem lslice_low (a c : List Byte) (i n : Nat) (h : i + n ≤ a.length) : lslice (a ++ c) i n = lslice a i n := by
  simp only [lslice]
  rw [List.drop_append_of_le_length (by omega), List.take_append_of_le_length (by simp; omega)]

theorem lslice_high (a c : List Byte) (i n : Nat) (h : a.length ≤ i) : lslice (a ++ c) i n = lslice c (i - a.length) n := by
  simp only [lslice]
  rw [List.drop_append, List.drop_of_length_le h, List.nil_append]

theorem lslice_zeros (m i n : Nat) (h : i + n ≤ m) : lslice (zeros m) i n = zeros n := by
  simp only [lslice, zeros, List.drop_replicate, List.take_replicate]
  congr 1
  omega

theorem zeros_all (n : Nat) : (zeros n).all (fun x => x == 0#8) = true := by
  simp [zeros]

theorem zeros_num (n : Nat) : leNat (zeros n) = 0 := by
  induction n with
  | zero => rfl
  | succ n ih =>
    rw [zeros] at *
    rw [List.replicate_succ, leNat, ih]
    rfl

/-- A plan of device 0 alone: 32 bytes, the device's digest, and nothing after it. -/
def planPre : List Byte := natLe 1 2 ++ natLe 0 1 ++ natLe 1 1 ++ natLe 77 8 ++ natLe 3 4 ++ natLe 5 2 ++ zeros 14

def planB : List Byte := planPre ++ idD ++ zeros 3584

theorem planB_length : planB.length = 3648 := by
  simp only [planB, planPre, List.length_append, idD_length, zeros, List.length_replicate, natLe, List.length_cons, List.length_nil]

theorem planB_check : planCheck (owned 1) planB = 0 := by
  have hp : planPre.length = 32 := by decide +kernel
  have hq : (planPre ++ idD).length = 64 := by rw [List.length_append, hp, idD_length]
  have l (i n : Nat) (h : i + n ≤ 32) : lslice planB i n = lslice planPre i n := by
    rw [planB, List.append_assoc, lslice_low _ _ _ _ (by omega)]
  have l0 (i n : Nat) (h : 64 ≤ i ∧ i + n ≤ 3648) : lslice planB i n = zeros n := by
    rw [planB, lslice_high _ _ _ _ (by omega), lslice_zeros _ _ _ (by omega)]
  have f (i n : Nat) (h : i + n ≤ 32) : fieldLe planB i n = fieldLe planPre i n := by rw [Sys2Proof.Machine.fieldLe, l i n h, Sys2Proof.Machine.fieldLe]
  have f0 (i n : Nat) (h : 64 ≤ i ∧ i + n ≤ 3648) : fieldLe planB i n = 0 := by rw [Sys2Proof.Machine.fieldLe, l0 i n h, zeros_num]
  have z (i n : Nat) (h : i + n ≤ 32) : zeroIn planB i n = zeroIn planPre i n := by rw [zeroIn, l i n h, zeroIn]
  have z0 (i n : Nat) (h : 64 ≤ i ∧ i + n ≤ 3648) : zeroIn planB i n = true := by rw [zeroIn, l0 i n h, zeros_all]
  have g : fieldLe planPre 0 2 = 1 ∧ fieldLe planPre 2 1 = 0 ∧ fieldLe planPre 3 1 = 1 ∧ fieldLe planPre 4 8 = 77 ∧ fieldLe planPre 12 4 = 3 ∧
      fieldLe planPre 16 2 = 5 ∧ fieldLe planPre 18 2 = 0 ∧ fieldLe planPre 20 4 = 0 ∧ fieldLe planPre 24 2 = 0 ∧ fieldLe planPre 26 2 = 0 ∧
      fieldLe planPre 28 2 = 0 ∧ zeroIn planPre 30 2 = true := by decide +kernel
  obtain ⟨g0, g1, g2, g3, g4, g5, g6, g7, g8, g9, g10, g11⟩ := g
  have hr : planRanges planB = [(0, 0)] := by
    rw [planRanges, f 3 1 (by omega), g2]
    simp [List.range_succ, f0 64 2 (by omega), f0 66 2 (by omega)]
  have he (p : Nat) (h : p < 32) : portEntry planB (320 + 40 * p) = ⟨false, 0, 0, 0, zeros 32⟩ := by
    simp (disch := omega) only [portEntry, f0, l0]
    rfl
  have hb (p : Nat) (h : p < 32) : portEntryBad planB (320 + 40 * p) = false := by
    simp (disch := omega) only [portEntryBad, f0, z0]
    rfl
  have hps : planPorts planB = List.replicate 32 ⟨false, 0, 0, 0, zeros 32⟩ := by
    rw [planPorts, List.map_congr_left (fun p hp => he p (List.mem_range.mp hp))]
    rfl
  have hpb : (List.range 32).any (fun p => portEntryBad planB (320 + 40 * p)) = false := by
    rw [List.any_eq_false]
    exact fun p hp => by rw [hb p (List.mem_range.mp hp)]; decide
  have ho : planOf planB = ⟨false, 77, 3, 5, 0, 0, 0, [(0, 0)], List.replicate 32 ⟨false, 0, 0, 0, zeros 32⟩, [], [], 0⟩ := by
    simp (disch := omega) only [planOf, hr, hps, planRoutes, f, g1, g3, g4, g5, g6, g7, g8, g9, g10]
    rfl
  have hf : planFormBad planB = false := by
    simp (disch := omega) only [planFormBad, planB_length, hr, hpb, f, z, z0, g0, g1, g2, g5, g9, g10, g11, ho]
    decide +kernel
  have hg : lslice planB 32 32 = idD := by
    rw [planB, List.append_assoc, lslice_high _ _ _ _ (by omega), hp, lslice, List.drop_zero,
      List.take_append_of_le_length (by simp [idD_length]), List.take_of_length_le (by simp [idD_length])]
  have hc : planBodyCheck idD idD ⟨false, 77, 3, 5, 0, 0, 0, [(0, 0)], List.replicate 32 ⟨false, 0, 0, 0, zeros 32⟩, [], [], 0⟩ [] = 0 := by
    unfold planBodyCheck
    simp only [bne_self_eq_false]
    decide +kernel
  simp only [planCheck, hf, ho, hg, idDigest_zero (owned 1) rfl, hc]
  decide +kernel

/-- The signed request with that plan. -/
def planHead : List Byte :=
  natLe 0x51534C52 4 ++ natLe 1 2 ++ zeros 2 ++ natLe 0x2031 2 ++ natLe 1 1 ++ zeros 1 ++ natLe 3648 4 ++ natLe 6 8 ++ natLe 1 8 ++ zeros 32 ++
    natBe 15479242834151348963638374498440435506062508823943564308770880819136539776144 32 ++ zeros 32

theorem test_hyp_SignedRequestsTaken_planned (sig : List Byte) (hl : sig.length = 64) (hs : ecdsaOk key7 (planHead ++ planB) sig = true) :
    let b := planHead ++ planB ++ sig
    (getEp (owned 1) 0).up = true ∧ (owned 1).lock.running = none ∧ isReady (owned 1) = true ∧ GoodRequest (owned 1) 0x2031 1 b ∧
      planCheck (owned 1) (signedPayload b) = 0 := by
  have hh : planHead.length = 128 := by decide +kernel
  have lo (i n : Nat) (hi : i + n ≤ 128) : lslice (planHead ++ planB ++ sig) i n = lslice planHead i n := by
    rw [List.append_assoc, lslice_low _ _ _ _ (by omega)]
  have lf (i n : Nat) (hi : i + n ≤ 128) : fieldLe (planHead ++ planB ++ sig) i n = fieldLe planHead i n := by
    rw [Sys2Proof.Machine.fieldLe, lo _ _ hi, Sys2Proof.Machine.fieldLe]
  have lz (i n : Nat) (hi : i + n ≤ 128) : zeroIn (planHead ++ planB ++ sig) i n = zeroIn planHead i n := by
    rw [zeroIn, lo _ _ hi, zeroIn]
  have hlen : fieldLe (planHead ++ planB ++ sig) 12 4 = 3648 := by rw [lf _ _ (by omega)]; decide +kernel
  have hp : signedPayload (planHead ++ planB ++ sig) = planB := by
    rw [signedPayload, hlen, List.append_assoc, lslice_high _ _ _ _ (by omega), hh, lslice, List.drop_zero,
      List.take_append_of_le_length (by simp [planB_length]), List.take_of_length_le (by simp [planB_length])]
  refine ⟨by decide +kernel, rfl, by decide +kernel, ⟨reqCheck_of_good ?_, nofun⟩, by rw [hp]; exact planB_check⟩
  have hL : (planHead ++ planB ++ sig).length = 3840 := by simp [hh, planB_length, hl]
  have ht : (planHead ++ planB ++ sig).take (128 + 3648) = planHead ++ planB := List.take_left' (by simp [hh, planB_length])
  have hd : lslice (planHead ++ planB ++ sig) (128 + 3648) 64 = sig := by
    rw [lslice_high _ _ _ _ (by simp [hh, planB_length]), List.length_append, hh, planB_length, lslice, List.drop_zero,
      List.take_of_length_le (by omega)]
  simp only [reqGood, hlen, ht, hd, hs, hL, lf 0 4 (by omega), lf 4 2 (by omega), lf 8 2 (by omega), lf 10 1 (by omega), lf 16 8 (by omega),
    lz 6 2 (by omega), lz 11 1 (by omega), lz 96 32 (by omega), lz 32 32 (by omega), lo 64 32 (by omega)]
  decide +kernel

theorem lslice_here (a d c : List Byte) (i n : Nat) (hi : a.length = i) (hn : d.length = n) : lslice (a ++ d ++ c) i n = d := by
  rw [List.append_assoc, lslice_high _ _ _ _ (by omega), hi, Nat.sub_self, lslice, List.drop_zero,
    List.take_append_of_le_length (by omega), List.take_of_length_le (by omega)]

theorem key7_length : key7.length = 64 := by decide +kernel

/-- A debug token under a fused key whose digest is key 7's. -/
theorem test_hyp_KeysTokensAndImages_token (sig : List Byte) (hl : sig.length = 64) (hk : Config.debugKey = sha256 key7)
    (hs : ecdsaOk key7 (natLe 0x47444C52 4 ++ natLe 1 2 ++ natLe 1 2 ++ idD ++ zeros 32 ++ key7) sig = true) :
    tokenCheck { srv with lock := { challenge := zeros 32 } }
      (natLe 0x47444C52 4 ++ natLe 1 2 ++ natLe 1 2 ++ idD ++ zeros 32 ++ key7 ++ sig) = 0 := by
  generalize hp : natLe 0x47444C52 4 ++ natLe 1 2 ++ natLe 1 2 = p at *
  have h8 : p.length = 8 := by subst hp; rfl
  have hd := idD_length
  have h7 := key7_length
  have hz : (zeros 32).length = 32 := by simp [zeros]
  generalize ht : p ++ idD ++ zeros 32 ++ key7 ++ sig = t
  have f (i n : Nat) (h : i + n ≤ 8) : lslice t i n = lslice p i n := by
    subst ht
    simp only [List.append_assoc]
    exact lslice_low _ _ _ _ (by omega)
  have h1 : lslice t 8 32 = idD := by
    subst ht
    simpa only [List.append_assoc] using lslice_here p idD (zeros 32 ++ key7 ++ sig) 8 32 h8 hd
  have h2 : lslice t 40 32 = zeros 32 := by
    subst ht
    simpa only [List.append_assoc] using lslice_here (p ++ idD) (zeros 32) (key7 ++ sig) 40 32 (by simp [h8, hd]) hz
  have h3 : lslice t 72 64 = key7 := by
    subst ht
    exact lslice_here (p ++ idD ++ zeros 32) key7 sig 72 64 (by simp [h8, hd, zeros]) h7
  have h4 : lslice t 136 64 = sig := by
    subst ht
    have := lslice_here (p ++ idD ++ zeros 32 ++ key7) sig [] 136 64 (by simp [h8, hd, zeros, h7]) hl
    simpa only [List.append_nil] using this
  have h5 : ecdsaOk key7 (t.take 136) sig = true := by
    have ha : t.take 136 = p ++ idD ++ zeros 32 ++ key7 := by
      subst ht
      exact List.take_left' (by simp [h8, hd, zeros, h7])
    rw [ha, hs]
  have h6 : t.length = 200 := by subst ht; simp [h8, hd, zeros, h7, hl]
  have g : fieldLe p 0 4 = 0x47444C52 ∧ fieldLe p 4 2 = 1 ∧ fieldLe p 6 1 = 1 ∧ zeroIn p 7 1 = true := by subst hp; decide +kernel
  obtain ⟨g0, g1, g2, g3⟩ := g
  have e (i n : Nat) (h : i + n ≤ 8) : fieldLe t i n = fieldLe p i n := by rw [Sys2Proof.Machine.fieldLe, f i n h, Sys2Proof.Machine.fieldLe]
  have z : zeroIn t 7 1 = zeroIn p 7 1 := by rw [zeroIn, f 7 1 (by omega), zeroIn]
  have hi := idDigest_zero { srv with lock := { challenge := zeros 32 } } rfl
  generalize hw : ({ srv with lock := { challenge := zeros 32 } } : State) = w at *
  have hc : w.lock.challenge = zeros 32 := by rw [← hw]
  simp [tokenCheck, hi, hc, h6, e 0 4 (by omega), e 4 2 (by omega), e 6 1 (by omega), z, g0, g1, g2, g3, h1, h2, h3, h4, h5, hk]

/-- A registration of job 6 under key 7, with the wrapped key that the device accepts. -/
theorem test_hyp_KeysTokensAndImages_register (w sig : List Byte) (hw : w.length = 112) (hl : sig.length = 64)
    (hs : ecdsaOk key7 (natLe 0x4A524C52 4 ++ natLe 1 2 ++ zeros 2 ++ natLe 6 8 ++ idD ++ key7 ++ w) sig = true)
    (hu : (unwrapJsk srv (natLe 0x4A524C52 4 ++ natLe 1 2 ++ zeros 2 ++ natLe 6 8 ++ idD ++ key7 ++ w ++ sig)).isNone = false) :
    isReady srv = true ∧ regCheck srv (natLe 0x4A524C52 4 ++ natLe 1 2 ++ zeros 2 ++ natLe 6 8 ++ idD ++ key7 ++ w ++ sig) = 0 := by
  refine ⟨by decide +kernel, ?_⟩
  generalize hp : natLe 0x4A524C52 4 ++ natLe 1 2 ++ zeros 2 ++ natLe 6 8 = p at *
  have h8 : p.length = 16 := by subst hp; rfl
  have hd := idD_length
  have h7 := key7_length
  generalize ht : p ++ idD ++ key7 ++ w ++ sig = t at *
  have f (i n : Nat) (h : i + n ≤ 16) : lslice t i n = lslice p i n := by
    subst ht
    simp only [List.append_assoc]
    exact lslice_low _ _ _ _ (by omega)
  have h1 : lslice t 16 32 = idD := by
    subst ht
    simpa only [List.append_assoc] using lslice_here p idD (key7 ++ w ++ sig) 16 32 h8 hd
  have h3 : lslice t 48 64 = key7 := by
    subst ht
    simpa only [List.append_assoc] using lslice_here (p ++ idD) key7 (w ++ sig) 48 64 (by simp [h8, hd]) h7
  have h4 : lslice t 224 64 = sig := by
    subst ht
    have := lslice_here (p ++ idD ++ key7 ++ w) sig [] 224 64 (by simp [h8, hd, hw, h7]) hl
    simpa only [List.append_nil] using this
  have h5 : ecdsaOk key7 (t.take 224) sig = true := by
    have ha : t.take 224 = p ++ idD ++ key7 ++ w := by
      subst ht
      exact List.take_left' (by simp [h8, hd, hw, h7])
    rw [ha, hs]
  have h6 : t.length = 288 := by subst ht; simp [h8, hd, hw, h7, hl]
  have g : fieldLe p 0 4 = 0x4A524C52 ∧ fieldLe p 4 2 = 1 ∧ zeroIn p 6 2 = true ∧ fieldLe p 8 8 = 6 := by subst hp; decide +kernel
  obtain ⟨g0, g1, g2, g3⟩ := g
  have e (i n : Nat) (h : i + n ≤ 16) : fieldLe t i n = fieldLe p i n := by rw [Sys2Proof.Machine.fieldLe, f i n h, Sys2Proof.Machine.fieldLe]
  have z : zeroIn t 6 2 = zeroIn p 6 2 := by rw [zeroIn, f 6 2 (by omega), zeroIn]
  have hj : srv.lock.jok.isSome = false ∧ (srv.lock.debug != 0) = false := by decide +kernel
  simp [regCheck, idDigest_zero srv rfl, hj.1, hj.2, h6, e 0 4 (by omega), e 4 2 (by omega), e 8 8 (by omega), z, g0, g1, g2, g3, h1, h3, h4, h5, hu]

/-- An image of one byte under a firmware key whose digest is key 7's. -/
theorem test_hyp_KeysTokensAndImages_image (sig : List Byte) (hl : sig.length = 64) (hr : Config.romDigest.length = 32)
    (hk : Config.fwKey 0 = sha256 key7) (hv : Config.fwRevoked 0 = false) (hf : Config.fusedSvn.val ≤ 64)
    (hs : ecdsaOk key7 (natLe 0x48504C49 4 ++ natLe 1 2 ++ zeros 6 ++ natLe 64 4 ++ Config.romDigest ++
      (natLe 1 4 ++ zeros 12 ++ sha256 [0#8] ++ key7 ++ zeros 96)) sig = true) :
    imageCheck srv (natLe 0x48504C49 4 ++ natLe 1 2 ++ zeros 6 ++ natLe 64 4 ++ Config.romDigest ++
      (natLe 1 4 ++ zeros 12 ++ sha256 [0#8] ++ key7 ++ zeros 96) ++ [0#8] ++ sig) = 0 := by
  generalize hp : natLe 0x48504C49 4 ++ natLe 1 2 ++ zeros 6 ++ natLe 64 4 = p at *
  generalize hq : natLe 1 4 ++ zeros 12 ++ sha256 [0#8] ++ key7 ++ zeros 96 = q at *
  have hpl : p.length = 16 := by subst hp; rfl
  have hql : q.length = 208 := by subst hq; decide +kernel
  generalize ht : p ++ Config.romDigest ++ q ++ [0#8] ++ sig = t
  have f (i n : Nat) (h : i + n ≤ 16) : lslice t i n = lslice p i n := by
    subst ht
    simp only [List.append_assoc]
    exact lslice_low _ _ _ _ (by omega)
  have k (i n : Nat) (h : 48 ≤ i ∧ i + n ≤ 256) : lslice t i n = lslice q (i - 48) n := by
    subst ht
    rw [List.append_assoc, List.append_assoc, lslice_high _ _ _ _ (by simp [hpl, hr]; omega), lslice_low _ _ _ _ (by simp [hpl, hr, hql]; omega)]
    simp [hpl, hr]
  have h1 : lslice t 16 32 = Config.romDigest := by
    subst ht
    simpa only [List.append_assoc] using lslice_here p Config.romDigest (q ++ [0#8] ++ sig) 16 32 hpl hr
  have h2 : lslice t 256 1 = [0#8] := by
    subst ht
    exact lslice_here (p ++ Config.romDigest ++ q) [0#8] sig 256 1 (by simp [hpl, hr, hql]) rfl
  have h3 : lslice t (256 + 1) 64 = sig := by
    subst ht
    have := lslice_here (p ++ Config.romDigest ++ q ++ [0#8]) sig [] (256 + 1) 64 (by simp [hpl, hr, hql]) hl
    simpa only [List.append_nil] using this
  have h5 : ecdsaOk key7 (t.take 256) sig = true := by
    have ha : t.take 256 = p ++ Config.romDigest ++ q := by
      subst ht
      rw [List.append_assoc]
      exact List.take_left' (by simp [hpl, hr, hql])
    rw [ha, hs]
  have h6 : t.length = 321 := by subst ht; simp [hpl, hr, hql, hl]
  have g : leNat (lslice p 0 4) = 0x48504C49 ∧ leNat (lslice p 4 2) = 1 ∧ leNat (lslice p 6 1) = 0 ∧ leNat (lslice p 7 1) = 0 ∧
      leNat (lslice p 12 1) = 64 ∧ (lslice p 13 3).all (fun b => b == 0#8) = true := by subst hp; decide +kernel
  have u : leNat (lslice q 0 4) = 1 ∧ leNat (lslice q 4 4) = 0 ∧ (lslice q 8 8).all (fun b => b == 0#8) = true ∧
      lslice q 48 64 = key7 ∧ (lslice q 112 96).all (fun b => b == 0#8) = true ∧ lslice q 16 32 = sha256 [0#8] := by
    subst hq; decide +kernel
  obtain ⟨g0, g1, g2, g3, g4, g5⟩ := g
  obtain ⟨u0, u1, u2, u3, u4, u5⟩ := u
  have hn : svnFloor srv ≤ 64 := by
    have : srv.lock.svn = 0 := rfl
    simp [svnFloor, this, hf]
  simp [imageCheck, h6, f 0 4 (by omega), f 4 2 (by omega), f 6 1 (by omega), f 7 1 (by omega), f 12 1 (by omega), f 13 3 (by omega),
    k 48 4 (by omega), k 52 4 (by omega), k 56 8 (by omega), k 160 96 (by omega), k 96 64 (by omega), k 64 32 (by omega), g0, g1, g2, g3, g4, g5,
    u0, u1, u2, u3, u4, u5, h1, h2, h3, h5, hk, hv, hn]

/-! Band caps, the MTU and a drain without a role. -/

/-- Two capped corners of one cell: the one whose band holds the temperature now caps it (R379). -/
theorem test_two_capped_bands :
    let q (k : Byte) : List Byte := [7#8, 0#8, 1#8, k, 2#8, 0#8, 0#8, 0#8]
    quarCaps { srv with baro := { quar := [q 18#8, q 19#8] }, alm := { cellT := [(7, 960)] } } = [(7, oget srv 0x7031 2)] := by
  decide +kernel

/-- A DATA packet over IPv4 has 76 bytes of headers and tag (R483). -/
theorem test_mtu_holds :
    let s : State := { srv with doms := [(okey 0x2051 1, natLe (1 + 2 ^ 16 * 4) 64)], eth := [(0, { mtu := 1280 })] }
    mtuHolds s 0 (zeros 1204) = true ∧ mtuHolds s 0 (zeros 1205) = false := by decide +kernel

/-! Moments of a checkpoint, ports that may not train, and keys that go. -/

/-- R374: 2.0 and zeros narrow to the scale of 2 and the codes of 1 and 0, and widen back. -/
theorem test_narrow_widen :
    let b := natLe 0x40000000 4 ++ zeros 124
    narrowBlock (codes32 b) = (128, 0x3F80 :: List.replicate 31 0) ∧ widen 128 (narrow b) = b := by decide +kernel

theorem test_hyp_PortsAndHellos_train :
    (getPort (portS 1 { gens := 6 }) 3).cred = [] ∧ (getPort (portS 1 { gens := 6, cred := [(0, 8)] }) 3).cred ≠ [] ∧
      (getPort (framesS { pres := true, unack := [⟨0, []⟩], resent := 16 }) 3).pres = true ∧
      portLive (framesS { pres := true, unack := [⟨0, []⟩], resent := 16 }) 3 = true ∧
      (getPort (portS 5 { helloOut := true }) 3).helloOut = true ∧ portState (portS 5 { helloOut := true }) 3 ≠ 0 := by decide +kernel

/-- An addition of two words whose second word is poisoned stops there. -/
theorem test_hyp_RequestsAtTheirTarget_poisoned :
    let s : State := { winS with poison := [larderBase / 32 + 1] }
    let x := frm1 3 0 [word 0#8, word 0#8] larderBase (2 * 16)
    let u := takeRx s 3 (rowMsg x)
    Arrives s 3 3 x u (rowMsg x) ∧ (aopOk (atomOf (rowMsg x)).aop = true ∧ aopCas (atomOf (rowMsg x)).aop = false ∧
      reqAddrOk u 3 (rowMsg x) (atomSpan (atomOf (rowMsg x))) true = true ∧
      mustPend u (atomOf (rowMsg x)).addr (atomLen (atomOf (rowMsg x))) = false ∧
      atomTurn u (atomOf (rowMsg x)) (rowMsg x).trk = .go ∧ atomStop u (atomOf (rowMsg x)) = some 1) :=
  ⟨arrives_of (by decide +kernel), by decide +kernel⟩

theorem test_hyp_KeysTokensAndImages_busy :
    let s : State := { srv with lock := { slots := [(0, { state := 1 })] } }
    patchBusy s = true ∧ (getEp s 3).up = true ∧ s.lock.running = none := by decide +kernel

theorem test_hyp_LinksUpAndDown_train : ∃ p, trainedTo State.reset 32 8 = some p := by
  refine Option.isSome_iff_exists.mp ?_
  decide +kernel

theorem test_hyp_ResetsAndClocks_blow :
    State.reset.lock.blow = none ∧
      (let s : State := { lock := { svn := 6, blow := some (5, 0) } }
       s.lock.blow = some (5, 0) ∧ 5 ≤ s.lock.svn) := by decide +kernel

/-- An entry whose two parities both have a tag. -/
theorem test_hyp_StepMarksAndVotes_vrel :
    let s := cellWith 1 {} [] { vt := [(4, { en := true, tags := [(1, 0, 2), (2, 0, 3)] })] }
    Issues s 5 1 hd (.vrel ⟨0#1, 4#6⟩) ∧ (getVt s 5 4).tags = [(1, 0, 2), (2, 0, 3)] :=
  ⟨issues_of (by decide +kernel), by decide +kernel⟩

/-- Each kind of unit a stage can fail with. -/
theorem test_hyp_BootStages_fail :
    [(1, 0), (1, 1), (2, 2), (3, 3), (4, 4), (5, 5)].all (fun p => ({ fail := some (p.2, 3) } : StageEnd).fail == some (p.2, 3) &&
      stageRuns (bootS p.1) p.1) = true ∧
    [1, 2, 3, 4, 5, 6].all (fun n => (stageUnits n).all (fun u => failIxOk n u (failIx u (if u == 3 && n == 1 then 0 else 3)))) = true := by decide +kernel

theorem test_hyp_AlmanacAndService_debug :
    let s : State := { rdy with lock := { rdy.lock with debug := 1 }, board := { rdy.board with btn := 1 } }
    serving s = true ∧ 1 ≤ s.lock.debug ∧ s.board.btn ≤ 3 := by decide +kernel

/-- R460: a record due on the sideband holds ALERT_N low, and an EVACK past it releases the pin. -/
theorem test_alertLow :
    let s : State := { srv with eps := [(2, { up := true, mask := 0x7FF })] }
    let t := raise s 0x0A22 []
    alertLow s = false ∧ alertLow t = true := by decide +kernel

/-- R448: the management entries take four entries of 64 bytes. -/
theorem test_xferMax : xferMax 0x2051 2 .rwp = 256 := by decide +kernel

end Sys2Proof.Tests
end

section
/-! Doorbells and fetching (R475): which writes move TAIL, what a refused one leaves of the object dictionary, and where fetching ends. -/
namespace Sys2Proof.Machine

/-! The objects that raising an event leaves as they were. -/

/-- Not one of the event log's own objects: the record count 0x1F10:02 and the lost-record tallies 0x1F00:04 to 0x1F03:04 (R457, R459). -/
def OutsideEventObjs (i j : Nat) : Prop := okey 0x1F10 2 ≠ okey i j ∧ ∀ e < 4, okey (0x1F00 + e) 4 ≠ okey i j

theorem doorbellTally_outsideEventObjs : OutsideEventObjs 0x2040 9 := by
  unfold OutsideEventObjs okey
  exact ⟨by decide, fun e _ => by omega⟩

theorem oget_of_objs {s t : State} (h : t.objs = s.objs) (i j : Nat) : oget t i j = oget s i j := by
  simp only [oget, h]

@[simp] theorem emitDict_objs (s : State) (e : Nat) (bs : List Byte) : (emitDict s e bs).objs = s.objs := by
  unfold emitDict
  split <;> rfl

@[simp] theorem signalVec_objs (s : State) (v : Nat) : (signalVec s v).objs = s.objs := by
  unfold signalVec
  split <;> rfl

@[simp] theorem pushNotify_objs (s : State) (e : Nat) (rs : List EvRec) : (pushNotify s e rs).objs = s.objs := by
  induction rs generalizing s with
  | nil => rfl
  | cons r rs ih =>
    unfold pushNotify
    dsimp only
    split
    · rfl
    · rw [ih]
      exact emitDict_objs s e _

@[simp] theorem notifyEp_objs (s : State) (e : Nat) (had : Bool) : (notifyEp s e had).objs = s.objs := by
  unfold notifyEp
  dsimp only
  split
  · rfl
  · split
    · exact pushNotify_objs s e _
    · split
      · rfl
      · split
        · exact signalVec_objs s 0
        · split
          · rfl
          · rfl

section
variable {i j : Nat} (h : OutsideEventObjs i j)
include h

theorem oget_logEvent (s : State) (code : Nat) (p : List Nat) : oget (logEvent s code p) i j = oget s i j := by
  unfold logEvent
  dsimp only
  rw [oget_oset_ne _ _ h.1]
  simp only [oget, stamp]

theorem oget_loseRec (s : State) {e : Nat} (he : e < 4) : oget (loseRec s e).1 i j = oget s i j :=
  oget_oset_ne s _ (h.2 e he)

theorem oget_dropHead (s : State) (r : EvRec) : oget (dropHead s r).1 i j = oget s i j := by
  unfold dropHead
  refine List.foldlRecOn (motive := fun q : State × List (Nat × List Nat) => oget q.1 i j = oget s i j) _ _ rfl ?_
  intro q hq e he
  dsimp only
  split
  · rw [oget_loseRec h _ (List.mem_range.mp he), hq]
  · exact hq

theorem oget_makeRoom (n : Nat) (s : State) : oget (makeRoom n s) i j = oget s i j := by
  induction n generalizing s with
  | zero => rfl
  | succ n ih =>
    unfold makeRoom
    dsimp only
    split
    · rfl
    · split
      · exact oget_dropHead h _ _
      · rw [ih]
        refine List.foldlRecOn (motive := fun t => oget t i j = oget s i j) _ _ (oget_dropHead h _ _) ?_
        intro t ht v _
        rw [oget_logEvent h, ih, ht]

/-- An event moves no object but its own. -/
theorem oget_raise (s : State) (code : Nat) (p : List Nat) : oget (raise s code p) i j = oget s i j := by
  have hobjs : (raise s code p).objs = (logEvent (makeRoom 10 s) code p).objs := by simp [raise]
  rw [oget_of_objs hobjs, oget_logEvent h, oget_makeRoom h]

/-- An error tally takes what is counted, whether or not its saturation raises an event (R8). -/
theorem oget_bumpErr_same (s : State) {n : Nat} (hn : n ≠ 0) (ev : Nat) :
    oget (bumpErr s i j n ev) i j = errAdd (oget s i j) n := by
  unfold bumpErr
  rw [if_neg hn]
  dsimp only
  split
  · rw [oget_raise h, oget_oset]
  · rw [oget_oset]

end

theorem SameButReports.cells_eq {s t : State} (h : SameButReports s t) : t.cells = s.cells := by
  rw [show t = _ from h]

theorem SameButReports.mem_eq {s t : State} (h : SameButReports s t) : t.mem = s.mem := by
  rw [show t = _ from h]

/-! The doorbell. -/

/-- The TAIL that a doorbell write of v names: bits 19:0, within the ring. -/
def bellTail (x : Stream) (v : Nat) : Nat := v % 2 ^ 20 % 2 ^ x.log2

/-- R475: TAIL = new stands no nearer to RETAIN, around the ring, than TAIL stands now. -/
def MovesForward (s : State) (x : Stream) (new : Nat) : Prop :=
  (x.tail + 2 ^ x.log2 - retainOf s x % 2 ^ x.log2) % 2 ^ x.log2 ≤ (new + 2 ^ x.log2 - retainOf s x % 2 ^ x.log2) % 2 ^ x.log2

theorem bellTail_lt (x : Stream) (v : Nat) : bellTail x v < 2 ^ x.log2 := Nat.mod_lt _ (Nat.two_pow_pos _)

theorem doorbell_of_forward {s : State} {c k v : Nat} (h : MovesForward s (getStrm s c k) (bellTail (getStrm s c k) v)) :
    doorbell s c k v = setStrm s c k { getStrm s c k with tail := bellTail (getStrm s c k) v } := if_pos h

theorem doorbell_of_not_forward {s : State} {c k v : Nat} (h : ¬ MovesForward s (getStrm s c k) (bellTail (getStrm s c k) v)) :
    doorbell s c k v = bumpErr s 0x2040 9 1 0x1019 := if_neg h

/-- A doorbell that arrives well on a READY device is the doorbell's own meaning, whatever the stream's STATE. -/
theorem exec_doorbell_host {s : State} {sec : Bool} (hr : isReady s = true) (ho : HostOk s sec) (c : CellIx) (st : Strm)
    (v : BitVec 32) : exec (.doorbell (.host sec .good) c st v) s = .next (doorbell s c.val (ixOf st) v.toNat) :=
  congrArg Host.Outcome.next ((if_pos rfl).trans (barGate_host ho (fun _ => hr)))

/-! Fetching to TAIL. -/

theorem fetchSome_at_tail (s : State) {st : Stream} (h : st.head = st.tail) (m : Nat) : fetchSome s st m = st := by
  cases m with
  | zero => rfl
  | succ m => simp [fetchSome, h]

theorem fetchSome_step (s : State) {st : Stream} (ht : st.head ≠ st.tail) (hq : st.queue.length + st.win.length < 512) (m : Nat) :
    fetchSome s st (m + 1) =
      fetchSome s { st with queue := st.queue ++ [qcmdOf s st st.head], head := (st.head + 1) % 2 ^ st.log2 } m := by
  have hroom : ¬ st.queue.length + st.win.length ≥ 512 := by omega
  simp [fetchSome, ht, hroom]

/-- The k entries that follow position p around a ring of n. -/
def ringCmds (s : State) (st : Stream) (n p k : Nat) : List QCmd := (List.range k).map (fun i => qcmdOf s st ((p + i) % n))

theorem ringCmds_succ (s : State) (st : Stream) {n p : Nat} (hp : p < n) (k : Nat) :
    ringCmds s st n p (k + 1) = qcmdOf s st p :: ringCmds s st n ((p + 1) % n) k := by
  simp only [ringCmds, List.range_succ_eq_map, List.map_cons, List.map_map, Nat.add_zero, Nat.mod_eq_of_lt hp, List.cons.injEq,
    true_and]
  refine List.map_congr_left fun i _ => ?_
  simp only [Function.comp_apply, Nat.mod_add_mod]
  congr 2
  omega

/-- A position less than one turn of the ring ahead is another position. -/
theorem ne_ring_ahead {n p k : Nat} (hp : p < n) (hk : k + 1 < n) : p ≠ (p + (k + 1)) % n := by
  intro h
  rcases Nat.lt_or_ge (p + (k + 1)) n with hlt | hge
  · rw [Nat.mod_eq_of_lt hlt] at h
    omega
  · rw [Nat.mod_eq_sub_mod hge, Nat.mod_eq_of_lt (by omega)] at h
    omega

/-- With room for the k entries before TAIL, fetching takes them all in order and HEAD arrives at TAIL. -/
theorem fetchSome_to_tail (s : State) {k : Nat} {st : Stream} {m : Nat} (hh : st.head < 2 ^ st.log2) (hk : k < 2 ^ st.log2)
    (ht : st.tail = (st.head + k) % 2 ^ st.log2) (hroom : st.queue.length + st.win.length + k ≤ 512) (hm : k ≤ m) :
    fetchSome s st m =
      { st with head := (st.head + k) % 2 ^ st.log2, queue := st.queue ++ ringCmds s st (2 ^ st.log2) st.head k } := by
  induction k generalizing st m with
  | zero =>
    have hend : st.head = st.tail := by rw [ht, Nat.add_zero, Nat.mod_eq_of_lt hh]
    rw [fetchSome_at_tail s hend]
    simp [ringCmds, Nat.mod_eq_of_lt hh]
  | succ k ih =>
    obtain ⟨m, rfl⟩ : ∃ m', m = m' + 1 := ⟨m - 1, by omega⟩
    have hne : st.head ≠ st.tail := ht ▸ ne_ring_ahead hh hk
    have hadv : ((st.head + 1) % 2 ^ st.log2 + k) % 2 ^ st.log2 = (st.head + (k + 1)) % 2 ^ st.log2 := by
      rw [Nat.mod_add_mod, Nat.add_assoc, Nat.add_comm 1 k]
    rw [fetchSome_step s hne (by omega), ih]
    · dsimp only
      rw [hadv, ringCmds_succ s st hh, List.append_assoc, List.singleton_append]
      rfl
    · exact Nat.mod_lt _ (Nat.two_pow_pos _)
    · exact Nat.lt_of_succ_lt hk
    · exact ht.trans hadv.symm
    · simp only [List.length_append, List.length_singleton]
      omega
    · omega

/-- From p, (q - p) modulo n positions lead to q. -/
theorem add_ringDistance {n p q : Nat} (hp : p < n) (hq : q < n) : (p + (q + n - p) % n) % n = q := by
  rw [Nat.add_mod_mod, show p + (q + n - p) = q + n by omega, Nat.add_mod_right, Nat.mod_eq_of_lt hq]

theorem exec_streamFetch_live {s : State} {c : CellIx} {st : Strm} {x : Stream} (hr : isReady s = true)
    (hx : getStrm s c.val (ixOf st) = x) (hl : x.mode = .live) :
    exec (.streamFetch c st) s = .next (hbmSeen (setStrm s c.val (ixOf st) (fetchSome (pendView s) x 512))) := by
  refine congrArg Host.Outcome.next ((ifReady_of _ hr).trans ?_)
  simp [streamFetch, hx, hl]

/-- After TAIL is set, a live stream with room fetches up to it. -/
theorem exec_streamFetch_new_tail {s : State} (hr : isReady s = true) (c : CellIx) (st : Strm) {x : Stream} {new : Nat}
    (hl : x.mode = .live) (hh : x.head < 2 ^ x.log2) (hn : new < 2 ^ x.log2)
    (hroom : x.queue.length + x.win.length + (new + 2 ^ x.log2 - x.head) % 2 ^ x.log2 ≤ 512) :
    let s1 := setStrm s c.val (ixOf st) { x with tail := new }
    exec (.streamFetch c st) s1 = .next (hbmSeen (setStrm s1 c.val (ixOf st)
      { x with tail := new, head := new,
               queue := x.queue ++ ringCmds (pendView s1) { x with tail := new } (2 ^ x.log2) x.head
                          ((new + 2 ^ x.log2 - x.head) % 2 ^ x.log2) })) := by
  intro s1
  have hr1 : isReady s1 = true := hr
  rw [exec_streamFetch_live hr1 (getStrm_setStrm s _ _ _) hl,
    fetchSome_to_tail (st := { x with tail := new }) (pendView s1) hh (Nat.mod_lt _ (Nat.two_pow_pos _))
      (add_ringDistance hh hn).symm hroom (Nat.le_trans (Nat.le_add_left _ _) hroom)]
  dsimp only
  rw [add_ringDistance hh hn]

/-- Settles O9: a doorbell is its own meaning once the request has come through; forward from RETAIN it sets TAIL, up to which a live
stream then fetches, and any other counts in 0x2040:09 alone. -/
theorem doorbellMovesTail : Obligations.DoorbellMovesTail := by
  intro s sec c st v hr ho x n new r
  rw [exec_doorbell_host hr ho]
  constructor
  · intro hfwd
    refine ⟨congrArg Host.Outcome.next (doorbell_of_forward hfwd), ?_⟩
    intro hl hh k hroom
    exact exec_streamFetch_new_tail hr c st hl hh (bellTail_lt x v.toNat) hroom
  · intro hback
    have hsame := same_bumpErr s 0x2040 9 1 0x1019
    exact ⟨_, congrArg Host.Outcome.next (doorbell_of_not_forward hback), hsame.cells_eq, hsame.mem_eq,
      oget_bumpErr_same doorbellTally_outsideEventObjs s Nat.one_ne_zero _⟩

end Sys2Proof.Machine
end

section
/-! Ring, position and log registers (R502, R503): which writes are taken, what an ignored one leaves, and where RETAIN then stands. -/
namespace Sys2Proof.Machine

/-! A register's 64-bit write as it arrives. -/

/-- The whole of a register is written, by the host or a carter. -/
def wholeWrite (src : Src) (v : BitVec 64) : RegW := { val := v.toNat, host := fromHost src }

theorem oneReg_wholeWrite {s : State} {src : Src} (h : Reaches s src) (ready : Bool) (f : State → RegW → State) (v : BitVec 64) :
    oneReg s src ready f v.toNat = f s (wholeWrite src v) := by
  rw [oneReg_reaches h, Nat.mod_eq_of_lt v.isLt, wholeWrite]

@[simp] theorem wholeWrite_host (src : Src) (v : BitVec 64) : (wholeWrite src v).host = fromHost src := rfl

theorem rwF_wholeWrite (src : Src) (v : BitVec 64) (i n : Nat) : rwF (wholeWrite src v) i n = v.toNat / 2 ^ i % 2 ^ n := rfl

theorem rwF_wholeWrite_low (src : Src) (v : BitVec 64) (n : Nat) : rwF (wholeWrite src v) 0 n = v.toNat % 2 ^ n := by
  rw [rwF_wholeWrite, Nat.pow_zero, Nat.div_one]

section
variable {s : State} {src : Src} (h : Reaches s src) (c : CellIx) (st : Strm) (v : BitVec 64)
include h

theorem exec_ringConfigWrite_reaches (cfg : Bool) :
    exec (.ringConfigWrite src c st cfg v) s = .next (ringWrite s c.val (ixOf st) cfg (wholeWrite src v)) :=
  congrArg Host.Outcome.next (oneReg_wholeWrite h true _ v)

theorem exec_headWrite_reaches :
    exec (.headWrite src c st v) s = .next (headWrite s c.val (ixOf st) (wholeWrite src v)) :=
  congrArg Host.Outcome.next (oneReg_wholeWrite h true _ v)

theorem exec_exlogRdWrite_reaches :
    exec (.exlogRdWrite src c st v) s = .next (exRdWrite s c.val (ixOf st) (v.toNat % 2 ^ 32)) := by
  rw [← rwF_wholeWrite_low src v 32]
  exact congrArg Host.Outcome.next (oneReg_wholeWrite h true _ v)

end

/-! Which writes are taken. -/

/-- STATE is HALTED or ABORTED. -/
def StrmStopped (s : State) (c k : Nat) : Prop := strmState s c k = 4 ∨ strmState s c k = 5

/-- The stream stands still with nothing between HEAD, TAIL and RETAIN, or is stopped. -/
def RingOpen (s : State) (c k : Nat) : Prop :=
  StrmStopped s c k ∨ (strmState s c k = 0 ∧ (getStrm s c k).head = (getStrm s c k).tail ∧
    (getStrm s c k).head = retainOf s (getStrm s c k))

/-- A RING_LOG2 of 8 to 20. -/
def RingLog2Ok (w : RegW) : Prop := 8 ≤ rwF w 0 5 ∧ rwF w 0 5 ≤ 20

theorem ringLog2Ok_wholeWrite (src : Src) (v : BitVec 64) :
    RingLog2Ok (wholeWrite src v) ↔ 8 ≤ v.toNat % 32 ∧ v.toNat % 32 ≤ 20 := by
  simp only [RingLog2Ok, rwF_wholeWrite_low, Nat.reducePow]

theorem ringFree_iff (s : State) (c k : Nat) : ringFree s c k = true ↔ RingOpen s c k := by
  simp [ringFree, RingOpen, StrmStopped, and_assoc]

theorem ringLog2_refused_iff (w : RegW) : (rwF w 0 5 < 8 || rwF w 0 5 > 20) = true ↔ ¬ RingLog2Ok w := by
  unfold RingLog2Ok
  simp only [Bool.or_eq_true, decide_eq_true_eq]
  omega

/-- The stream once its ring has been placed or sized anew: it begins at position 0 with nothing held from the old ring. -/
def ringRestarted (x : Stream) : Stream :=
  { x with head := 0, tail := 0, bad := false, restarts := [], queue := [], nxt := 0, win := [], broken := none, ahead := [] }

section
variable {s : State} {c k : Nat} (w : RegW)

theorem ringWrite_base_of_open (h : RingOpen s c k) :
    ringWrite s c k false w = setStrm s c k { ringRestarted (getStrm s c k) with base := rwF w 12 36 * 4096 } := by
  simp [ringWrite, (ringFree_iff s c k).mpr h, modStrm, ringRestarted]

theorem ringWrite_cfg_of_open (h : RingOpen s c k) (hl : RingLog2Ok w) :
    ringWrite s c k true w = setStrm s c k { ringRestarted (getStrm s c k) with log2 := rwF w 0 5 } := by
  have hlog : (rwF w 0 5 < 8 || rwF w 0 5 > 20) = false :=
    Bool.eq_false_iff.mpr fun hr => (ringLog2_refused_iff w).mp hr hl
  simp only [ringWrite, (ringFree_iff s c k).mpr h, hlog, modStrm, ringRestarted, Bool.not_true, Bool.and_false, Bool.false_eq_true,
    if_false, if_true]

theorem ringWrite_ignored {cfg : Bool} (h : ¬ RingOpen s c k ∨ (cfg = true ∧ ¬ RingLog2Ok w)) :
    ringWrite s c k cfg w = ringBad s c k w := by
  unfold ringWrite
  by_cases ho : RingOpen s c k
  · obtain ⟨rfl, hl⟩ := h.resolve_left (not_not_intro ho)
    rw [(ringFree_iff s c k).mpr ho, (ringLog2_refused_iff w).mpr hl]
    rfl
  · rw [Bool.eq_false_iff.mpr fun hf => ho ((ringFree_iff s c k).mp hf)]
    rfl

theorem headWrite_of_stopped (h : StrmStopped s c k) :
    headWrite s c k w = setStrm s c k { getStrm s c k with
      head := rwF w 0 20 % 2 ^ (getStrm s c k).log2, bad := false, queue := [], nxt := 0, win := [], ahead := [] } :=
  if_pos (by simpa [StrmStopped] using h)

theorem headWrite_ignored (h : ¬ StrmStopped s c k) : headWrite s c k w = ringBad s c k w :=
  if_neg (by simpa [StrmStopped] using h)

end

/-! What an ignored write leaves: BAD, and the host's count. -/

theorem getStrm_of_cells {s t : State} (h : t.cells = s.cells) (c k : Nat) : getStrm t c k = getStrm s c k := by
  simp only [getStrm, getCell, h]

section
variable (s : State) (c k : Nat) (w : RegW)

/-- But for its count, an ignored write sets BAD and nothing else. -/
theorem same_ringBad : SameButReports (modStrm s c k (fun x => { x with bad := true })) (ringBad s c k w) := by
  unfold ringBad
  dsimp only
  split
  · exact same_bumpErr _ _ _ _ _
  · exact SameButReports.refl _

theorem getStrm_ringBad : getStrm (ringBad s c k w) c k = { getStrm s c k with bad := true } := by
  rw [getStrm_of_cells (same_ringBad s c k w).cells_eq, getStrm_modStrm]

theorem ringBad_mem : (ringBad s c k w).mem = s.mem := (same_ringBad s c k w).mem_eq

theorem oget_ringBad :
    oget (ringBad s c k w) 0x2040 9 = if w.host = true then errAdd (oget s 0x2040 9) 1 else oget s 0x2040 9 := by
  unfold ringBad
  dsimp only
  split
  · rw [oget_bumpErr_same doorbellTally_outsideEventObjs _ Nat.one_ne_zero, oget_of_objs (modStrm_objs s c k _)]
  · exact oget_of_objs (modStrm_objs s c k _) _ _

end

/-! RETAIN after a taken write. -/

/-- A stream that holds no restart point and no command of its ring, and that nothing broke, retains from HEAD. -/
theorem retainOf_of_nothing_held (s : State) {x : Stream} (hr : x.restarts = []) (hq : x.queue = []) (hw : x.win = [])
    (hf : x.fly = []) (hb : x.broken = none) : retainOf s x = x.head := by
  have hnone : s.steps.findSome? (fun t => x.restarts.find? (fun r => r.step == t.num)) = none := by simp [hr]
  simp [retainOf, hnone, oldestPos, oldestOf, hq, hw, hf, hb]

/-- What R502 has a taken write of RING_BASE or RING_CFG leave of stream k of cell c, in going from s to t. -/
def RingCleared (s t : State) (c k : Nat) : Prop :=
  (getStrm t c k).head = 0 ∧ (getStrm t c k).tail = 0 ∧
    ((getStrm s c k).fly = [] → retainOf t (getStrm t c k) = 0) ∧ (getStrm t c k).bad = false ∧ t.mem = s.mem ∧
    oget t 0x2040 9 = oget s 0x2040 9

/-- Whatever place b and size n the ring is given, restarting it clears HEAD, TAIL and RETAIN. -/
theorem ringCleared_of_restarted (s : State) (c k b n : Nat) :
    RingCleared s (setStrm s c k { ringRestarted (getStrm s c k) with base := b, log2 := n }) c k := by
  unfold RingCleared
  rw [getStrm_setStrm]
  exact ⟨rfl, rfl, fun hfly => retainOf_of_nothing_held _ rfl rfl rfl hfly rfl, rfl, rfl, oget_of_objs rfl _ _⟩

/-! EXLOG_RD. -/

/-- R503: a write moves RD when it counts no further than WR, modulo 2^32, and leaves it otherwise. -/
theorem exRdWrite_eq (s : State) (c k v : Nat) :
    exRdWrite s c k v = setStrm s c k { getStrm s c k with exRd :=
      if (v + 2 ^ 32 - (getStrm s c k).exRd) % 2 ^ 32 ≤ ((getStrm s c k).exWr + 2 ^ 32 - (getStrm s c k).exRd) % 2 ^ 32
      then v % 2 ^ 32 else (getStrm s c k).exRd } := by
  unfold exRdWrite modStrm
  dsimp only
  split <;> rfl

/-- Settles O8: each register's write is taken exactly in its open states; a taken one restarts the ring or moves HEAD, and an ignored
one is BAD and its count alone. -/
theorem ringAndLogRegisters : Obligations.RingAndLogRegisters := by
  constructor
  · intro s src c st v hreach k x stopped free cleared ignored
    have hbad : ignored (ringBad s c.val k (wholeWrite src v)) :=
      ⟨getStrm_ringBad s c.val k _, ringBad_mem s c.val k _, oget_ringBad s c.val k _⟩
    have hlog := ringLog2Ok_wholeWrite src v
    simp only [exec_ringConfigWrite_reaches hreach, exec_headWrite_reaches hreach]
    refine ⟨fun hfree => ⟨?_, fun hlo hhi => ?_⟩, fun cfg hno => ?_, fun hstop => ?_, fun hrun => ?_⟩
    · refine ⟨_, congrArg Host.Outcome.next (ringWrite_base_of_open _ hfree), ringCleared_of_restarted s c.val k _ _, ?_⟩
      rw [getStrm_setStrm]
      exact ⟨rfl, rfl⟩
    · refine ⟨_, congrArg Host.Outcome.next (ringWrite_cfg_of_open _ hfree (hlog.mpr ⟨hlo, hhi⟩)),
        ringCleared_of_restarted s c.val k _ _, ?_⟩
      rw [getStrm_setStrm]
      exact ⟨rwF_wholeWrite_low src v 5, rfl⟩
    · refine ⟨_, congrArg Host.Outcome.next (ringWrite_ignored _ ?_), hbad⟩
      exact hno.imp_right fun ⟨hcfg, hout⟩ => ⟨hcfg, fun hl => hout (hlog.mp hl)⟩
    · refine ⟨_, congrArg Host.Outcome.next (headWrite_of_stopped _ hstop), ?_⟩
      rw [getStrm_setStrm, rwF_wholeWrite_low]
      exact ⟨rfl, rfl, rfl, rfl⟩
    · exact ⟨_, congrArg Host.Outcome.next (headWrite_ignored _ hrun), hbad⟩
  · intro s src c st v hreach x
    rw [exec_exlogRdWrite_reaches hreach, exRdWrite_eq, Nat.mod_mod]

end Sys2Proof.Machine
end

section
/-! A persistent store that cannot be read (R528): what the log keeps while more events come, what a key filter leaves of a table, and
what the Steward's start moves once the store is loaded. -/
namespace Sys2Proof.Machine

/-! The log: nothing written and nothing lost. -/

/-- The object is not the state of a port. -/
def NotPortState (i j : Nat) : Prop := ∀ p < 32, okey (portIdx p) 2 ≠ okey i j

theorem lostTally_notPortState {e : Nat} (_ : e < 4) : NotPortState (0x1F00 + e) 4 := by
  intro p hp
  unfold okey portIdx
  omega

/-- No record is written or lost on the way from s to t, and of the board and the objects only the states of ports move. -/
structure LogsNothing (s t : State) : Prop where
  evLog : t.evLog = s.evLog
  lostRun : ∀ e, (getEp t e).lostRun = (getEp s e).lostRun
  board : t.board = s.board
  objs : ∀ i j, NotPortState i j → oget t i j = oget s i j

theorem LogsNothing.trans {s t u : State} (h : LogsNothing s t) (k : LogsNothing t u) : LogsNothing s u where
  evLog := k.evLog.trans h.evLog
  lostRun e := (k.lostRun e).trans (h.lostRun e)
  board := k.board.trans h.board
  objs i j hij := (k.objs i j hij).trans (h.objs i j hij)

/-- A state with the same log, endpoints, board and objects. -/
theorem LogsNothing.of_fields {s t : State} (hl : t.evLog = s.evLog) (he : t.eps = s.eps) (hb : t.board = s.board)
    (ho : t.objs = s.objs) : LogsNothing s t where
  evLog := hl
  lostRun e := congrArg (fun x => (tget {} x e).lostRun) he
  board := hb
  objs i j _ := oget_of_objs ho i j

theorem LogsNothing.refl (s : State) : LogsNothing s s := .of_fields rfl rfl rfl rfl

theorem logsNothing_setEp (s : State) {e : Nat} {x : Endpoint} (hx : x.lostRun = (getEp s e).lostRun) :
    LogsNothing s (setEp s e x) where
  evLog := rfl
  lostRun d := by
    by_cases h : e = d
    · subst h
      rw [getEp_setEp, hx]
    · rw [getEp_setEp_ne s x h]
  board := rfl
  objs _ _ _ := rfl

theorem logsNothing_emitDict (s : State) (e : Nat) (bs : List Byte) : LogsNothing s (emitDict s e bs) := by
  unfold emitDict
  split
  · exact .of_fields rfl rfl rfl rfl
  · exact .of_fields rfl rfl rfl rfl

theorem logsNothing_signalVec (s : State) (v : Nat) : LogsNothing s (signalVec s v) := by
  unfold signalVec
  split
  · exact .of_fields rfl rfl rfl rfl
  · exact .of_fields rfl rfl rfl rfl

theorem logsNothing_pushNotify (s : State) (e : Nat) (rs : List EvRec) : LogsNothing s (pushNotify s e rs) := by
  induction rs generalizing s with
  | nil => exact .refl s
  | cons r rs ih =>
    unfold pushNotify
    dsimp only
    split
    · exact .refl s
    · have hsent := logsNothing_emitDict s e
        (dictHdr 0x30 0 0 0 0 (if (getEp s e).lostNext then 2 else 0) 0 64 ++ evBytes r)
      refine LogsNothing.trans ?_ (ih _)
      exact hsent.trans (logsNothing_setEp _ (hsent.lostRun e).symm)

theorem logsNothing_notifyEp (s : State) (e : Nat) (had : Bool) : LogsNothing s (notifyEp s e had) := by
  unfold notifyEp
  dsimp only
  split
  · exact .refl s
  · split
    · exact logsNothing_pushNotify s e _
    · split
      · exact .refl s
      · split
        · exact logsNothing_signalVec s 0
        · split
          · exact .of_fields rfl rfl rfl rfl
          · exact .refl s

/-! The log: how many records a report can cost. The loss of a record raises an event the first time in an endpoint's run of losses and
once when the endpoint's tally sticks (R459, R8), and neither again. -/

/-- Events that losses to endpoint e may still raise. -/
def lossEventsLeft (s : State) (e : Nat) : Nat :=
  (if (getEp s e).lostRun then 0 else 1) + (if oget s (0x1F00 + e) 4 = 0xFFFFFFFF then 0 else 1)

/-- Events that losses to any endpoint may still raise. -/
def allLossEventsLeft (s : State) : Nat :=
  lossEventsLeft s 0 + lossEventsLeft s 1 + lossEventsLeft s 2 + lossEventsLeft s 3

theorem lossEventsLeft_le (s : State) (e : Nat) : lossEventsLeft s e ≤ 2 := by
  unfold lossEventsLeft
  split <;> split <;> decide

theorem allLossEventsLeft_le (s : State) : allLossEventsLeft s ≤ 8 := by
  have h := lossEventsLeft_le s
  have h0 := h 0
  have h1 := h 1
  have h2 := h 2
  have h3 := h 3
  unfold allLossEventsLeft
  omega

theorem allLossEventsLeft_congr {s t : State} (hrun : ∀ e, (getEp t e).lostRun = (getEp s e).lostRun)
    (htally : ∀ e < 4, oget t (0x1F00 + e) 4 = oget s (0x1F00 + e) 4) : allLossEventsLeft t = allLossEventsLeft s := by
  have h : ∀ e < 4, lossEventsLeft t e = lossEventsLeft s e := by
    intro e he
    rw [lossEventsLeft, hrun, htally e he, lossEventsLeft]
  rw [allLossEventsLeft, h 0 (by decide), h 1 (by decide), h 2 (by decide), h 3 (by decide), allLossEventsLeft]

/-- What a loss raises at its endpoint is one less to be raised there. -/
theorem lossEventsLeft_loseRec (s : State) (e : Nat) :
    lossEventsLeft (loseRec s e).1 e + (loseRec s e).2.length = lossEventsLeft s e := by
  have hrun : (getEp (loseRec s e).1 e).lostRun = true := by simp [loseRec]
  have htally : oget (loseRec s e).1 (0x1F00 + e) 4 = errAdd (oget s (0x1F00 + e) 4) 1 := oget_oset s _ _ _
  rw [lossEventsLeft, hrun, htally, lossEventsLeft]
  unfold loseRec
  by_cases hs : oget s (0x1F00 + e) 4 = 0xFFFFFFFF
  · cases h : (getEp s e).lostRun <;> simp [h, hs, errAdd]
  · by_cases ha : errAdd (oget s (0x1F00 + e) 4) 1 = 0xFFFFFFFF
    · cases h : (getEp s e).lostRun <;> simp [h, hs, ha]
    · cases h : (getEp s e).lostRun <;> simp [h, hs, ha]

theorem lossEventsLeft_loseRec_ne (s : State) {e d : Nat} (h : e ≠ d) :
    lossEventsLeft (loseRec s e).1 d = lossEventsLeft s d := by
  have hkey : okey (0x1F00 + e) 4 ≠ okey (0x1F00 + d) 4 := by
    unfold okey
    omega
  have htally : oget (loseRec s e).1 (0x1F00 + d) 4 = oget s (0x1F00 + d) 4 := oget_oset_ne s _ hkey
  have hep : getEp (loseRec s e).1 d = getEp s d := getEp_setEp_ne _ _ h
  rw [lossEventsLeft, htally, hep, lossEventsLeft]

theorem allLossEventsLeft_loseRec (s : State) {e : Nat} (he : e < 4) :
    allLossEventsLeft (loseRec s e).1 + (loseRec s e).2.length = allLossEventsLeft s := by
  have h (d : Nat) : (e = d → lossEventsLeft (loseRec s e).1 d + (loseRec s e).2.length = lossEventsLeft s d) ∧
      (e ≠ d → lossEventsLeft (loseRec s e).1 d = lossEventsLeft s d) :=
    ⟨fun hd => hd ▸ lossEventsLeft_loseRec s e, lossEventsLeft_loseRec_ne s⟩
  have h0 := h 0
  have h1 := h 1
  have h2 := h 2
  have h3 := h 3
  unfold allLossEventsLeft
  omega

/-- The oldest record leaves the log, and each event that its loss raises is one less to be raised. -/
theorem dropHead_spec (s : State) (r : EvRec) :
    (dropHead s r).1.evLog = s.evLog.drop 1 ∧
      allLossEventsLeft (dropHead s r).1 + (dropHead s r).2.length = allLossEventsLeft s := by
  unfold dropHead
  refine List.foldlRecOn (motive := fun q : State × List (Nat × List Nat) =>
    q.1.evLog = s.evLog.drop 1 ∧ allLossEventsLeft q.1 + q.2.length = allLossEventsLeft s) _ _ ⟨rfl, rfl⟩ ?_
  rintro q ⟨hlog, hleft⟩ e he
  dsimp only
  split
  · have hone := allLossEventsLeft_loseRec q.1 (List.mem_range.mp he)
    refine ⟨hlog, ?_⟩
    dsimp only
    rw [List.length_append]
    omega
  · exact ⟨hlog, hleft⟩

/-- A record with the code stays in the log of 1,024 while `owed` more events are written, with all that their losses raise: each writes
one record behind it and takes at most one from the front. -/
def Holds (code owed : Nat) (s : State) : Prop :=
  ∃ older r newer, s.evLog = older ++ r :: newer ∧ r.code = code ∧ newer.length + allLossEventsLeft s + owed ≤ 1022

theorem Holds.mem {code owed : Nat} {s : State} (h : Holds code owed s) : ∃ r ∈ s.evLog, r.code = code := by
  obtain ⟨older, r, newer, hlog, hcode, _⟩ := h
  exact ⟨r, by simp [hlog], hcode⟩

theorem Holds.of_logsNothing {code owed : Nat} {s t : State} (h : Holds code owed s) (k : LogsNothing s t) : Holds code owed t := by
  obtain ⟨older, r, newer, hlog, hcode, hroom⟩ := h
  refine ⟨older, r, newer, k.evLog.trans hlog, hcode, ?_⟩
  rwa [allLossEventsLeft_congr k.lostRun fun e he => k.objs _ _ (lostTally_notPortState he)]

theorem allLossEventsLeft_oset (s : State) {i j : Nat} (h : ∀ e < 4, okey i j ≠ okey (0x1F00 + e) 4) (v : Nat) :
    allLossEventsLeft (oset s i j v) = allLossEventsLeft s :=
  allLossEventsLeft_congr (fun _ => rfl) fun e he => oget_oset_ne s v (h e he)

/-- The boot stage is no tally of lost records. -/
theorem Holds.after_stage {code owed : Nat} {s : State} (h : Holds code owed s) (v : Nat) :
    Holds code owed (oset s 0x2060 1 v) := by
  have hkey : ∀ e < 4, okey 0x2060 1 ≠ okey (0x1F00 + e) 4 := by
    unfold okey
    omega
  obtain ⟨older, r, newer, hlog, hcode, hroom⟩ := h
  exact ⟨older, r, newer, hlog, hcode, by rwa [allLossEventsLeft_oset s hkey]⟩

theorem allLossEventsLeft_logEvent (s : State) (code : Nat) (p : List Nat) :
    allLossEventsLeft (logEvent s code p) = allLossEventsLeft s := by
  have hkey : ∀ e < 4, okey 0x1F10 2 ≠ okey (0x1F00 + e) 4 := by
    unfold okey
    omega
  unfold logEvent
  dsimp only
  rw [allLossEventsLeft_oset _ hkey]
  exact allLossEventsLeft_congr (fun e => by simp only [getEp, stamp_eps]) fun e _ => by simp only [oget, stamp_objs]

/-- The record that an event writes stands last in the log. -/
theorem logEvent_evLog (s : State) (code : Nat) (p : List Nat) :
    ∃ r, r.code = code ∧ (logEvent s code p).evLog = (s.evLog ++ [r]).drop (s.evLog.length + 1 - 1024) := by
  unfold logEvent
  simp only [oset_evLog, stamp_evLog]
  exact ⟨_, rfl, rfl⟩

theorem holds_logEvent_new (s : State) (code : Nat) (p : List Nat) : Holds code 1 (logEvent s code p) := by
  obtain ⟨r, hcode, hlog⟩ := logEvent_evLog s code p
  refine ⟨_, r, [], hlog.trans (List.drop_append_of_le_length (by omega)), hcode, ?_⟩
  have hle := allLossEventsLeft_le (logEvent s code p)
  simp only [List.length_nil]
  omega

theorem Holds.after_logEvent {code owed : Nat} {s : State} (h : Holds code (owed + 1) s) (c : Nat) (p : List Nat) :
    Holds code owed (logEvent s c p) := by
  obtain ⟨older, r, newer, hlog, hcode, hroom⟩ := h
  obtain ⟨x, _, hnew⟩ := logEvent_evLog s c p
  have hlen : s.evLog.length = older.length + (newer.length + 1) := by simp [hlog]
  refine ⟨older.drop (s.evLog.length + 1 - 1024), r, newer ++ [x], ?_, hcode, ?_⟩
  · rw [hnew, ← List.drop_append_of_le_length (by omega), hlog, List.append_assoc, List.cons_append]
  · rw [allLossEventsLeft_logEvent, List.length_append, List.length_singleton]
    omega

theorem Holds.after_dropHead {code owed : Nat} {s : State} (h : Holds code owed s) (hfull : 1024 ≤ s.evLog.length) (x : EvRec) :
    Holds code (owed + (dropHead s x).2.length) (dropHead s x).1 := by
  obtain ⟨older, r, newer, hlog, hcode, hroom⟩ := h
  obtain ⟨hdrop, hleft⟩ := dropHead_spec s x
  have hlen : s.evLog.length = older.length + (newer.length + 1) := by simp [hlog]
  refine ⟨older.drop 1, r, newer, ?_, hcode, by omega⟩
  rw [hdrop, hlog, List.drop_append_of_le_length (by omega)]

/-- Writing events, each after a step that keeps the record, keeps it. -/
theorem Holds.after_events {code owed : Nat} {f : State → State} (hf : ∀ {n t}, Holds code n t → Holds code n (f t))
    (l : List (Nat × List Nat)) {s : State} (h : Holds code (owed + l.length) s) :
    Holds code owed (l.foldl (fun s v => logEvent (f s) v.1 v.2) s) := by
  induction l generalizing s with
  | nil => exact h
  | cons v l ih => exact ih ((hf h).after_logEvent v.1 v.2)

theorem Holds.after_makeRoom {code owed : Nat} {s : State} (h : Holds code owed s) (n : Nat) : Holds code owed (makeRoom n s) := by
  induction n generalizing s owed with
  | zero => exact h
  | succ n ih =>
    unfold makeRoom
    dsimp only
    split
    · exact h
    · next x hx =>
      have hfull : 1024 ≤ s.evLog.length := by
        refine Nat.le_of_not_lt fun hless => ?_
        rw [if_pos hless] at hx
        cases hx
      have hdrop := h.after_dropHead hfull x
      split
      · next hnone =>
        rwa [List.isEmpty_iff.mp hnone, List.length_nil, Nat.add_zero] at hdrop
      · exact ih (Holds.after_events ih _ hdrop)

/-- Once its record is written, an event notifies the endpoints and writes nothing more. -/
theorem raise_logsNothing (s : State) (code : Nat) (p : List Nat) :
    LogsNothing (logEvent (makeRoom 10 s) code p) (raise s code p) := by
  unfold raise
  dsimp only
  refine LogsNothing.trans ?_ (logsNothing_notifyEp _ _ _)
  refine LogsNothing.trans ?_ (logsNothing_notifyEp _ _ _)
  exact (logsNothing_notifyEp _ _ _).trans (logsNothing_notifyEp _ _ _)

/-- The record of an event outlasts one more event. -/
theorem holds_raise_new (s : State) (code : Nat) (p : List Nat) : Holds code 1 (raise s code p) :=
  (holds_logEvent_new _ code p).of_logsNothing (raise_logsNothing s code p)

theorem Holds.after_raise {code owed : Nat} {s : State} (h : Holds code (owed + 1) s) (c : Nat) (p : List Nat) :
    Holds code owed (raise s c p) :=
  ((h.after_makeRoom 10).after_logEvent c p).of_logsNothing (raise_logsNothing s c p)

/-! The watch of SVC_SAFE and the LED. -/

theorem watchSafe_board (s : State) :
    (watchSafe s).board = { s.board with safe := (watchSafe s).board.safe, led := (watchSafe s).board.led } := by
  rw [watchSafe_watched s]
  rfl

/-- The LED is no part of the log or the objects. -/
theorem watchSafe_evLog_objs (s : State) : (watchSafe s).evLog = (raiseSafe s).evLog ∧ (watchSafe s).objs = (raiseSafe s).objs := by
  unfold watchSafe
  dsimp only
  split
  · exact ⟨rfl, rfl⟩
  · exact ⟨rfl, rfl⟩

/-- SVC_SAFE is one event at most. -/
theorem raiseSafe_cases (s : State) : ∃ b, raiseSafe s = { s with board := b } ∨ raiseSafe s = raise { s with board := b } 0x1115 [] := by
  unfold raiseSafe
  split
  · exact ⟨s.board, .inl rfl⟩
  · dsimp only
    split
    · exact ⟨_, .inr rfl⟩
    · exact ⟨_, .inl rfl⟩

theorem oget_watchSafe {i j : Nat} (h : OutsideEventObjs i j) (s : State) : oget (watchSafe s) i j = oget s i j := by
  rw [oget_of_objs (watchSafe_evLog_objs s).2]
  obtain ⟨b, hs | hs⟩ := raiseSafe_cases s
  · rw [hs]
    rfl
  · rw [hs, oget_raise h]
    rfl

theorem mem_evLog_watchSafe {code : Nat} {s : State} (h : Holds code 1 s) : ∃ r ∈ (watchSafe s).evLog, r.code = code := by
  rw [(watchSafe_evLog_objs s).1]
  have hb (b) : Holds code 1 { s with board := b } := h
  obtain ⟨b, hs | hs⟩ := raiseSafe_cases s
  · rw [hs]
    exact (hb b).mem
  · rw [hs]
    exact ((hb b).after_raise 0x1115 []).mem

/-! Loading the persistent store. -/

/-- A filter on keys leaves what it keeps and gives the default elsewhere. -/
theorem tget_filter_key {α : Type} (d : α) (keep : Nat → Bool) (t : Tab α) (i : Nat) :
    tget d (t.filter (fun q => keep q.1)) i = if keep i then tget d t i else d := by
  induction t with
  | nil => simp
  | cons q t ih =>
    obtain ⟨k, v⟩ := q
    by_cases hk : keep k = true
    · simp only [List.filter_cons, hk, if_true]
      by_cases hi : k = i
      · subst hi
        simp [tget, hk]
      · simp [tget, hi, ih]
    · simp only [List.filter_cons, hk, Bool.false_eq_true, if_false, ih]
      by_cases hi : k = i
      · subst hi
        simp [hk]
      · simp [tget, hi]

/-- The two parts of an object's key. -/
theorem okey_parts (i : Nat) {j : Nat} (hj : j < 256) : okey i j / 256 = i ∧ okey i j % 256 = j := by
  unfold okey
  omega

/-- An object that is not kept across power cycles is none of those that are. -/
theorem okey_ne_of_isRwp {i j a b : Nat} (hj : j < 256) (hb : b < 256) (hij : isRwp i j = true) (hab : isRwp a b = false) :
    okey a b ≠ okey i j := by
  intro h
  obtain ⟨rfl, rfl⟩ := (okey_inj hb hj).mp h
  exact Bool.false_ne_true (hab.symm.trans hij)

section
variable {i j : Nat} (hj : j < 256) (h : isRwp i j = true)
include hj h

theorem outsideEventObjs_of_isRwp : OutsideEventObjs i j := by
  have hlost : ∀ e < 4, isRwp (0x1F00 + e) 4 = false := by decide +kernel
  exact ⟨okey_ne_of_isRwp hj (by decide) h (by decide +kernel), fun e he => okey_ne_of_isRwp hj (by decide) h (hlost e he)⟩

theorem notPortState_of_isRwp : NotPortState i j := by
  have hport : ∀ p < 32, isRwp (portIdx p) 2 = false := by decide +kernel
  exact fun p hp => okey_ne_of_isRwp hj (by decide) h (hport p hp)

end

/-- Every RWP object stands at its default and the store is empty. -/
def rwpCleared (s : State) : State :=
  { s with objs := s.objs.filter (fun q => !isRwp (q.1 / 256) (q.1 % 256)),
           doms := s.doms.filter (fun q => !isRwp (q.1 / 256) (q.1 % 256)),
           board := { s.board with rwp := [], rwpDom := [], defaults := false } }

theorem oget_rwpCleared (s : State) (i : Nat) {j : Nat} (hj : j < 256) :
    oget (rwpCleared s) i j = if isRwp i j = true then objDefault i j else oget s i j := by
  have hget := tget_filter_key (objDefault i j) (fun k => !isRwp (k / 256) (k % 256)) s.objs (okey i j)
  obtain ⟨hidx, hsub⟩ := okey_parts i hj
  rw [hidx, hsub] at hget
  unfold oget rwpCleared
  rw [hget]
  cases isRwp i j <;> rfl

/-- The state in which the event 0x1119 of an unreadable store is raised. -/
def storeDefaulted (s : State) : State :=
  let s1 := oset (rwpCleared s) 0x2020 2 (oget (rwpCleared s) 0x2020 1)
  if s.board.defaults then raise s1 0x0715 [] else s1

theorem loadStore_unreadable (s : State) : loadStore s false = raise (storeDefaulted s) 0x1119 [] := rfl

theorem SameButReports.board_eq {s t : State} (h : SameButReports s t) : t.board = s.board := by
  rw [show t = _ from h]

theorem storeDefaulted_board (s : State) : (storeDefaulted s).board = (rwpCleared s).board := by
  unfold storeDefaulted
  dsimp only
  split
  · exact (same_raise _ _ _).board_eq
  · rfl

theorem oget_storeDefaulted {i j : Nat} (he : OutsideEventObjs i j) (hm : okey 0x2020 2 ≠ okey i j) (s : State) :
    oget (storeDefaulted s) i j = oget (rwpCleared s) i j := by
  unfold storeDefaulted
  dsimp only
  split
  · rw [oget_raise he, oget_oset_ne _ _ hm]
  · rw [oget_oset_ne _ _ hm]

theorem loadStore_unreadable_board (s : State) : (loadStore s false).board = (rwpCleared s).board :=
  (same_raise _ _ _).board_eq.trans (storeDefaulted_board s)

theorem oget_loadStore_unreadable {i j : Nat} (he : OutsideEventObjs i j) (hm : okey 0x2020 2 ≠ okey i j) (s : State) :
    oget (loadStore s false) i j = oget (rwpCleared s) i j :=
  (oget_raise he _ _ _).trans (oget_storeDefaulted he hm s)

theorem holds_loadStore_unreadable (s : State) : Holds 0x1119 1 (loadStore s false) := holds_raise_new _ _ _

/-! The Steward's start. -/

theorem logsNothing_epUp (s : State) (e : Nat) : LogsNothing s (epUp s e) := by
  refine LogsNothing.trans ?_ (logsNothing_notifyEp _ e false)
  exact logsNothing_setEp s rfl

theorem LogsNothing.after_epUp_if {s t : State} (h : LogsNothing s t) (b : Bool) (e : Nat) :
    LogsNothing s (if b then epUp t e else t) := by
  split
  · exact h.trans (logsNothing_epUp t e)
  · exact h

theorem logsNothing_setPort (s : State) (p : Nat) (x : Port) : LogsNothing s (setPort s p x) := .of_fields rfl rfl rfl rfl

theorem logsNothing_fullTrain (s : State) {p : Nat} (hp : p < 32) : LogsNothing s (fullTrain s p) where
  evLog := rfl
  lostRun _ := rfl
  board := rfl
  objs _ _ hij := oget_oset_ne _ 1 (hij p hp)

theorem logsNothing_signalDetect (s : State) {p : Nat} (hp : p < 32) : LogsNothing s (signalDetect s p) := by
  unfold signalDetect portSignal
  dsimp only
  split
  · split
    · exact (logsNothing_setPort s p _).trans (logsNothing_fullTrain _ hp)
    · exact logsNothing_setPort s p _
  · exact logsNothing_setPort s p _

theorem logsNothing_trainPorts (s : State) {ps : List Nat} (hps : ∀ p ∈ ps, p < 32) : LogsNothing s (trainPorts s ps) := by
  unfold trainPorts
  refine List.foldlRecOn (motive := LogsNothing s) _ _ (.refl s) ?_
  intro t ht p hp
  split
  · exact ht.trans (logsNothing_signalDetect t (hps p hp))
  · exact ht

/-- Once the store is loaded and the stage is 4, the Steward's start logs nothing. -/
theorem logsNothing_stewardUp (s : State) (readable : Bool) :
    LogsNothing (oset (loadStore s readable) 0x2060 1 4) (stewardUp s readable) := by
  unfold stewardUp
  generalize loadStore s readable = l
  dsimp only
  refine LogsNothing.trans ?_ (logsNothing_trainPorts _ fun p => List.mem_range.mp)
  refine LogsNothing.after_epUp_if ?_ _ 1
  refine LogsNothing.trans ?_ (logsNothing_epUp _ 2)
  exact .of_fields rfl rfl rfl rfl

/-- A stage that ends well does its own work. -/
theorem exec_bootStageEnd_well {s : State} {st : Fin 8} {r : StageEnd} (hrun : stageRuns s st.val = true) (hok : r.fail = none) :
    exec (.bootStageEnd st r) s = .next (watchSafe (stageDone s st.val r)) := by
  refine congrArg (fun t => Host.Outcome.next (watchSafe t)) ?_
  simp only [bootStageEnd, hrun, hok, Bool.not_true, Bool.false_eq_true, if_false]

/-- The object is none that the Steward's start without a store writes: the event log's, the ports' states, 0x2060:01 and 0x2020:02. -/
structure OutsideStewardStart (i j : Nat) : Prop where
  events : OutsideEventObjs i j
  ports : NotPortState i j
  stage : okey 0x2060 1 ≠ okey i j
  mode : okey 0x2020 2 ≠ okey i j

theorem outsideStewardStart_of_isRwp {i j : Nat} (hj : j < 256) (h : isRwp i j = true) : OutsideStewardStart i j where
  events := outsideEventObjs_of_isRwp hj h
  ports := notPortState_of_isRwp hj h
  stage := okey_ne_of_isRwp hj (by decide) h (by decide +kernel)
  mode := okey_ne_of_isRwp hj (by decide) h (by decide +kernel)

/-- The objects of Table 18-12 are none of the event log's and no port's state. -/
theorem outside_boot_objs {j : Nat} (hj : j < 256) : OutsideEventObjs 0x2060 j ∧ NotPortState 0x2060 j := by
  unfold OutsideEventObjs NotPortState okey portIdx
  refine ⟨⟨by omega, fun e he => by omega⟩, fun p hp => by omega⟩

theorem outsideStewardStart_failedUnit : OutsideStewardStart 0x2060 3 where
  events := (outside_boot_objs (by decide)).1
  ports := (outside_boot_objs (by decide)).2
  stage := by decide
  mode := by decide

section
variable (s : State)

theorem holds_stewardUp_unreadable : Holds 0x1119 1 (stewardUp s false) :=
  ((holds_loadStore_unreadable s).after_stage 4).of_logsNothing (logsNothing_stewardUp s false)

theorem stewardUp_unreadable_board : (stewardUp s false).board = (rwpCleared s).board :=
  (logsNothing_stewardUp s false).board.trans (loadStore_unreadable_board s)

theorem oget_stewardUp_stage (readable : Bool) : oget (stewardUp s readable) 0x2060 1 = 4 := by
  rw [(logsNothing_stewardUp s readable).objs _ _ (outside_boot_objs (by decide)).2, oget_oset]

theorem oget_stewardUp_unreadable {i j : Nat} (h : OutsideStewardStart i j) :
    oget (stewardUp s false) i j = oget (rwpCleared s) i j := by
  rw [(logsNothing_stewardUp s false).objs _ _ h.ports, oget_oset_ne _ _ h.stage, oget_loadStore_unreadable h.events h.mode]

end

/-- Settles O58: the boot goes on past stage 3 from an emptied store, and the record of 0x1119 outlasts the one event, SVC_SAFE, that
the same command may still raise. -/
theorem persistentStoreUnreadable : Obligations.PersistentStoreUnreadable := by
  intro s r hrun hok hstore
  have hexec : exec (.bootStageEnd 3 r) s = .next (watchSafe (stewardUp s false)) := by
    rw [← hstore]
    exact exec_bootStageEnd_well hrun hok
  have hboot : s.board.boot = true := (Bool.and_eq_true_iff.mp hrun).1
  have hboard := watchSafe_board (stewardUp s false)
  rw [stewardUp_unreadable_board] at hboard
  refine ⟨_, hexec, ?_, ?_, ?_, ?_, ?_, ?_, ?_⟩
  · rw [hboard]
    exact hboot
  · rw [oget_watchSafe (outside_boot_objs (by decide)).1, oget_stewardUp_stage]
  · rw [oget_watchSafe outsideStewardStart_failedUnit.events, oget_stewardUp_unreadable s outsideStewardStart_failedUnit,
      oget_rwpCleared s _ (by decide), if_neg (by decide +kernel)]
  · intro i j hj hrwp
    have hout := outsideStewardStart_of_isRwp hj hrwp
    rw [oget_watchSafe hout.events, oget_stewardUp_unreadable s hout, oget_rwpCleared s i hj, if_pos hrwp]
  · rw [hboard]
    rfl
  · rw [hboard]
    rfl
  · exact mem_evLog_watchSafe (holds_stewardUp_unreadable s)

end Sys2Proof.Machine
end
